-- ==== Sys2Proof/Word.lean ====
section
/-! DEFINITION. The word types of the MB40 and the ranges of its units.

Bits that software sees as a word are bit vectors (00_scope.md R13, R192); which unit is meant is a bounded number. -/

namespace Sys2Proof

abbrev Byte := BitVec 8
abbrev W16 := BitVec 16
abbrev W32 := BitVec 32
abbrev W64 := BitVec 64

/-- Core number, 0 to 63 (R5). -/
abbrev CoreId := Fin 64
/-- Context of a core, 0 to 3 (R177). -/
abbrev CtxId := Fin 4
/-- Engine group of a core, 0 to 7. -/
abbrev GrpId := Fin 8
/-- Engine group 0 to 7, or unit 8, the sparse engines (R139). -/
abbrev UnitId := Fin 9
/-- DMA queue of a core, 0 to 7 (R335). -/
abbrev QId := Fin 8
/-- Rafter line, 0 to 15 (R311). -/
abbrev LineId := Fin 16
/-- Yalek link port, 0 to 15 (R348). -/
abbrev PortId := Fin 16
/-- PCIe function: 0 physical, 1 to 15 virtual (R401). -/
abbrev FnId := Fin 16
/-- Attic stack, 0 to 7 (R324). -/
abbrev StackId := Fin 8
/-- Cellar port, 0 to 3 (R329). -/
abbrev CelId := Fin 4
/-- Shelf of a storeroom, 0 to 31 (R270). -/
abbrev ShelfId := Fin 32
/-- Bay, 0 to 15 (R18). -/
abbrev BayId := Fin 16
/-- DMA tag of a core, 0 to 511 (R336). -/
abbrev TagId := Fin 512

/-- The 32 bytes of a sequencer command, words 0 to 7 (R192). -/
abbrev Cmd := Vector W32 8
/-- The 64 bytes of an output descriptor, words 0 to 15 (R203). -/
abbrev Desc := Vector W32 16

end Sys2Proof
end

