-- ==== Sys2Proof/Syntax.lean ====
section
/-! DEFINITION. The commands of the block: one constructor per row of spec/opcode_table.json, and their operands.

The table gives the rows no bits and no fields; the operands are read from the rules (log entry 26). -/

namespace Sys2Proof

/-- A register page of BAR0 (R414). -/
inductive Page where
  | pkg
  | mbx
  | seq (c : CoreId)
  | ctx (c : CoreId) (x : CtxId)
  | eg (c : CoreId) (g : GrpId)
  | se (c : CoreId)
  | fu (c : CoreId)
  | sto (c : CoreId)
  | sync (c : CoreId)
  | att (s : StackId)
  | cel (p : CelId)
  | lnk (i : PortId)
  | pwr
  | sec
  deriving DecidableEq, Repr

/-- A flit as the receiver sees it (R352). `good` is the outcome of FEC decoding and CRC-64; `fecCorr` and `fecUncorr` the codewords
that FEC corrected and could not correct (R378); `body` the message bytes. -/
structure Flit where
  good : Bool
  seq : BitVec 12
  ack : BitVec 12
  nak : Bool
  idle : Bool
  cvc : BitVec 2
  ccnt : BitVec 12
  fecCorr : Nat
  fecUncorr : Nat
  body : List Byte
  deriving DecidableEq, Repr

/-- An access that a lane of a storeroom port presents to a shelf (R273): a word of its line, whether it writes, and whether it is a
read-modify-write (R269). -/
structure ShelfAcc where
  port : Fin 5
  lane : Fin 9
  word : BitVec 24
  write : Bool
  rmw : Bool
  deriving DecidableEq, Repr

/-- An arbiter of R340: a channel of an attic stack, or a cellar port. -/
inductive ArbId where
  | attic (s : StackId) (ch : Fin 32)
  | cellar (p : CelId)
  deriving DecidableEq, Repr

/-- A transaction at an arbiter: requester index of R340, its tag where a core requests, and ns since it reached the arbiter. -/
structure ArbReq where
  req : Fin 81
  tag : Option TagId
  waited : Nat
  deriving DecidableEq, Repr

/-- An output of a mesh router, and an input: the fixed order of R26. -/
inductive Dir where
  | north | east | south | west | loc
  deriving DecidableEq, Repr

/-- A PCIe configuration request (R401): the registers whose effect the spec names, and the others. -/
inductive CfgReg where
  | numVFs
  | vfEnable
  | bar (i : Fin 3)
  | bar2Size
  | vfBar2Size
  | power
  | msixControl
  | serialLo
  | serialHi
  | other (off : BitVec 12)
  deriving DecidableEq, Repr

structure CfgReq where
  reg : CfgReg
  write : Bool
  value : W64
  deriving DecidableEq, Repr

/-- What the board and the devices around the package give at start-up (R435, R331, R465). -/
structure StartEnv where
  /-- STRAP[3:0], sampled before PERST_N deasserts. -/
  strap : BitVec 4
  /-- The flash delivers the firmware image, and the microcode image, whole (R440 reason READ). -/
  fwRead : Bool
  mcRead : Bool
  /-- Device on each cellar port: capacity in bytes (0: none), width code and speed bit of R346. -/
  cap : Vector Nat 4
  width : Vector (BitVec 2) 4
  speed : Vector Bool 4
  /-- The host link's rate and width codes, as PCIE_LINK_UP gives them. -/
  rate : Nat
  lanes : Nat
  /-- The dynamic address that the board's I3C controller gives the package (R452); none: it gives none. -/
  i3cAddr : Option (BitVec 7) := none
  deriving DecidableEq, Repr

/-- Where a management command came from: the mailbox, whose registers hold it, or I3C, with the first byte of its payload, the op,
and the rest (R450, R452). -/
inductive MgtReq where
  | mailbox
  | i3c (op : Byte) (arg0 arg1 : W32) (data : List Byte)
  deriving DecidableEq, Repr

/-- A 1 µs sample of the current sensor of each core engine island, in mA (R382). -/
structure PowerSample where
  cur : Vector Nat 64
  deriving DecidableEq, Repr

/-- A 10 µs junction sample (R263, R382, R393): every sensor, numbered as R393 numbers them, in °C; the rail of each island, in mV;
the temperature of each stack. -/
structure JunctionSample where
  sensor : Vector Int 304
  rail : Vector Nat 64
  stackTemp : Vector Nat 8
  deriving DecidableEq, Repr

/-- What the cellar devices do with the requests of a host access (R332, R333): the lines, package address div 64, whose request gets
no response in time, and those that a device returns poisoned. -/
structure DevAns where
  late : List Nat
  poison : List Nat
  deriving DecidableEq, Repr

/-- The commands: one constructor per row of the table. -/
inductive Instr where
  -- sequencer commands, issued by a context with the 32 bytes given (R192 to R217)
  | nop (c : CoreId) (x : CtxId) (w : Cmd)
  | tbuild (c : CoreId) (x : CtxId) (w : Cmd)
  | tile (c : CoreId) (x : CtxId) (w : Cmd)
  | stile (c : CoreId) (x : CtxId) (w : Cmd)
  | drain (c : CoreId) (x : CtxId) (w : Cmd)
  | move (c : CoreId) (x : CtxId) (w : Cmd)
  | fill (c : CoreId) (x : CtxId) (w : Cmd)
  | copy (c : CoreId) (x : CtxId) (w : Cmd)
  | xpose (c : CoreId) (x : CtxId) (w : Cmd)
  | fin (c : CoreId) (x : CtxId) (w : Cmd)
  | opt (c : CoreId) (x : CtxId) (w : Cmd)
  | signal (c : CoreId) (x : CtxId) (w : Cmd)
  | wait (c : CoreId) (x : CtxId) (w : Cmd)
  | barrier (c : CoreId) (x : CtxId) (w : Cmd)
  | fence (c : CoreId) (x : CtxId) (w : Cmd)
  | rsignal (c : CoreId) (x : CtxId) (w : Cmd)
  | phase (c : CoreId) (x : CtxId) (w : Cmd)
  | rerun (c : CoreId) (x : CtxId) (w : Cmd)
  | loop (c : CoreId) (x : CtxId) (w : Cmd)
  | jump (c : CoreId) (x : CtxId) (w : Cmd)
  | halt (c : CoreId) (x : CtxId) (w : Cmd)
  -- sequencer events
  | implicitHalt (c : CoreId) (x : CtxId)
  | commandFetchRangeFault (c : CoreId) (x : CtxId)
  | issueArbitration (c : CoreId)
  | faultRecord (c : CoreId) (x : CtxId)
  -- unit events
  | tbuildSweepStart (c : CoreId) (u : UnitId)
  | tbuildComplete (c : CoreId) (u : UnitId)
  | tileStart (c : CoreId) (g : GrpId)
  | guardedTileEvaluation (c : CoreId) (g : GrpId)
  | tileComplete (c : CoreId) (g : GrpId)
  | stileStart (c : CoreId)
  | stileComplete (c : CoreId)
  | drainStart (c : CoreId)
  | drainComplete (c : CoreId)
  | finComplete (c : CoreId)
  | optComplete (c : CoreId)
  | dmaTransactionStart (c : CoreId)
  | dmaTransactionComplete (c : CoreId) (tag : TagId)
  | dmaCommandComplete (c : CoreId) (q : QId)
  -- synchronisation
  | syncSignalArrival (c : CoreId)
  | syncDecrement (c : CoreId)
  | waiterReady (c : CoreId) (x : CtxId)
  | syncTimeout (c : CoreId) (x : CtxId)
  | deadlock (c : CoreId)
  | rafterLineAssert (l : LineId)
  | syncDbgAddrWrite (fn : FnId) (c : CoreId) (value : W32)
  | syncHostSigWrite (fn : FnId) (c : CoreId) (n : W32)
  -- contexts and registers
  | doorbell (fn : FnId) (off : BitVec 20) (read : Bool)
  | contextStart (c : CoreId) (x : CtxId)
  | freeze (fn : FnId) (c : CoreId) (x : CtxId) (on : Bool)
  | contextSave (fn : FnId) (c : CoreId) (x : CtxId)
  | contextRestore (fn : FnId) (c : CoreId) (x : CtxId)
  | contextReset (fn : FnId) (c : CoreId) (x : CtxId)
  | coreReset (fn : FnId) (c : CoreId)
  | pgEvtClear (fn : FnId) (p : Page) (bits : W32)
  | pgErrCodeRead (fn : FnId) (p : Page)
  | highHalfLatchRead (fn : FnId) (off : BitVec 26) (size : Nat)
  | fuMonStatRead (fn : FnId) (c : CoreId) (n : Fin 64)
  | stoCeAddrRead (fn : FnId) (c : CoreId)
  | counterClear (fn : FnId) (p : Page)
  | dmaQueueResume (fn : FnId) (c : CoreId) (q : QId)
  | phaseTableLoad (fn : FnId)
  | phaseTableLoadDone
  | registerWrite (fn : FnId) (off : BitVec 26) (size : Nat) (value : W64)
  | bar2Read (fn : FnId) (off : Nat) (len : Nat) (atomic : Bool) (dev : DevAns)
  | bar2Write (fn : FnId) (off : Nat) (data : List (Option Byte)) (ep : Bool) (dev : DevAns)
  | functionLevelReset (fn : FnId)
  | hotReset
  | packageReset
  | startUp (e : StartEnv)
  | storeroomInitDone (c : CoreId)
  | vddMgtUndervoltage
  -- storeroom, attic, cellar
  | storeroomEccCorrected (c : CoreId) (word : BitVec 24) (port : BitVec 3) (flips : BitVec 74)
  | correctionWriteback (c : CoreId) (h : ShelfId)
  | stoEccUncorr (c : CoreId) (word : BitVec 24) (port : BitVec 3) (lane : BitVec 4) (rmw : Bool)
      (flips : BitVec 74)
  | storeroomScrub (c : CoreId) (h : ShelfId)
  | shelfGrant (c : CoreId) (h : ShelfId) (accs : List ShelfAcc)
  | atticEccUncorr (t : StackId) (addr : BitVec 48) (req : BitVec 7) (tag : Option TagId) (scrub : Bool) (flips : List W64)
  | atticRefresh (t : StackId) (ch : Fin 32)
  | atticPatrolScrub (t : StackId) (ch : Fin 32) (corrected : Bool)
  | arbiterGrant (a : ArbId) (arrived : List ArbReq) (ns ce : Nat)
  | cellarResponse (c : CoreId) (tag : TagId) (poisonLines : List Nat)
  | cellarTimeout (c : CoreId) (tag : TagId) (lines : List Nat)
  | cellarLinkDown (p : CelId)
  -- links
  | linkTrainingComplete (i : PortId) (lanes : Byte) (peer : W16) (peerPort : BitVec 4)
  | flitReceive (i : PortId) (f : Flit)
  | nakReplay (i : PortId)
  | idleFlit (i : PortId)
  | wr (i : PortId) (ctl : Bool)
  | sig (i : PortId) (ctl : Bool)
  | rd (i : PortId)
  | rdr (i : PortId)
  | ack (i : PortId)
  | creditReturn (i : PortId)
  | lnkPullGo (fn : FnId) (i : PortId)
  | pullComplete (i : PortId)
  | lossOfSignal (i : PortId)
  | heartbeatTimeout (i : PortId)
  | retryLimit (i : PortId)
  | lnkCtrlWrite (fn : FnId) (i : PortId) (value : W32)
  -- power and heat
  | phaseDecision (c : CoreId)
  | poolDecision (c : CoreId)
  | variantChange (c : CoreId)
  | currentSample (p : PowerSample)
  | junctionSensorSample (j : JunctionSample)
  | avsbusRead (volts amps temps : Vector Nat 10)
  | powerCapOnset
  | powerCapLift
  | thermThrottle (sensor : BitVec 10) (temp : W16)
  | throttleLift
  | thermalTrip (sensor : BitVec 10) (temp : Byte)
  | droopStretch (c : CoreId) (rail : Nat)
  | droopRestore (c : CoreId) (cycles : Vector Nat 4) (above rail : Nat)
  -- management
  | info (r : MgtReq)
  | stage (r : MgtReq)
  | recover (r : MgtReq) (e : StartEnv)
  | commit (r : MgtReq) (flashOk : Bool)
  | svnAdvance (r : MgtReq)
  | attest (r : MgtReq)
  | cert (r : MgtReq)
  | measure (r : MgtReq)
  | unmeasure (r : MgtReq)
  | celKey (r : MgtReq)
  | log (r : MgtReq)
  | dbgChallenge (r : MgtReq)
  | dbgUnlock (r : MgtReq)
  | dbgLock (r : MgtReq)
  | telemetry
  | setEndpointId (eid : Byte)
  | getEndpointId
  | getMctpVersionSupport (msgType : Byte)
  | getMessageTypeSupport
  | logRecord (time : W64)
  | watchdogRestart (fwRead : Bool)
  | bypass
  | idcode
  | samplePreload (ins preload : List Bool)
  | extest
  | clamp
  | highz
  | routerGrant (b : BayId) (out : Dir)
  | meshAcknowledgement (c : CoreId)
  | configurationRequest (fn : FnId) (r : CfgReq)
  | pcieLinkUp (rate lanes : Nat)
  | mailboxCommandComplete
  | saveRestoreComplete (c : CoreId) (x : CtxId)
  | privateTapInstruction (op : Byte)
  | trstNAssertion
  deriving DecidableEq, Repr

end Sys2Proof
end

