-- ==== Sys2Proof/Decode.lean ====
section
/-! DEFINITION. The table word of a command: no row of spec/opcode_table.json gives bits, so no word spells a command. -/

namespace Sys2Proof

/-- The command that a word spells by the table's bits: none, since the table gives no row any bits
(spec/opcode_table.json: every row's "fields" is empty and no row has "fixed"). -/
def decodeTableWord (_nbits _w : Nat) : Option Instr := none

end Sys2Proof
end

