-- ==== Sys2Proof/Config.lean ====
section
/-! DEFINITION. What the package leaves open: free values.

Each is an opaque constant: no proof can see its value, so a claim holds whatever it is. -/

namespace Sys2Proof.Config
open Sys2Proof

/-- The byte a cellar device delivers at a package address that nothing has written (R436). DESIGN CHOICE: a free value,
log entry 7. -/
opaque cellarInitial : Nat → Byte

/-- The byte that a restore or a phase table load finds at an unmapped package address (R185, R384). DESIGN CHOICE: a free
value, log entry 32. -/
opaque unmappedByte : Nat → Byte

/-- Whether the device stored a 64-byte line whose write request timed out: the n-th such line (R333). DESIGN CHOICE: a free
value, log entry 30. -/
opaque lateWrite : Nat → Bool

/-- Whether a command in execution had presented its n-th word of output when a core fault or a core reset stopped it (R422, R426).
DESIGN CHOICE: a free value, log entry 12. -/
opaque presented : Nat → Bool

/-- Contents of the serial flash as the board provides it, by flash offset (R437). DESIGN CHOICE: a free value, log entry 24. -/
opaque flashInitial : Nat → Byte

/-- Contents of the PSRAM devices before they are written, after the n-th loss of their power, by offset (R453). DESIGN CHOICE: a free
value, log entry 24. -/
opaque psramInitial : (n off : Nat) → Byte

/-- Which check rejects an image whose slot was partly written: reasons 1 to 4 (R440, R444). DESIGN CHOICE: a free value, log
entry 24. -/
opaque partlyWritten : Nat → Fin 4

/-- svn that IMAGE_REJECT reports where the flash could not be read (R440, R459). DESIGN CHOICE: a free value, log entry 24. -/
opaque unreadSvn : Nat → W32

/-- Code of the log record of a FLASH_ERR (R460). DESIGN CHOICE: a free value, log entry 35. -/
opaque flashErrCode : Nat → W16

/-- MCTP versions that the package reports for a message type (R452). DESIGN CHOICE: a free value, log entry 35. -/
opaque mctpVersions : Byte → List Byte

/-- The n-th draw of the random bit generator, one byte (R449, R451). DESIGN CHOICE: a free value, log entry 8. -/
opaque randomByte : Nat → Byte

/-- A configuration register whose layout the spec leaves to the PCIe standard: function, byte offset (R398, R401).
DESIGN CHOICE: a free value, log entry 15. -/
opaque cfgOther : (fn off : Nat) → W32

end Sys2Proof.Config
end

