-- ==== Sys2Proof/Machine/State.lean ====
section
/-! DEFINITION. The state of the package: plain data, every register, buffer, queue, mode and pin the spec names.

The registers of BAR0 stand in one map, `State.regs`, keyed by BAR0 offset (R414); a register that is not listed reads its
reset value (Pages.lean). What the registers only show (a queue, a context's state, a wait) is held by name below. -/

namespace Sys2Proof.Machine
open Sys2Proof

/-- Reasons of a fault of the MODEL. The package's own errors are records in the state (R418), so no command raises one. -/
inductive Fault where
  /-- Raised by no command: every behaviour of the spec is a next state, and every error of the package a record. Safe. -/
  | none
  deriving DecidableEq, Repr

/-- Reasons of a refusal. -/
inductive Refusal where
  /-- Raised by an arm of `exec` whose command has no meaning yet. Safe: the run stops. -/
  | notModelled (mnemonic : String)
  /-- Raised by PRIVATE_TAP_INSTRUCTION at unlock level 2: the spec names no effect of it (R458). Safe: the run stops. -/
  | privateTap (op : Byte)
  deriving DecidableEq, Repr

/-! ## Memory -/

/-- The memories behind the package address map (R322). `data` holds the storeroom and attic bytes that are not 0, by package
address, addresses strictly rising; `cellar` the cellar bytes ever written. `fe` and `poison` list, rising, the 8-byte words
(package address div 8) whose FE or poison bit is 1; a poisoned cellar line has its 8 words listed (R332). `key` lists the
cellar lines (package address div 64) stored under a key, and the key (R334). `flips` lists the storeroom words with errors in
the array: which of the 74 stored bits of R266 are flipped (R267): data [63:0], FE [64], poison [65], check [73:66]. -/
structure Mem where
  data : List Host.Cell
  cellar : List Host.Cell
  fe : List Nat
  poison : List Nat
  key : List (Nat × Nat)
  flips : List (Nat × BitVec 74)
  deriving DecidableEq, Repr

/-- A storeroom word as software sees it (R266). -/
structure StoWord where
  data : W64
  fe : Bool
  poison : Bool
  deriving DecidableEq, Repr

/-! ## Commands in flight -/

/-- The word a completion signal or a SIGNAL names: core and word index (R294). -/
structure SigTarget where
  core : CoreId
  word : Nat
  deriving DecidableEq, Repr

/-- Where a guarded TILE stands (R253, R258): not guarded, waiting for its evaluation, or evaluated with the verdicts of
blocks A and B. -/
inductive Guard where
  | free
  | waiting
  | done (skipA skipB : Bool)
  deriving DecidableEq, Repr

/-- A command that has issued: its words and descriptor as read at issue (R195), its run-time shapes (R161), its sampled slot
count (R115), its completion signal, and, for a guarded TILE, the TBUILD whose tiles are its key pair (R253). `stage` counts
the sweeps of a TBUILD: 0 none begun, 1 low sweep running, 2 low sweep complete, 3 last sweep running; of a TILE or STILE the
passes that have ended (R47); of a DRAIN 1 once it has read its last entry (R122). `sat`: a pair of it has saturated (R118). -/
structure Job where
  uid : Nat
  ctx : CtxId
  off : Nat
  cmd : Cmd
  desc : Desc
  m : Nat
  n : Nat
  k : Nat
  cnt : Nat
  slots : Nat
  sig : Option SigTarget
  key : Option (Nat × Nat)
  guard : Guard
  stage : Nat
  sat : Bool
  /-- of an STILE that has run a slot set: its packing, as SE_LAST_STILE shows it once it completes (R152) -/
  packing : Option W32 := none
  deriving DecidableEq, Repr

/-- A unit: commands accepted and not started, and commands in execution, oldest first (R186). -/
structure EngUnit where
  queue : List Job
  exec : List Job
  deriving DecidableEq, Repr

/-- A run of bytes that a compressing or quantising MOVE writes, each byte with its poison (R335, R420). -/
structure OutSeg where
  addr : Nat
  data : List (Byte × Bool)
  deriving DecidableEq, Repr

/-- A command that its DMA queue has started (R335): the cursor of its next transaction, the words a COPY found, the bytes that a
converting MOVE has received, by address, and those it writes, with the elements that its crates could not hold (R103), the rid and the
channel of an RSIGNAL (R361) and its first miss (SIG or not, offset), whether its last transaction has started, and whether its signal
is withheld (R333, R368, R372). -/
structure DmaRun where
  job : Job
  row : Nat
  off : Nat
  snap : List StoWord
  out : Option (List OutSeg)
  got : List (Nat × List (Byte × Bool))
  full : Option (Nat × Option Nat)
  rid : Option W16
  chan : Option (BitVec 2)
  miss : Option (Bool × W32)
  started : Bool
  withheld : Bool
  deriving DecidableEq, Repr

structure DmaQueue where
  queue : List Job
  run : List DmaRun
  halted : Bool
  deriving DecidableEq, Repr

/-- What one DMA transaction does (R335); `get` fills the source bytes of a converting MOVE from
position `pos` on, `gather` reads runs of bytes and writes them one after the other (R284). -/
inductive TxnBody where
  | move (src dst len : Nat)
  | get (pos src len : Nat)
  | gather (srcs : List (Nat × Nat)) (dst : Nat)
  | put (dst : Nat) (data : List (Byte × Bool))
  | fill (word n : Nat) (data : W64) (fe : Bool)
  | copy (word : Nat) (ws : List StoWord)
  | wr (port : PortId) (off : W32)
  | sg (port : PortId)
  deriving DecidableEq, Repr

/-- A transaction in flight: its tag (R336), queue and command; the cellar port whose answer it waits for; the key of its function when
it started (R449); the data it has received, where its read was granted or answered; whether its write was granted or answered, or is
not to be made any more (R422); the number of its posting where it writes to another core's storeroom (R209); the core's next number
when its write was presented to the storeroom or the mesh (R25, R422); its place among the grants of its cellar port (R343). -/
structure Txn where
  tag : Nat
  q : QId
  uid : Nat
  ctx : CtxId
  body : TxnBody
  cel : Option CelId
  key : Nat
  got : Option (List (Byte × Bool))
  wrote : Bool
  num : Option Nat
  sent : Option Nat := none
  turn : Option Nat := none
  deriving DecidableEq, Repr

/-! ## Contexts -/

/-- The states of a context (R177). -/
inductive CtxState where
  | halted | ready | wait | hold | faulted | frozen
  deriving DecidableEq, Repr

/-- An active loop level (R185, R213). -/
structure Loop where
  lvl : Nat
  start : Nat
  stop : Nat
  count : Nat
  deriving DecidableEq, Repr

/-- Wait kinds of R185. -/
inductive WaitKind where
  | preWait | wait | barrier | rerun
  deriving DecidableEq, Repr

/-- A wait-table entry (R293). `remain` is the time left in ac, none without a timeout (R304). `job` is the command that waits;
`plan` the realign list of a BARRIER, virtual ID, word and planned count (R316); `snap` the snapshot of a pooled RERUN. -/
structure Wait where
  ctx : CtxId
  kind : WaitKind
  vid : Byte
  word : Nat
  line : LineId
  n : Nat
  tclass : Fin 8
  remain : Option Nat
  job : Job
  plan : List (Byte × Nat × W32)
  deriving DecidableEq, Repr

/-- A code and its details, to be recorded in a page (R411, R418). -/
structure Rec where
  code : W16
  i0 : W32
  i1 : W32
  i2 : W32
  i3 : W32
  deriving DecidableEq, Repr

/-- What holds a context that is in HOLD state (R177), and what a waiting context waits to become. -/
inductive Hold where
  /-- nothing -/
  | free
  /-- the queue of the head command's unit, or the ord flag: the head has not issued -/
  | head
  /-- a FENCE: the commands, by uid, and the mesh postings it still waits for (R209) -/
  | fence (job : Job) (uids posts : List Nat)
  /-- a PHASE: entry, and once decided the next offset, 0 for the one that follows (R168, R388) -/
  | phase (job : Job) (entry : Nat) (decided : Option Nat)
  /-- a RERUN that waits for the context's earlier commands (R108) -/
  | rerun (job : Job)
  /-- a HALT that waits for the context's earlier commands (R211) -/
  | halt (job : Job) (code : W16)
  /-- a decrement on its way: the posting it waits for (R208) -/
  | decrement (job : Job) (post : Nat)
  /-- a fault found, waiting to be recorded by FAULT_RECORD (R219): offset of the faulted command -/
  | fault (r : Rec) (off : Nat)
  /-- released, READY after 4 ac by WAITER_READY (R302) -/
  | released
  deriving DecidableEq, Repr

/-- A save or a restore under way (R184); `pf`: function 0 started it (R403). -/
inductive SaveOp where
  | none
  | save
  | restore (pf : Bool)
  deriving DecidableEq, Repr

/-- A context. `under` is the state it returns to from FROZEN (R183); `frz` is PG_CTRL.freeze; `late` tells that the
pending doorbell was rung outside HALTED and FAULTED (R182); `head` the head command as fetched; `pre` tells that its pre-wait has
passed, and `desc` is the descriptor it read before that (R195); `loops` the active levels, most recently entered first (R213); `again` a
restored wait that joins its word again (R184); `resetting` a context reset that waits for issued commands (R425). -/
structure Ctx where
  run : CtxState
  under : CtxState
  frz : Bool
  pend : Bool
  late : Bool
  head : Option Cmd
  pre : Bool
  desc : Option Desc
  /-- the poisoned word that the fetch of the head command met, and whether that read found the uncorrectable error itself (R421) -/
  bad : Option (Nat × Bool)
  loops : List Loop
  hold : Hold
  saveOp : SaveOp
  again : Option Wait
  resetting : Bool
  deriving DecidableEq, Repr

/-! ## Engines -/

/-- Slice of a table set (R42). -/
inductive Slice where
  | whole | low | high
  deriving DecidableEq, Repr

/-- A table set of a dense group: for each of 8 engines the 32 columns of table weights as decoded, a column's 128 weights in
ascending k, and header bytes 64 to 191 (R44, R199). The product tables and the sums of R43 are functions of the weights
(R41, R43). A column that is not listed holds zeros. -/
structure TableSet where
  width : Nat
  slice : Slice
  w : List (List (List Int))
  ew : List (List Byte)
  deriving DecidableEq, Repr

/-- A slot of a sparse engine (R133): group, element indices, and whole weight values. -/
structure Slot where
  grp : Nat
  ia : Nat
  ib : Nat
  va : Int
  vb : Int
  deriving DecidableEq, Repr

/-- A slot set of one sparse engine: dense-stored or not, the slots read of each of 32 columns, header bytes 64 to 191. -/
structure EngSlots where
  dense : Bool
  cols : List (List Slot)
  ew : List Byte
  deriving DecidableEq, Repr

/-- A slot set of unit 8 (R142): recorded width, S, and the 8 engines. -/
structure SlotSet where
  width : Nat
  s : Nat
  eng : List EngSlots
  deriving DecidableEq, Repr

/-! ## A core -/

/-- Issue arbitration (R188, R189): last issuer, its consecutive commands, ac since its last issue, a context switched to and
not issued yet, and the age of each context. -/
structure IssueArb where
  last : Option CtxId
  streak : Nat
  since : Nat
  grant : Option CtxId
  age : Vector Nat 4
  deriving DecidableEq, Repr

/-- A signal on its way to a sync unit (R296, R297): what it names, its amount, its signaller, and where its outcome goes. -/
structure SyncMsg where
  word : Nat
  n : Nat
  dec : Bool
  gcid : W16
  src : CoreId
  ctx : CtxId
  post : Nat
  deriving DecidableEq, Repr

/-- What became of a posted mesh item: applied, a decrement refused for underflow with the count found, or refused under
SYNC_PEERS (R297, R298). -/
inductive Outcome where
  | applied
  | underflow (count : W32) (word : Nat) (core : CoreId)
  | refused
  deriving DecidableEq, Repr

/-- A mesh posting without acknowledgement (R209): context, number, and the SIGNAL that completes with it (R208). -/
structure Post where
  ctx : CtxId
  num : Nat
  job : Option Job
  deriving DecidableEq, Repr

structure AckMsg where
  ctx : CtxId
  post : Nat
  out : Outcome
  deriving DecidableEq, Repr

/-- The sums and the ratio that a read of FU_MON_STATn has latched (R241); whether no OPT has updated the monitor since (R244). -/
structure MonLatch where
  n : Nat
  usq : W32
  wsq : W32
  ratio : W32
  fresh : Bool
  deriving DecidableEq, Repr

/-- What a monitor held before the OPT of this ac; whether a STAT read had latched it since the OPT before (R244). -/
structure MonOld where
  n : Nat
  usq : W32
  wsq : W32
  ratio : W32
  stat : W32
  latched : Bool
  deriving DecidableEq, Repr

/-- One shelf (R269, R277, R282): last port granted, last lane granted of each port, the accesses presented and not yet granted with
the bc each has waited, oldest first, the read-modify-write whose second access is due, the bc that a scrub read has waited, the
scrubber's next line, and the accesses served in the latest bc. -/
structure Shelf where
  last : Nat
  lane : Vector Nat 5
  waiting : List (ShelfAcc × Nat)
  lock : Option ShelfAcc
  scrubWait : Option Nat
  line : Nat
  served : List ShelfAcc
  deriving DecidableEq, Repr

/-- A core engine island (R380 to R393): variant running, variant decided and its cause of R390, phase entry in force, a change
not yet taken, droop stretch; whether its next change is the onset of a throttle or a cap (R394). -/
structure Island where
  var : Fin 4
  decided : Fin 4
  cause : Nat
  entry : Option Nat
  goal : Option (Fin 4)
  stretched : Bool
  onset : Bool
  deriving DecidableEq, Repr

structure Core where
  ctxs : Vector Ctx 4
  /-- groups 0 to 7, unit 8, finishing unit 9 -/
  units : Vector EngUnit 10
  dmaq : Vector DmaQueue 8
  tables : Vector (Vector TableSet 2) 8
  slotSets : Vector SlotSet 2
  /-- uid and byte address of the tiles of the latest TBUILD issued on each group for each buffer (R253) -/
  builds : Vector (Vector (Option (Nat × Nat)) 2) 8
  /-- wait table, oldest arrival first (R293) -/
  waits : List Wait
  arb : IssueArb
  nextUid : Nat
  /-- uids issued and not complete, with their context and unit: 0 to 9 as `units`, 10 + q a DMA queue, 18 the sequencer -/
  live : List (Nat × CtxId × Nat)
  /-- the loft entries that the DRAIN in execution has read, once it has read its last (R122) -/
  drained : List (Nat × W64)
  /-- a core fault stands (R423), the unit that raised one in this ac (R428); a core reset is under way (R426) -/
  fault : Bool
  acFault : Option Nat
  /-- words of its storeroom whose uncorrectable error a read of the MESH port has found in this ac (R281, R421), and cellar lines
  whose fetch has timed out (R333) -/
  eccRead : List Nat
  lateRead : List Nat
  resetting : Bool
  /-- the deadlock detector's count, whether it has fired, and whether the MESH port was reached since the last ac (R309) -/
  dlk : Nat
  dlkFired : Bool
  touched : Bool
  /-- signals that have reached the core over the mesh, and acknowledgements -/
  inbox : List SyncMsg
  acks : List AckMsg
  /-- mesh postings without acknowledgement, and the next one's number -/
  posts : List Post
  nextPost : Nat
  txns : List Txn
  lastQ : QId
  shelves : Vector Shelf 32
  /-- what reads of FU_MON_STATn have latched (R241), and what the monitors that an OPT has updated in this ac held before (R244) -/
  monLatch : List MonLatch
  monAc : List MonOld
  island : Island
  deriving DecidableEq, Repr

/-! ## Mesh -/

/-- What a flit of a DMA transaction carries (R24): a read, a posted write, read data, the completion of a write. -/
inductive Leg where
  | read | write | data | done
  deriving DecidableEq, Repr

/-- A signal or a decrement, its acknowledgement, a flit of a DMA transaction, or a message whose effect its own row holds (R24): a host's or
a link's read, write or signal, a PHASE's request, the power manager's word; `answer` is the bay a read's data go back to. -/
inductive MeshMsg where
  | signal (dst : CoreId) (m : SyncMsg)
  | ack (dst : CoreId) (a : AckMsg)
  | txn (c : CoreId) (tag : Nat) (leg : Leg) (home : BayId)
  | carried (answer : Option BayId)
  deriving DecidableEq, Repr

/-- A flit of the mesh (R24, R26): class, destination bay, cycles waited at its router output. -/
structure MeshFlit where
  resp : Bool
  dst : BayId
  msg : MeshMsg
  waited : Nat
  deriving DecidableEq, Repr

/-- Router buffers: for bay b, input d (0 north, 1 east, 2 south, 3 west, 4 local) and class k (0 request, 1 response) the
flits at 10 b + 2 d + k; for bay b, output d and class k the input granted last, at the same index. -/
structure Mesh where
  bufs : Vector (List MeshFlit) 160
  last : Vector Nat 160
  deriving DecidableEq, Repr

/-! ## Links -/

/-- A Yalek message (R356). `bad`: a reserved field is set. -/
structure Msg where
  kind : Byte
  vc : BitVec 2
  pm : Bool
  last : Bool
  status : BitVec 4
  gcid : W16
  rid : W16
  tag : W16
  hid : Byte
  off : W32
  len : BitVec 6
  sw : W32
  n : W32
  bad : Bool
  payload : List Byte
  poison : List Bool
  deriving DecidableEq, Repr

/-- The pull engine (R369): bytes asked for so far, reads outstanding (tag, package address, length in 64-byte units), and
whether one missed; the registers sampled at the start. -/
structure Pull where
  asked : Nat
  total : Nat
  hid : Byte
  off : W32
  dst : Nat
  sig : W32
  rid : W16
  out : List (W16 × Nat × Nat)
  nextTag : Nat
  miss : Bool
  deriving DecidableEq, Repr

/-- A link port (R349 to R372): next sequence number sent and expected, the replay buffer, the flits driven on the lanes, message
bytes not yet in a flit, a replay asked for, consecutive naks, whether flits are discarded until a replay, message bytes received, received
messages by channel, credits held and owed, credits received, the next rid, the miss filter, the pull. -/
structure Port where
  txSeq : BitVec 12
  rxSeq : BitVec 12
  replay : List Flit
  wire : List Flit
  txBytes : List Byte
  nak : Option (BitVec 12)
  nakSeq : BitVec 12
  nakRun : Nat
  sendNak : Bool
  rxBytes : List Byte
  rxq : Vector (List Msg) 4
  credit : Vector Nat 4
  owed : Vector Nat 4
  creditIn : List (BitVec 2 × BitVec 12)
  nextRid : W16
  filter : List W16
  pull : Option Pull
  deriving DecidableEq, Repr

/-! ## Attic and cellar controllers -/

/-- An arbiter (R340, R341): the transactions waiting, in order of arrival; the requester whose turn it is, grants made in its turn,
and whether the turn has ended; refresh owed (R328); the transaction granted last (the arbiter's output); how many it has granted. -/
structure Arbiter where
  waiting : List ArbReq
  turn : Nat
  used : Nat
  ended : Bool
  refresh : Bool
  granted : Option ArbReq
  count : Nat
  deriving DecidableEq, Repr

/-! ## Power -/

/-- A phase entry (R385). -/
structure PhaseEntry where
  mask : W64
  offer : BitVec 4
  pool : W16
  energy : Vector Nat 4
  dur : Vector Nat 4
  deriving DecidableEq, Repr

/-- A pool entry (R385). -/
structure PoolEntry where
  cnt : Nat
  member : Vector Nat 8
  deriving DecidableEq, Repr

/-- A recorded decision (R386, R388): entry, instance, variant, pool member (none: an ordinary phase or the exit), whether it is
a pool's exit, the cause of R390, and the cores that have taken it. -/
structure Decision where
  entry : Nat
  inst : Nat
  var : Fin 4
  member : Option Nat
  exit : Bool
  cause : Nat
  taken : W64
  deriving DecidableEq, Repr

structure Power where
  phases : List PhaseEntry
  pools : List PoolEntry
  decisions : List Decision
  /-- arrivals of a core at an entry (R386), at core * 65536 + entry -/
  counts : List (Nat × Nat)
  /-- members run in the current run of a pool (R388) -/
  poolRun : List (Nat × List Nat)
  /-- the last 100 samples, newest first: package power formed in each, and power of each island, µW (R383) -/
  samples : List (Nat × Vector Nat 64)
  /-- P_pkg after each of the last 1,000 samples, newest first, µW (R392) -/
  averages : List Nat
  /-- power of all islands in the last sample before the latest AVSBus reading, µW (R383, log entry 23) -/
  atRead : Nat
  /-- consecutive 1 µs samples with P_pkg within budget; consecutive junction samples below the lift level -/
  under : Nat
  cool : Nat
  /-- the latest junction sample, °C, by sensor index (R393); the rail of each island, mV -/
  temp : Vector Int 304
  rail : Vector Nat 64
  /-- a thermal trip has stopped the clocks (R393) -/
  tripped : Bool
  /-- AVSBus readings of the rails (R382, R470): mV, mA, °C; the setting of rail 0 in mV -/
  volts : Vector Nat 10
  amps : Vector Nat 10
  temps : Vector Nat 10
  rail0 : Nat
  deriving DecidableEq, Repr

/-! ## Host -/

/-- Configuration state of a function (R398, R401, R405). -/
structure Fn where
  msixEn : Bool
  msixMask : Bool
  d3 : Bool
  bars : Vector W64 3
  deriving DecidableEq, Repr

/-- A completion returned to the host: Unsupported Request, Configuration Request Retry Status, EP, data. -/
structure Cpl where
  ur : Bool
  crs : Bool
  ep : Bool
  data : List Byte
  deriving DecidableEq, Repr

structure MsixMsg where
  fn : Nat
  vec : Nat
  addr : W64
  data : W32
  deriving DecidableEq, Repr

structure HostIf where
  linkUp : Bool
  rate : Nat
  lanes : Nat
  fns : Vector Fn 16
  numVFs : Nat
  vfEn : Bool
  /-- log2 of the BAR2 size in GiB, physical and virtual -/
  bar2 : Nat
  vfBar2 : Nat
  /-- MSI-X tables: word d of entry v of function f at 512 f + 4 v + d -/
  msix : List (Nat × W32)
  /-- pending bits, at 128 f + v -/
  pba : List Nat
  /-- the completions of the latest request that had any (R398) -/
  cpl : List Cpl
  msixSent : List MsixMsg
  deriving DecidableEq, Repr

/-! ## Management -/

/-- Values set at manufacture or burned (R6, R325, R415, R439, R445, R456). -/
structure Fuses where
  coreEn : W64
  attic : Byte
  step : Byte
  serial : W64
  keyHash : Vector (Vector Byte 32) 4
  revoked : Vector Bool 4
  /-- thermometer fields of the minimum svn (R439) -/
  svnFw : W64
  svnMc : W64
  debugHash : Vector Byte 32
  /-- identity secret and certificate chain (R445) -/
  secret : Vector Byte 32
  chain : List Byte
  /-- Feleth's PCI-SIG vendor ID (R452) -/
  vendor : W16
  setpoint : Vector (Vector Nat 4) 64
  jedec : BitVec 11
  deriving DecidableEq, Repr

/-- A schedule measurement slot (R448). -/
structure SchedSlot where
  ok : Bool
  len : W64
  digest : List Byte
  deriving DecidableEq, Repr

/-- A code forwarded to the controller: page (none: the controller itself), code, details, watchdog flag (R454). -/
structure LogSrc where
  page : W32
  code : W16
  info : Vector W32 4
  wdog : Bool
  deriving DecidableEq, Repr

/-- The result of a command that the controller has carried out (R450, R452); MBX_RET0 only where the command gives one. Over I3C
`vendor` is the vendor ID of a message of type 0x7E, none in an MCTP control message. -/
structure Served where
  status : Nat
  ret0 : Option W32
  data : List Byte
  vendor : Option W16
  deriving DecidableEq, Repr

inductive TapIr where
  | bypass | idcode | sample | extest | clamp | highz
  deriving DecidableEq, Repr

/-- The TAP (R458): instruction, data register as selected, boundary cells. -/
structure Tap where
  ir : TapIr
  dr : List Bool
  cells : List Bool
  deriving DecidableEq, Repr

structure Mgmt where
  fuses : Fuses
  /-- flash bytes ever written; slots whose writing was cut short: firmware, microcode; slots that a COMMIT is writing (R444) -/
  flash : List Host.Cell
  flashBad : Vector Bool 2
  committing : Vector Bool 2
  /-- bytes of the two PSRAM devices written since they last had power, device 1 from 0x200_0000 on, and how often that was lost
  (R453) -/
  psr : List Host.Cell
  psram : Nat
  /-- index of the next log record; records written since the start-up; whether those found in the ring are kept (R453); codes
  waiting; whether one was lost -/
  logNext : Nat
  logNew : Nat
  logKeep : Bool
  logq : List LogSrc
  lost : Bool
  boot : Nat
  served : Option Served
  level : Nat
  nonce : Option (List Byte)
  slots : Vector (Option SchedSlot) 16
  /-- keys of the cellar key slots, each named by its draw (Memory.lean); none: empty (R334, R449) -/
  keys : Vector (Option Nat) 16
  eid : Byte
  /-- dynamic address on the I3C bus; none until START_UP brings one (R452) -/
  dynAddr : Option (BitVec 7)
  /-- the answer last given over I3C (R452) -/
  i3c : Option Served
  /-- in-band interrupts raised on the I3C bus -/
  ibi : Nat
  svnFw : Nat
  svnMc : Nat
  /-- the boot ROM has read the header of the firmware image since PERST_N was deasserted (R465) -/
  hdrRead : Bool
  /-- the firmware serves requests (R435, R442, R455) -/
  up : Bool
  tap : Tap
  deriving DecidableEq, Repr

/-- The pins of R464 and R465: true is the asserted or driven-high level as named. -/
structure Pins where
  perst : Bool
  thermtrip : Bool
  alert : Bool
  celPerstHigh : Vector Bool 4
  strap : BitVec 4
  vddMgt : Bool
  deriving DecidableEq, Repr

/-- The state of the package. -/
structure State where
  /-- commands waiting, first in first out (the task's queue) -/
  pending : List Instr
  /-- registers that do not hold their reset value, by BAR0 offset, offsets strictly rising (R414) -/
  regs : List (Nat × W32)
  /-- high halves latched by a read of the low half, by BAR0 offset of the high half (R13) -/
  high : List (Nat × W32)
  /-- details latched by a read of PG_ERR_CODE, by BAR0 offset of the page (R411) -/
  info : List (Nat × Vector W32 4)
  cores : Vector Core 64
  mem : Mem
  /-- loft entries that are not (+0, +0): s in bits [31:0], c in bits [63:32] (R87), by `loftKey` -/
  loft : List (Nat × W64)
  mesh : Mesh
  ports : Vector Port 16
  /-- arbiters: attic stack s, channel ch at 32 s + ch, cellar port p at 256 + p -/
  arbs : Vector Arbiter 260
  /-- next patrol line of channel ch of stack s, at 32 s + ch (R328) -/
  patrol : Vector Nat 256
  power : Power
  host : HostIf
  mgmt : Mgmt
  pins : Pins
  /-- counter behind the free values (log entry 8); the model's own -/
  free : Nat
  deriving DecidableEq, Repr

/-! ## Reset -/

def Cmd.zero : Cmd := Vector.replicate 8 0
def Desc.zero : Desc := Vector.replicate 16 0

def Mem.reset : Mem := { data := [], cellar := [], fe := [], poison := [], key := [], flips := [] }

/-- A context after package reset: HALTED, no doorbell, every level inactive (R178, R182). -/
def Ctx.reset : Ctx :=
  { run := .halted, under := .halted, frz := false, pend := false, late := false, head := none, pre := false, desc := none, bad := none,
    loops := [], hold := .free, saveOp := .none, again := none, resetting := false }

/-- A cleared table buffer: zero entries with a recorded width of W8 (R46). -/
def TableSet.reset : TableSet := { width := 8, slice := .whole, w := [], ew := [] }

/-- A cleared slot buffer: every column has a count of zero (R142); its recorded width is a DESIGN CHOICE that nothing
reads, log entry 21. -/
def SlotSet.reset : SlotSet := { width := 8, s := 0, eng := [] }

def IssueArb.reset : IssueArb :=
  { last := none, streak := 0, since := 0, grant := none, age := Vector.replicate 4 0 }

def Shelf.reset : Shelf :=
  { last := 4, lane := Vector.replicate 5 8, waiting := [], lock := none, scrubWait := none, line := 0, served := [] }

def Island.reset : Island := { var := 0, decided := 0, cause := 0, entry := none, goal := none, stretched := false, onset := false }

/-- A core after package reset. The turns of its arbiters are DESIGN CHOICE, log entry 21; its variant, log entry 23. -/
def Core.reset : Core :=
  { ctxs := Vector.replicate 4 Ctx.reset
    units := Vector.replicate 10 { queue := [], exec := [] }
    dmaq := Vector.replicate 8 { queue := [], run := [], halted := false }
    tables := Vector.replicate 8 (Vector.replicate 2 TableSet.reset)
    slotSets := Vector.replicate 2 SlotSet.reset
    builds := Vector.replicate 8 (Vector.replicate 2 none)
    waits := []
    arb := IssueArb.reset
    nextUid := 0
    live := []
    drained := []
    fault := false
    acFault := none, eccRead := [], lateRead := []
    resetting := false
    dlk := 0
    dlkFired := false
    touched := false
    inbox := []
    acks := []
    posts := []
    nextPost := 0
    txns := []
    lastQ := 7
    shelves := Vector.replicate 32 Shelf.reset
    monLatch := [], monAc := []
    island := Island.reset }

def Mesh.reset : Mesh := { bufs := Vector.replicate 160 [], last := Vector.replicate 160 4 }

def Port.reset : Port :=
  { txSeq := 0, rxSeq := 0, replay := [], wire := [], txBytes := [], nak := none, nakSeq := 0, nakRun := 0,
    sendNak := false, rxBytes := [], rxq := Vector.replicate 4 [], credit := Vector.replicate 4 0,
    owed := Vector.replicate 4 0, creditIn := [], nextRid := 0, filter := [], pull := none }

def Arbiter.reset : Arbiter := { waiting := [], turn := 0, used := 0, ended := false, refresh := false, granted := none, count := 0 }

/-- Telemetry that nothing has sampled yet is DESIGN CHOICE, log entry 23; rail 0 is set to 0.75 V at power-up (R470). -/
def Power.reset : Power :=
  { phases := [], pools := [], decisions := [], counts := [], poolRun := [], samples := [], averages := [],
    atRead := 0, under := 0, cool := 0, temp := Vector.replicate 304 0, rail := Vector.replicate 64 0,
    tripped := false, volts := Vector.replicate 10 0, amps := Vector.replicate 10 0,
    temps := Vector.replicate 10 0, rail0 := 750 }

def Fn.reset : Fn := { msixEn := false, msixMask := false, d3 := false, bars := Vector.replicate 3 0 }

/-- PRESUMED (PCIe family): functions in D0 with MSI-X off, no BAR assigned, no virtual function; log entry 15. -/
def HostIf.reset : HostIf :=
  { linkUp := false, rate := 0, lanes := 0, fns := Vector.replicate 16 Fn.reset, numVFs := 0, vfEn := false,
    bar2 := 0, vfBar2 := 0, msix := [], pba := [], cpl := [], msixSent := [] }

/-- DESIGN CHOICE (log entry 5): an MB40-64A, every core and every stack enabled, stepping 0, serial 0, no fuse of a hash, of the
identity secret or of an svn burned, no certificate, vendor 0, nominal setpoints of R380. -/
def Fuses.reset : Fuses :=
  { coreEn := 0xFFFF_FFFF_FFFF_FFFF, attic := 0xFF, step := 0, serial := 0, keyHash := Vector.replicate 4 (Vector.replicate 32 0),
    revoked := Vector.replicate 4 false, svnFw := 0, svnMc := 0, debugHash := Vector.replicate 32 0, secret := Vector.replicate 32 0,
    chain := [], vendor := 0,
    setpoint := Vector.replicate 64 #v[700, 640, 580, 540], jedec := 0 }

/-- PRESUMED (IEEE 1149.1): the reset state selects IDCODE, log entry 25. -/
def Tap.reset : Tap := { ir := .idcode, dr := [], cells := [] }

/-- Flash and PSRAM read as free values where nothing has been written, log entry 24. -/
def Mgmt.reset : Mgmt :=
  { fuses := Fuses.reset, flash := [], flashBad := #v[false, false], committing := #v[false, false], psr := [], psram := 0,
    logNext := 0, logNew := 0, logKeep := false, logq := [], lost := false, boot := 0,
    served := none, level := 0, nonce := none, slots := Vector.replicate 16 none, keys := Vector.replicate 16 none,
    eid := 0, dynAddr := none, i3c := none, ibi := 0, svnFw := 0, svnMc := 0, hdrRead := false, up := false, tap := Tap.reset }

/-- PERST_N asserted, outputs as R464 gives them during reset. -/
def Pins.reset : Pins :=
  { perst := true, thermtrip := false, alert := false, celPerstHigh := Vector.replicate 4 false, strap := 0,
    vddMgt := true }

/-- The package right after package reset (R432), PERST_N still asserted: every register at its reset value, every storeroom
and attic word 0, every queue and buffer empty. -/
def State.reset : State :=
  { pending := [], regs := [], high := [], info := [], cores := Vector.replicate 64 Core.reset, mem := Mem.reset, loft := [],
    mesh := Mesh.reset, ports := Vector.replicate 16 Port.reset, arbs := Vector.replicate 260 Arbiter.reset,
    patrol := Vector.replicate 256 0, power := Power.reset, host := HostIf.reset, mgmt := Mgmt.reset, pins := Pins.reset,
    free := 0 }

end Sys2Proof.Machine
end

