-- ==== Sys2Proof/Machine/Store.lean ====
section
/-! DEFINITION. Plain helpers: bit fields of words, little-endian bytes, sparse maps in canonical form, sets of numbers. -/

namespace Sys2Proof.Machine
open Sys2Proof

/-! ## Bit fields -/

/-- Bits [lo + len - 1 : lo] of a word, as a number. -/
def bits (w : W32) (lo len : Nat) : Nat := (w.toNat >>> lo) % (1 <<< len)

/-- Bit i of a word. -/
def bit (w : W32) (i : Nat) : Bool := w.getLsbD i

/-- The word with bits [lo + len - 1 : lo] replaced. -/
def putBits (w : W32) (lo len v : Nat) : W32 :=
  BitVec.ofNat 32 (w.toNat - (bits w lo len) <<< lo + (v % (1 <<< len)) <<< lo)

/-- A truth value as a bit. -/
def bn (b : Bool) : Nat := if b then 1 else 0

/-- A number as a 32-bit word. -/
def w32 (n : Nat) : W32 := BitVec.ofNat 32 n

/-- The smaller of a number and the largest 32-bit value. -/
def sat32 (n : Nat) : Nat := min n 0xFFFF_FFFF

/-- Ceiling of a quotient. -/
def cdiv (a b : Nat) : Nat := (a + b - 1) / b

/-- The quotient rounded to nearest, ties to even (R12). -/
def rneDiv (a b : Nat) : Nat :=
  let q := a / b
  let r := a % b
  if b < 2 * r ∨ (2 * r = b ∧ q % 2 = 1) then q + 1 else q

/-- The value of a list of bytes, lowest address first (R11). -/
def leNat : List Byte → Nat
  | [] => 0
  | b :: r => b.toNat + 256 * leNat r

/-- A number as k bytes, lowest first (R11). -/
def toLe : Nat → Nat → List Byte
  | 0, _ => []
  | k + 1, n => BitVec.ofNat 8 n :: toLe k (n / 256)

/-- The first k elements of a list, filled up with a value. -/
def takePad (a : α) : Nat → List α → List α
  | 0, _ => []
  | k + 1, [] => a :: takePad a k []
  | k + 1, b :: r => b :: takePad a k r

/-- A two's-complement reading of the low n bits. -/
def signed (n v : Nat) : Int :=
  let u := v % (1 <<< n)
  if u < 1 <<< (n - 1) then (u : Int) else (u : Int) - ((1 <<< n : Nat) : Int)

/-- An integer modulo 2^n. -/
def wrapN (n : Nat) (v : Int) : Nat := (v % ((1 <<< n : Nat) : Int)).toNat

/-- A vector with one element changed by a function. -/
def vmod (v : Vector α n) (i : Fin n) (f : α → α) : Vector α n := v.set i (f v[i])

/-! ## Sparse maps

A map from numbers with a reset value `d k` for a key that is not listed: keys strictly rising, no entry equal to `d k`. -/

/-- The value of key k. -/
def smGet (d : Nat → β) : List (Nat × β) → Nat → β
  | [], k => d k
  | (a, v) :: r, k => if a = k then v else smGet d r k

/-- The entries with another key. -/
def smErase (m : List (Nat × β)) (k : Nat) : List (Nat × β) := m.filter fun p => p.1 != k

/-- Insert before the first larger key. -/
def smIns (k : Nat) (v : β) : List (Nat × β) → List (Nat × β)
  | [] => [(k, v)]
  | (a, w) :: r => if k < a then (k, v) :: (a, w) :: r else (a, w) :: smIns k v r

/-- The map with key k set to v; a value equal to the reset value removes the entry. -/
def smSet [DecidableEq β] (d : Nat → β) (m : List (Nat × β)) (k : Nat) (v : β) : List (Nat × β) :=
  if v = d k then smErase m k else smIns k v (smErase m k)

/-- Keys strictly rising. -/
def smSorted : List (Nat × β) → Bool
  | [] => true
  | [_] => true
  | (a, _) :: (b, w) :: r => decide (a < b) && smSorted ((b, w) :: r)

/-- The canonical form. -/
def smWf [DecidableEq β] (d : Nat → β) (m : List (Nat × β)) : Bool :=
  smSorted m && m.all fun p => p.2 != d p.1

/-! ## Sets of numbers, strictly rising -/

def nsIns (k : Nat) : List Nat → List Nat
  | [] => [k]
  | a :: r => if k < a then k :: a :: r else if k = a then a :: r else a :: nsIns k r

def nsErase (k : Nat) (m : List Nat) : List Nat := m.filter fun a => a != k

/-- Membership set to a truth value. -/
def nsPut (k : Nat) (on : Bool) (m : List Nat) : List Nat := if on then nsIns k (nsErase k m) else nsErase k m

def nsSorted : List Nat → Bool
  | [] => true
  | [_] => true
  | a :: b :: r => decide (a < b) && nsSorted (b :: r)

/-! ## Lists -/

/-- Apply f to the numbers from, from + 1, ... n of them, in order. -/
def forRange (n : Nat) (f : Nat → α → α) (a : α) : α := (List.range n).foldl (fun x i => f i x) a

/-- The first element that a test accepts, and the rest without it. -/
def pick (p : α → Bool) : List α → Option (α × List α)
  | [] => none
  | a :: r => if p a then some (a, r) else (pick p r).map fun (b, t) => (b, a :: t)

/-- The last k elements. -/
def lastN (k : Nat) (l : List α) : List α := l.drop (l.length - k)

end Sys2Proof.Machine
end

