-- ==== Sys2Proof/Machine/Fp.lean ====
section
/-! DEFINITION. fp32 and bf16 arithmetic: exact values, one rounding to nearest with ties to even (R12, R89).

A finite value is an integer times a power of two, `Dy`; an operation forms the exact value and rounds it once. -/

namespace Sys2Proof.Machine
open Sys2Proof

/-! ## Exact dyadic values -/

/-- The real number m × 2^e. -/
structure Dy where
  m : Int
  e : Int
  deriving DecidableEq, Repr

def Dy.neg (a : Dy) : Dy := { a with m := -a.m }

/-- The mantissa at a smaller exponent. -/
def Dy.at (a : Dy) (e : Int) : Int := a.m * ((1 <<< (a.e - e).toNat : Nat) : Int)

def Dy.add (a b : Dy) : Dy := let e := min a.e b.e; { m := a.at e + b.at e, e := e }
def Dy.sub (a b : Dy) : Dy := a.add b.neg
def Dy.mul (a b : Dy) : Dy := { m := a.m * b.m, e := a.e + b.e }
def Dy.le (a b : Dy) : Bool := let e := min a.e b.e; decide (a.at e ≤ b.at e)
def Dy.lt (a b : Dy) : Bool := !(b.le a)
def Dy.abs (a : Dy) : Dy := { a with m := a.m.natAbs }
def Dy.ofInt (n : Int) : Dy := { m := n, e := 0 }
/-- Bits in a number. -/
def bitLen (n : Nat) : Nat := if n = 0 then 0 else n.log2 + 1

/-- m / 2^sh rounded to nearest, ties to even. -/
def rneShift (m sh : Nat) : Nat :=
  if sh = 0 then m
  else if bitLen m + 1 < sh then 0
  else
    let q := m >>> sh
    let r := m % (1 <<< sh)
    let h := 1 <<< (sh - 1)
    if h < r then q + 1 else if r < h then q else q + q % 2

/-- The integer nearest to m × 2^e, ties to even. -/
def Dy.round (a : Dy) : Int :=
  if 0 ≤ a.e then a.at 0
  else
    let n := rneShift a.m.natAbs (-a.e).toNat
    if a.m < 0 then -(n : Int) else (n : Int)

/-! ## fp32 -/

/-- What an fp32 pattern stands for. -/
inductive Fv where
  | nan
  | inf (neg : Bool)
  | fin (neg : Bool) (v : Dy)
  deriving DecidableEq, Repr

def fnan : W32 := 0x7FC0_0000
def fzero (neg : Bool) : W32 := if neg then 0x8000_0000 else 0
def finf (neg : Bool) : W32 := if neg then 0xFF80_0000 else 0x7F80_0000
def fmax (neg : Bool) : W32 := if neg then 0xFF7F_FFFF else 0x7F7F_FFFF
def fone : W32 := 0x3F80_0000

/-- Read an fp32 pattern (R89). -/
def fv (w : W32) : Fv :=
  let neg := bit w 31
  let e := bits w 23 8
  let f := bits w 0 23
  let sg (n : Nat) : Int := if neg then -(n : Int) else (n : Int)
  if e = 255 then (if f = 0 then .inf neg else .nan)
  else if e = 0 then .fin neg { m := sg f, e := -149 }
  else .fin neg { m := sg (f + 0x80_0000), e := (e : Int) - 150 }

def fIsNan (w : W32) : Bool := bits w 23 8 == 255 && bits w 0 23 != 0
def fIsFinite (w : W32) : Bool := bits w 23 8 != 255
def fIsInf (w : W32) : Bool := bits w 23 8 == 255 && bits w 0 23 == 0

/-- Exact value of a finite pattern; 0 for the others. -/
def fdy (w : W32) : Dy :=
  match fv w with
  | .fin _ v => v
  | _ => { m := 0, e := 0 }

/-- Round a magnitude m × 2^e to the fp32 grid, subnormals included: its 31 bits, 0x7F80_0000 when it overflows. -/
def packMag (m : Nat) (e : Int) : Nat :=
  if m = 0 then 0
  else
    let q : Int := max (e + bitLen m - 24) (-149)
    let mant := if q ≤ e then m <<< (e - q).toNat else rneShift m (q - e).toNat
    min ((q + 149).toNat * 0x80_0000 + mant) 0x7F80_0000

/-- Round an exact value to fp32; `z` is the sign of an exact zero. -/
def fround (a : Dy) (z : Bool) : W32 :=
  if a.m = 0 then fzero z
  else w32 (packMag a.m.natAbs a.e + (if a.m < 0 then 0x8000_0000 else 0))

/-- Round to fp32 with overflow to the largest finite magnitude. -/
def froundSat (a : Dy) (z : Bool) : W32 :=
  let r := fround a z
  if fIsInf r then fmax (bit r 31) else r

/-- a + b in fp32. -/
def fadd (a b : W32) : W32 :=
  match fv a, fv b with
  | .nan, _ => fnan
  | _, .nan => fnan
  | .inf n, .inf k => if n = k then finf n else fnan
  | .inf n, .fin .. => finf n
  | .fin .., .inf k => finf k
  | .fin n x, .fin k y => fround (x.add y) (n && k)

def fneg (a : W32) : W32 := if fIsNan a then fnan else a ^^^ 0x8000_0000

def fsub (a b : W32) : W32 := fadd a (fneg b)

/-- a × b in fp32. -/
def fmul (a b : W32) : W32 :=
  match fv a, fv b with
  | .nan, _ => fnan
  | _, .nan => fnan
  | .inf n, .inf k => finf (n != k)
  | .inf n, .fin k y => if y.m = 0 then fnan else finf (n != k)
  | .fin n x, .inf k => if x.m = 0 then fnan else finf (n != k)
  | .fin n x, .fin k y => fround (x.mul y) (n != k)

/-- a × b + c with one rounding. -/
def ffma (a b c : W32) : W32 :=
  match fv a, fv b, fv c with
  | .fin n x, .fin k y, .fin l z => fround ((x.mul y).add z) ((n != k) && l)
  | .fin .., .fin .., _ => if fIsNan c then fnan else c
  | _, _, _ => fadd (fmul a b) c

/-- a / b in fp32: the quotient to 90 bits with a sticky bit, rounded once. -/
def fdiv (a b : W32) : W32 :=
  match fv a, fv b with
  | .nan, _ => fnan
  | _, .nan => fnan
  | .inf _, .inf _ => fnan
  | .inf n, .fin k _ => finf (n != k)
  | .fin n _, .inf k => fzero (n != k)
  | .fin n x, .fin k y =>
    let s := n != k
    if y.m = 0 then (if x.m = 0 then fnan else finf s)
    else
      let num := x.m.natAbs <<< 64
      let q := 2 * (num / y.m.natAbs) + bn (num % y.m.natAbs != 0)
      fround { m := if s then -(q : Int) else (q : Int), e := x.e - y.e - 65 } s

/-- Integer square root, by bits from 2^k down. -/
def isqrt (n : Nat) : Nat → Nat → Nat
  | 0, r => r
  | k + 1, r =>
    let t := r + 1 <<< k
    if t * t ≤ n then isqrt n k t else isqrt n k r

/-- The square root of a positive exact value as a mantissa with a sticky bit. -/
def sqrtDy (a : Dy) : Dy :=
  let a : Dy := if a.e % 2 = 0 then a else { m := a.m * 2, e := a.e - 1 }
  let n := a.m.natAbs <<< 80
  let r := isqrt n 64 0
  { m := ((2 * r + bn (r * r != n) : Nat) : Int), e := a.e / 2 - 41 }

/-- Square root in fp32. -/
def fsqrt (a : W32) : W32 :=
  match fv a with
  | .nan => fnan
  | .inf n => if n then fnan else finf false
  | .fin n x => if x.m = 0 then fzero n else if n then fnan else fround (sqrtDy x) false

/-- IEEE comparison a < b; false when either is NaN. -/
def flt (a b : W32) : Bool :=
  match fv a, fv b with
  | .nan, _ => false
  | _, .nan => false
  | .inf n, .inf k => n && !k
  | .inf n, .fin .. => n
  | .fin .., .inf k => !k
  | .fin _ x, .fin _ y => x.lt y

/-- IEEE equality. -/
def feq (a b : W32) : Bool := !fIsNan a && !fIsNan b && !flt a b && !flt b a

/-- two_sum of R119: the rounded sum, and the exact error (+0 when the sum is not finite). -/
def twoSum (a b : W32) : W32 × W32 :=
  let s := fadd a b
  if fIsFinite s then (s, fround (((fdy a).add (fdy b)).sub (fdy s)) false) else (s, 0)

/-! ## exp2 and log2 (R223)

Fixed point with 256 fraction bits; a truncated result stands for an interval far narrower than the distance of any fp32
argument's value from a rounding boundary, so its sticky bit decides every rounding (log entry 11). -/

def FXP := 256

/-- floor(ln 2 × 2^256). -/
def ln2Fx : Nat := 80260960185991308862233904206310070533990667611589946606122867505419956976171

/-- Sum of the exponential series from a term on: term k is z^k / k!. -/
def expSeries (z : Nat) : Nat → Nat → Nat → Nat
  | 0, _, _ => 0
  | n + 1, k, t => t + expSeries z n (k + 1) ((t * z) >>> FXP / (k + 1))

/-- 2^f for a fraction f of 2^-256 units. -/
def exp2Frac (f : Nat) : Nat := expSeries ((f * ln2Fx) >>> FXP) 80 0 (1 <<< FXP)

/-- exp2, rounded once. -/
def fexp2 (x : W32) : W32 :=
  match fv x with
  | .nan => fnan
  | .inf n => if n then 0 else finf false
  | .fin _ d =>
    if d.le { m := -150, e := 0 } then 0
    else if ({ m := 128, e := 0 } : Dy).le d then finf false
    else
      let fx : Int := if -256 ≤ d.e then d.at (-256) else d.m >>> (-256 - d.e).toNat
      let n : Int := fx >>> FXP
      let f := (fx - n * ((1 <<< FXP : Nat) : Int)).toNat
      if f = 0 then fround { m := 1, e := n } false
      else fround { m := ((2 * exp2Frac f + 1 : Nat) : Int), e := n - 257 } false

/-- Sum of t^(2k+1) / (2k+1). -/
def atanhSeries (t2 : Nat) : Nat → Nat → Nat → Nat
  | 0, _, _ => 0
  | n + 1, k, t => t / (2 * k + 1) + atanhSeries t2 n (k + 1) ((t * t2) >>> FXP)

/-- log2 of a value in (1, 2) in 2^-256 units: 2 atanh((m - 1) / (m + 1)) / ln 2, for m = a / 2^23. -/
def log2Frac (a : Nat) : Nat :=
  let t := (a - 0x80_0000) <<< FXP / (a + 0x80_0000)
  (2 * atanhSeries ((t * t) >>> FXP) 90 0 t) <<< FXP / ln2Fx

/-- log2, rounded once. -/
def flog2 (x : W32) : W32 :=
  match fv x with
  | .nan => fnan
  | .inf n => if n then fnan else finf false
  | .fin n d =>
    if d.m = 0 then finf true
    else if n then fnan
    else
      let m := d.m.natAbs
      let up := 24 - bitLen m
      let ex : Int := d.e + 23 - up
      let a := m <<< up
      if a = 0x80_0000 then fround { m := ex, e := 0 } false
      else
        let v : Int := ex * ((1 <<< FXP : Nat) : Int) + log2Frac a
        fround { m := 2 * v + 1, e := -257 } false

/-- The composite functions of R223. -/
def fexp (x : W32) : W32 := fexp2 (fmul x 0x3FB8_AA3B)
def flog (x : W32) : W32 := fmul (flog2 x) 0x3F31_7218
def frsq (x : W32) : W32 := fdiv fone (fsqrt x)
def fsig (x : W32) : W32 := fdiv fone (fadd fone (fexp (fneg x)))
def ftnh (x : W32) : W32 := fsub (fmul 0x4000_0000 (fsig (fmul 0x4000_0000 x))) fone

/-! ## Rows (R224, R225) -/

/-- The tree over 2^k lanes. -/
def treeAdd : Nat → List W32 → W32
  | 0, t => t.headD 0
  | k + 1, t => treeAdd k ((t.take (1 <<< k)).zipWith fadd (t.drop (1 <<< k)))

/-- rowsum of R224: blocks of 128, each summed as a tree, added in order; `n` bounds the blocks. -/
def rowsumFrom : Nat → W32 → List W32 → W32
  | 0, s, _ => s
  | _ + 1, s, [] => s
  | n + 1, s, x => rowsumFrom n (fadd s (treeAdd 7 (x.take 128))) (x.drop 128)

def rowsum (x : List W32) : W32 := rowsumFrom x.length 0 x

/-- The larger of two; NaN if either is; max(+0, -0) = +0 (R225). -/
def fmaxOf (a b : W32) : W32 :=
  if fIsNan a || fIsNan b then fnan
  else if flt a b then b else if flt b a then a
  else a &&& b

/-- The smaller of two; NaN if either is; min(+0, -0) = -0 (R230). -/
def fminOf (a b : W32) : W32 :=
  if fIsNan a || fIsNan b then fnan
  else if flt a b then a else if flt b a then b
  else a ||| b

def rowmax (x : List W32) : W32 := x.foldl fmaxOf (finf true)

/-! ## Rounding up (R255) -/

/-- The least fp32 value that is not below an exact value. -/
def fceil (a : Dy) : W32 :=
  let r := fround a false
  if fIsInf r then (if bit r 31 then fmax true else r)
  else if a.le (fdy r) then r
  else if r = 0x8000_0000 ∨ r = 0 then 1
  else if bit r 31 then r - 1 else r + 1

/-- The least bf16 value that is not below an exact value, as fp32. -/
def fceilBf (a : Dy) : W32 :=
  let r := fceil a
  if fIsInf r then r
  else
    let t := r &&& 0xFFFF_0000
    if t = r then r
    else if bit r 31 then t else t + 0x1_0000

/-! ## bf16 (R91) -/

/-- bf16 to fp32: sixteen zero bits appended. A NaN keeps its pattern. -/
def bfToF (h : W16) : W32 := h.append (0 : W16)

/-- fp32 to bf16, and whether a finite value was clipped. -/
def fToBf (w : W32) : W16 × Bool :=
  if fIsNan w then (0x7FC0, false)
  else if fIsInf w then ((w >>> 16).setWidth 16, false)
  else
    let u := w.toNat % 0x8000_0000
    let r := rneShift u 16
    let s := if bit w 31 then 0x8000 else 0
    if 0x7F7F < r then (BitVec.ofNat 16 (0x7F7F + s), true) else (BitVec.ofNat 16 (r + s), false)

end Sys2Proof.Machine
end

