-- ==== Sys2Proof/Machine/Aes.lean ====
section
/-! DEFINITION. AES-256-XTS of one 16-byte block of a cellar line (13 R334), as FIPS 197 and IEEE 1619 define it: PRESUMED, log entry 9.

A block is 16 bytes, column after column; a round key likewise. -/

namespace Sys2Proof.Machine
open Sys2Proof

/-! ## The field of 256 elements -/

/-- A byte times x. -/
def gfX (b : Byte) : Byte := (b <<< 1) ^^^ (if b.msb then 0x1B else 0)

/-- The product of two bytes. -/
def gfMul (a b : Byte) : Byte :=
  ((List.range 8).foldl (fun (e : Byte × Byte) i => (if b.getLsbD i then e.1 ^^^ e.2 else e.1, gfX e.2)) (0, a)).1

/-- The inverse of a byte, 0 for 0: its 254th power. -/
def gfInv (a : Byte) : Byte :=
  let sq (b : Byte) : Byte := gfMul b b
  forRange 6 (fun _ r => sq (gfMul r a)) (sq a)

/-- A byte as its bits sum over fixed places: the affine maps of the S-box. -/
def affine (places : List Nat) (k b : Byte) : Byte := places.foldl (fun r i => r ^^^ b.rotateLeft i) k

def sBox (b : Byte) : Byte := affine [0, 1, 2, 3, 4] 0x63 (gfInv b)
def invSBox (b : Byte) : Byte := gfInv (affine [1, 3, 6] 0x05 b)

/-! ## The cipher -/

def xorBytes (a b : List Byte) : List Byte := List.zipWith (· ^^^ ·) a b

/-- The words of the key schedule, newest first: word i follows. -/
def keyWords : Nat → Nat → Byte → List (List Byte) → List (List Byte)
  | 0, _, _, ws => ws
  | n + 1, i, rc, ws =>
    let t := ws.headD []
    let t := if i % 8 = 0 then xorBytes ((t.rotateLeft 1).map sBox) [rc, 0, 0, 0] else if i % 8 = 4 then t.map sBox else t
    keyWords n (i + 1) (if i % 8 = 0 then gfX rc else rc) (xorBytes ((ws.drop 7).headD []) t :: ws)

/-- The 15 round keys of a 32-byte key. -/
def roundKeys (key : List Byte) : List (List Byte) :=
  let first := (List.range 8).map fun i => (key.drop (4 * i)).take 4
  let ws := (keyWords 52 8 1 first.reverse).reverse
  (List.range 15).map fun r => ((ws.drop (4 * r)).take 4).flatten

/-- The rows of a block turned left by k times their number. -/
def shiftRows (k : Nat) (b : List Byte) : List Byte := (List.range 16).map fun i => b.getD (i % 4 + 4 * ((i / 4 + k * (i % 4)) % 4)) 0

/-- Every column of a block times a circulant matrix, given by its first row. -/
def mixColumns (m : List Byte) (b : List Byte) : List Byte :=
  (List.range 16).map fun i =>
    (List.range 4).foldl (fun r j => r ^^^ gfMul (m.getD ((j + 4 - i % 4) % 4) 0) (b.getD (4 * (i / 4) + j) 0)) 0

def aesEncrypt (keys : List (List Byte)) (b : List Byte) : List Byte :=
  let rk (r : Nat) : List Byte := keys.getD r []
  let b := (List.range 13).foldl (fun b r => xorBytes (mixColumns [2, 3, 1, 1] (shiftRows 1 (b.map sBox))) (rk (r + 1))) (xorBytes b (rk 0))
  xorBytes (shiftRows 1 (b.map sBox)) (rk 14)

def aesDecrypt (keys : List (List Byte)) (b : List Byte) : List Byte :=
  let rk (r : Nat) : List Byte := keys.getD r []
  let b := (List.range 13).foldl (fun b r => mixColumns [14, 11, 13, 9] (xorBytes ((shiftRows 3 b).map invSBox) (rk (13 - r)))) (xorBytes b (rk 14))
  xorBytes ((shiftRows 3 b).map invSBox) (rk 0)

/-! ## XTS -/

/-- The tweak of block j of a data unit: the encrypted unit number times x to the j. -/
def xtsTweak (key : List Byte) (unit j : Nat) : List Byte :=
  let t := leNat (aesEncrypt (roundKeys (key.drop 32)) (toLe 16 unit))
  toLe 16 (forRange j (fun _ t => (2 * t) % (1 <<< 128) ^^^ (if 1 <<< 127 ≤ t then 0x87 else 0)) t)

/-- Block j of a data unit under a 64-byte key pair: encrypted, or decrypted. -/
def xtsEncrypt (key : List Byte) (unit j : Nat) (b : List Byte) : List Byte :=
  let t := xtsTweak key unit j
  xorBytes (aesEncrypt (roundKeys (key.take 32)) (xorBytes b t)) t

def xtsDecrypt (key : List Byte) (unit j : Nat) (b : List Byte) : List Byte :=
  let t := xtsTweak key unit j
  xorBytes (aesDecrypt (roundKeys (key.take 32)) (xorBytes b t)) t

end Sys2Proof.Machine
end

