-- ==== Sys2Proof/Machine/Pages.lean ====
section
/-! DEFINITION. The BAR0 map and the register tables: where each register lies, its reset value, the bits software writes. -/

namespace Sys2Proof
namespace Machine

/-! ## Pages (R414) -/

end Machine

/-- BAR0 offset of a page. -/
def Page.base : Page → Nat
  | .pkg => 0
  | .mbx => 0x1_0000
  | .seq c => 0x10_0000 + 0x1_0000 * c.val
  | .ctx c x => 0x10_0000 + 0x1_0000 * c.val + 0x1000 * (1 + x.val)
  | .eg c g => 0x10_0000 + 0x1_0000 * c.val + 0x1000 * (5 + g.val)
  | .se c => 0x10_0000 + 0x1_0000 * c.val + 0xD000
  | .fu c => 0x10_0000 + 0x1_0000 * c.val + 0xE000
  | .sto c => 0x10_0000 + 0x1_0000 * c.val + 0xF000
  | .sync c => 0x50_0000 + c.val * 0x1000
  | .att s => 0x80_0000 + s.val * 0x1000
  | .cel p => 0x90_0000 + p.val * 0x1000
  | .lnk i => 0xA0_0000 + i.val * 0x1000
  | .pwr => 0xB0_0000
  | .sec => 0xC0_0000

namespace Machine

/-- Page j of the 64 KiB region of core c. -/
def corePage (c : CoreId) (j : Nat) : Page :=
  if j = 0 then .seq c
  else if h : j - 1 < 4 then .ctx c ⟨j - 1, h⟩
  else if h : j - 5 < 8 then .eg c ⟨j - 5, h⟩
  else if j = 13 then .se c
  else if j = 14 then .fu c
  else .sto c

/-- The page that a BAR0 offset lies in, and the offset within it; none for an offset that R414 does not list. -/
def pageAt (off : Nat) : Option (Page × Nat) :=
  let p := off / 0x1000
  let o := off % 0x1000
  if p = 0 then some (.pkg, o)
  else if p = 0x10 then some (.mbx, o)
  else if 0x100 ≤ p ∧ p < 0x500 then some (corePage (Fin.ofNat 64 ((p - 0x100) / 16)) (p % 16), o)
  else if 0x500 ≤ p ∧ p < 0x540 then some (.sync (Fin.ofNat 64 (p - 0x500)), o)
  else if 0x800 ≤ p ∧ p < 0x808 then some (.att (Fin.ofNat 8 (p - 0x800)), o)
  else if 0x900 ≤ p ∧ p < 0x904 then some (.cel (Fin.ofNat 4 (p - 0x900)), o)
  else if 0xA00 ≤ p ∧ p < 0xA10 then some (.lnk (Fin.ofNat 16 (p - 0xA00)), o)
  else if p = 0xB00 then some (.pwr, o)
  else if p = 0xC00 then some (.sec, o)
  else none

end Machine

/-- The core whose page it is (R402, R410): core-region and sync pages. -/
def Page.core? : Page → Option CoreId
  | .seq c | .ctx c _ | .eg c _ | .se c | .fu c | .sto c | .sync c => some c
  | _ => none

/-- Block type of PG_ID (R410). -/
def Page.type : Page → Nat
  | .pkg => 0x0001
  | .mbx => 0x0002
  | .seq _ => 0x0010
  | .ctx _ _ => 0x0011
  | .eg _ _ => 0x0012
  | .se _ => 0x0013
  | .fu _ => 0x0014
  | .sto _ => 0x0015
  | .sync _ => 0x0016
  | .att _ => 0x0020
  | .cel _ => 0x0021
  | .lnk _ => 0x0022
  | .pwr => 0x0023
  | .sec => 0x0024

/-- Instance number of PG_ID (R410): context, group, stack or port; 0 for single pages. -/
def Page.inst : Page → Nat
  | .ctx _ x => x.val
  | .eg _ g => g.val
  | .att s => s.val
  | .cel p => p.val
  | .lnk i => i.val
  | _ => 0

namespace Machine

/-! ## Offsets within a page -/

def PG_ID := 0x000
def PG_CAPS := 0x004
def PG_CTRL := 0x008
def PG_STAT := 0x00C
def PG_EVT_RAW := 0x010
def PG_EVT_EN := 0x014
def PG_EVT := 0x018
def PG_ERR_CODE := 0x01C
def PG_ERR_INFO0 := 0x020
def PG_CNT_CTRL := 0x030
/-- Counter i of a page, low half (R410). -/
def PG_CNT (i : Nat) := 0x040 + 8 * i

def PKG_CORE_EN_LO := 0x100
def PKG_INFO := 0x108
def PKG_STAT := 0x10C
def PKG_CORE_FN (i : Nat) := 0x140 + 4 * i
def RAF_MASK (l : Nat) := 0x200 + 8 * l
def RAF_ARR (l : Nat) := 0x280 + 8 * l
def PKG_B2W (f k : Nat) := 0x400 + 64 * f + 8 * k
def PKG_INT (s : Nat) := 0x800 + 4 * s

def SEQ_AGE_LIMIT := 0x100
def SEQ_QUANTUM := 0x104
def SEQ_PHASE_CNT := 0x108

def CTX_STATE := 0x100
def CTX_CFG := 0x104
def CTX_PC := 0x108
def CTX_BASE_LO := 0x10C
def CTX_BASE_HI := 0x110
def CTX_LEN := 0x114
def CTX_HALT := 0x118
def CTX_SAVE_ADDR := 0x11C
def CTX_SAVECTL := 0x120
def CTX_SHAPE (i : Nat) := 0x180 + 4 * i
def CTX_MAP (i : Nat) := 0x400 + 4 * i

def LOFT_CFG := 0x100
def SLOT_SAT := 0x104
def SE_LAST_STILE := 0x108

def FU_QSAT_CNT (t : Nat) := 0x100 + 4 * t
def FU_QSAT_SNAP (t : Nat) := 0x200 + 4 * t
def FU_RERUN_STAT := 0x300
def FU_RERUN_SUM := 0x304
def FU_MON_USQ (n : Nat) := 0x400 + 16 * n
def FU_MON_WSQ (n : Nat) := 0x404 + 16 * n
def FU_MON_RATIO (n : Nat) := 0x408 + 16 * n
def FU_MON_STAT (n : Nat) := 0x40C + 16 * n
def FU_SKIP_CTL := 0x800
def FU_SKIP_T := 0x804
def FU_SKIP_SIGMA := 0x808
def FU_SKIP_TTBL := 0x80C
def FU_SKIP_GUARD (u : Nat) := 0x810 + 4 * u
def FU_SKIP_OVR := 0x880
def FU_SKIP_SENSE := 0x884

def STO_PORTMAP (p : Nat) := 0x100 + 4 * p
def STO_SCRUB := 0x120
def STO_CE_ADDR := 0x124
def STO_INIT := 0x128
def DMA_QMAX (q : Nat) := 0x200 + 4 * q
def DMA_QSTAT (q : Nat) := 0x220 + 4 * q
def DMA_INFLIGHT := 0x240

def SYNC_TOCLASS (c : Nat) := 0x100 + 4 * c
def SYNC_DLK_WINDOW := 0x120
def SYNC_PEERS_LO := 0x124
def SYNC_PEERS_HI := 0x128
def SYNC_DBG_ADDR := 0x130
def SYNC_DBG_LO := 0x134
def SYNC_DBG_HI := 0x138
def SYNC_DBG_WAIT := 0x13C
def SYNC_WTAB (c : Nat) := 0x140 + 16 * c
def SYNC_HOST_ADDR := 0x180
def SYNC_HOST_SIG := 0x184

def ATT_STAT := 0x100
def ATT_SCRUB := 0x104
def ARB_AGE := 0x108
def ARB_WT (i : Nat) := 0x120 + 4 * i
def CEL_STAT := 0x100
def CEL_CAP := 0x104
def CEL_TIMEOUT := 0x10C
def CEL_XTS_EN := 0x110

def LNK_CTRL := 0x100
def LNK_STAT := 0x104
def LNK_LOCAL_ID := 0x108
def LNK_PEER_ID := 0x10C
def LNK_CTL_HIDS_LO := 0x110
def LNK_CTL_HIDS_HI := 0x114
def LNK_PL_W (k : Nat) := 0x120 + 8 * k
def LNK_PL_N (k : Nat) := 0x124 + 8 * k
def LNK_PULL_HID := 0x200
def LNK_PULL_OFF := 0x204
def LNK_PULL_LEN := 0x208
def LNK_PULL_DST_LO := 0x20C
def LNK_PULL_DST_HI := 0x210
def LNK_PULL_SIG := 0x214
def LNK_PULL_GO := 0x218
def LNK_PULL_STAT := 0x21C
def HT_BASE_LO (h : Nat) := 0x400 + 16 * h
def HT_BASE_HI (h : Nat) := 0x404 + 16 * h
def HT_SIZE (h : Nat) := 0x408 + 16 * h
def HT_CFG (h : Nat) := 0x40C + 16 * h

def PWR_BUDGET := 0x100
def PWR_VALLOW := 0x104
def PWR_FORCE := 0x108
def PWR_FORCE_MASK_LO := 0x10C
def PWR_FORCE_MASK_HI := 0x110
def PWR_STAT := 0x114
def PWR_DROOP_CFG := 0x118
def PWR_THM_HYST := 0x11C
def PWR_PT_BASE_LO := 0x120
def PWR_PT_BASE_HI := 0x124
def PWR_PT_CNT := 0x128
def PWR_POOL_BASE_LO := 0x12C
def PWR_POOL_BASE_HI := 0x130
def PWR_POOL_CNT := 0x134
def PWR_PT_CTL := 0x138
def PWR_TRIP_LOG := 0x13C
def PWR_ISL (c : Nat) := 0x400 + 4 * c

def MBX_CMD := 0x100
def MBX_ARG0 := 0x104
def MBX_ARG1 := 0x108
def MBX_GO := 0x10C
def MBX_STAT := 0x110
def MBX_RET0 := 0x114
def MBX_DATA (i : Nat) := 0x800 + 4 * i

def SEC_STAT := 0x100
def SEC_FW_SVN := 0x104
def SEC_MC_SVN := 0x108
def SEC_BOOTCNT := 0x10C
def SEC_SERIAL_LO := 0x110
def SEC_SERIAL_HI := 0x114
def SEC_FW_MEAS (i : Nat) := 0x200 + 4 * i
def SEC_MC_MEAS (i : Nat) := 0x240 + 4 * i
def SEC_CFG_MEAS (i : Nat) := 0x280 + 4 * i

/-! ## Reset values -/

/-- Reset value of a block-specific register that is not 0 (the register tables of each chapter). -/
def blockReset : Page → Nat → W32
  | .seq _, o => if o = SEQ_AGE_LIMIT then 0x1000 else if o = SEQ_QUANTUM then 0x10 else 0
  | .ctx _ _, o => if o = CTX_CFG then 3 else 0
  | .eg _ _, o => if o = LOFT_CFG then 1 else 0
  | .se _, o => if o = LOFT_CFG then 1 else 0
  | .sto _, o =>
    if 0x100 ≤ o ∧ o ≤ 0x110 then 0xFFFF_FFFF
    else if o = STO_SCRUB then 0x1000
    else if 0x200 ≤ o ∧ o ≤ 0x21C then 0x200 else 0
  | .sync _, o =>
    if o = SYNC_DLK_WINDOW then 0x0100_0000
    else if o = SYNC_PEERS_LO ∨ o = SYNC_PEERS_HI then 0xFFFF_FFFF else 0
  | .att _, o =>
    if o = ATT_SCRUB then 0x40 else if o = ARB_AGE then 0x800
    else if 0x120 ≤ o ∧ o ≤ 0x144 then 0x1111_1111 else if o = 0x148 then 1 else 0
  | .cel _, o =>
    if o = CEL_TIMEOUT then 0x64 else if o = ARB_AGE then 0x800
    else if 0x120 ≤ o ∧ o ≤ 0x144 then 0x1111_1111 else if o = 0x148 then 1 else 0
  | .pwr, o =>
    if o = PWR_BUDGET then 0x898 else if o = PWR_VALLOW then 0xF else if o = PWR_DROOP_CFG then 0x28
    else if o = PWR_THM_HYST then 5 else 0
  | _, _ => 0

/-- Reset value of a register of a page: the header of R410, then the block's own. -/
def pageReset (p : Page) (o : Nat) : W32 :=
  if o = PG_CTRL ∨ o = PG_CNT_CTRL then 1 else if o < 0x100 then 0 else blockReset p o

/-- Reset value of the register at a BAR0 offset. -/
def regReset (off : Nat) : W32 :=
  match pageAt off with
  | some (p, o) => if o % 4 = 0 then pageReset p o else 0
  | none => 0

/-! ## Bits that a write sets

The RW bits of each register; every other bit keeps its value (R14, R15). Registers with a behaviour of their own (W1C, W1S,
conditions on the state) are in Regs.lean. -/

/-- One of `n` registers at `lo`, `step` bytes apart. -/
def inRun (o lo step n : Nat) : Bool := decide (lo ≤ o ∧ o < lo + step * n) && (o - lo) % step == 0

def blockMask : Page → Nat → W32
  | .pkg, o =>
    if inRun o 0x140 4 8 then 0xFFFF_FFFF
    else if inRun o 0x200 4 32 then 0xFFFF_FFFF
    else if inRun o 0x400 8 128 then 0xFFFF_FFFF
    else if inRun o 0x404 8 128 then 1
    else if inRun o 0x800 4 352 then 0x8000_07FF else 0
  | .mbx, o =>
    if o = MBX_CMD then 0x000F_FFFF else if o = MBX_ARG0 ∨ o = MBX_ARG1 then 0xFFFF_FFFF
    else if inRun o 0x800 4 512 then 0xFFFF_FFFF else 0
  | .seq _, o =>
    if o = SEQ_AGE_LIMIT then 0x00FF_FFFF else if o = SEQ_QUANTUM then 0xFF
    else if o = SEQ_PHASE_CNT then 0xFFFF else 0
  | .ctx _ _, o =>
    if o = CTX_CFG then 7 else if o = CTX_PC ∨ o = CTX_LEN then 0xFFFF_FFFF
    else if o = CTX_BASE_LO then 0xFFFF_FFC0 else if o = CTX_BASE_HI then 0xFFFF
    else if o = CTX_SAVE_ADDR then 0x001F_FFFF
    else if inRun o 0x180 4 8 then 0xFFFF_FFFF
    else if inRun o 0x400 4 256 then 0xBFFF_FFFF else 0
  | .eg _ _, o => if o = LOFT_CFG then 7 else 0
  | .se _, o => if o = LOFT_CFG then 7 else 0
  | .fu _, o =>
    if inRun o 0x100 4 64 then 0xFFFF_FFFF
    else if o = FU_SKIP_CTL then 0x1FFF else if o = FU_SKIP_T ∨ o = FU_SKIP_SIGMA then 0xFFFF_FFFF
    else if o = FU_SKIP_TTBL then 0x001F_FFFF
    else if inRun o 0x810 4 8 then 0xFFFF_FFFF
    else if o = FU_SKIP_OVR then 1 else 0
  | .sto _, o =>
    if inRun o 0x100 4 5 then 0xFFFF_FFFF else if o = STO_SCRUB then 0xFFFF
    else if inRun o 0x200 4 8 then 0x3FF else 0
  | .sync _, o =>
    if inRun o 0x100 4 8 then 0xFFFF_FFFF
    else if o = SYNC_DLK_WINDOW ∨ o = SYNC_PEERS_LO ∨ o = SYNC_PEERS_HI then 0xFFFF_FFFF
    else if o = SYNC_DBG_ADDR ∨ o = SYNC_HOST_ADDR then 0x00FF_FFFF else 0
  | .att _, o =>
    if o = ATT_SCRUB ∨ o = ARB_AGE then 0xFFFF else if inRun o 0x120 4 10 then 0xFFFF_FFFF
    else if o = 0x148 then 0xF else 0
  | .cel _, o =>
    if o = CEL_TIMEOUT ∨ o = ARB_AGE then 0xFFFF else if inRun o 0x120 4 10 then 0xFFFF_FFFF
    else if o = 0x148 then 0xF else 0
  | .lnk _, o =>
    if o = LNK_CTRL then 7 else if o = LNK_LOCAL_ID then 0xFFFF
    else if o = LNK_CTL_HIDS_LO ∨ o = LNK_CTL_HIDS_HI then 0xFFFF_FFFF
    else if inRun o 0x120 8 4 then 0xBFFF_FFFF else if inRun o 0x124 8 4 then 0xFFFF_FFFF
    else if o = LNK_PULL_HID then 0xFF else if o = LNK_PULL_OFF then 0xFFFF_FFFF
    else if o = LNK_PULL_LEN then 0x00FF_FFFF else if o = LNK_PULL_DST_LO then 0xFFFF_FFFF
    else if o = LNK_PULL_DST_HI then 0x3FF else if o = LNK_PULL_SIG then 0xBFFF_FFFF
    else if inRun o 0x400 16 64 then 0xFFFF_FFFF else if inRun o 0x404 16 64 then 0x3FF
    else if inRun o 0x408 16 64 then 0x00FF_FFFF else if inRun o 0x40C 16 64 then 0xFFFF_00F3 else 0
  | .pwr, o =>
    if o = PWR_BUDGET then 0xFFF else if o = PWR_VALLOW ∨ o = PWR_THM_HYST then 0xF
    else if o = PWR_FORCE then 7 else if o = PWR_FORCE_MASK_LO ∨ o = PWR_FORCE_MASK_HI then 0xFFFF_FFFF
    else if o = PWR_DROOP_CFG then 0x3F
    else if o = PWR_PT_BASE_LO ∨ o = PWR_POOL_BASE_LO then 0xFFFF_FFFF
    else if o = PWR_PT_BASE_HI ∨ o = PWR_POOL_BASE_HI then 0x3FF
    else if o = PWR_PT_CNT then 0x3FFF else if o = PWR_POOL_CNT then 0x1FF else 0
  | .sec, _ => 0

/-- RW bits of a register of a page: PG_CTRL.en, PG_EVT_EN, PG_CNT_CTRL.run, then the block's own. -/
def rwMask (p : Page) (o : Nat) : W32 :=
  if o = PG_CTRL ∨ o = PG_CNT_CTRL then 1
  else if o = PG_EVT_EN then 0x3F
  else if o < 0x100 then 0
  else blockMask p o

end Machine
end Sys2Proof
end

