-- ==== Sys2Proof/Machine/Ops.lean ====
section
/-! DEFINITION. The shared operations on registers, counters, events, interrupts and cores. -/

namespace Sys2Proof
namespace Machine

/-! ## Registers -/

/-- The value held by the register at a BAR0 offset (R13, R14). -/
def State.reg (s : State) (off : Nat) : W32 := smGet regReset s.regs off

/-- Hardware or software sets the register at a BAR0 offset. -/
def State.setReg (s : State) (off : Nat) (v : W32) : State := { s with regs := smSet regReset s.regs off v }

/-- A register of a page. -/
def State.pg (s : State) (p : Page) (o : Nat) : W32 := s.reg (p.base + o)

def State.setPg (s : State) (p : Page) (o : Nat) (v : W32) : State := s.setReg (p.base + o) v

/-- A 64-bit quantity in two registers, low half at the lower offset (R13). -/
def State.pg64 (s : State) (p : Page) (o : Nat) : Nat := (s.pg p o).toNat + 0x1_0000_0000 * (s.pg p (o + 4)).toNat

def State.setPg64 (s : State) (p : Page) (o : Nat) (v : Nat) : State :=
  (s.setPg p o (w32 v)).setPg p (o + 4) (w32 (v >>> 32))

/-- Replace a field of a register. -/
def State.setField (s : State) (p : Page) (o lo len v : Nat) : State := s.setPg p o (putBits (s.pg p o) lo len v)

/-! ## Counters (R413) -/

/-- Counter i of a page counts n more: held while PG_CNT_CTRL.run is 0, saturating at all ones. -/
def State.bump (s : State) (p : Page) (i n : Nat) : State :=
  if bit (s.pg p PG_CNT_CTRL) 0 && n != 0 then
    s.setPg64 p (PG_CNT i) (min (s.pg64 p (PG_CNT i) + n) 0xFFFF_FFFF_FFFF_FFFF)
  else s

/-! ## Cores and contexts -/

def State.core (s : State) (c : CoreId) : Core := s.cores[c]

def State.modCore (s : State) (c : CoreId) (f : Core → Core) : State := { s with cores := vmod s.cores c f }

def Core.ctx (k : Core) (x : CtxId) : Ctx := k.ctxs[x]

def Core.modCtx (k : Core) (x : CtxId) (f : Ctx → Ctx) : Core := { k with ctxs := vmod k.ctxs x f }

def State.ctx (s : State) (c : CoreId) (x : CtxId) : Ctx := (s.core c).ctx x

def State.modCtx (s : State) (c : CoreId) (x : CtxId) (f : Ctx → Ctx) : State := s.modCore c fun k => k.modCtx x f

/-- Core n is enabled (R6). -/
def State.enabled (s : State) (c : CoreId) : Bool := s.mgmt.fuses.coreEn.getLsbD c

/-- Enabled cores, in order. -/
def State.enabledCores (s : State) : List CoreId := (List.finRange 64).filter s.enabled

/-- The package is out of reset, powered and not tripped (R432, R393, R473). -/
def State.alive (s : State) : Bool := !s.pins.perst && !s.power.tripped && s.pins.vddMgt

/-- PKG_STAT.dev_ready and PKG_STAT.recovery (R415). -/
def State.devReady (s : State) : Bool := bit (s.pg .pkg PKG_STAT) 0
def State.recovery (s : State) : Bool := bit (s.pg .pkg PKG_STAT) 1

/-- The machinery of core c runs: initialised, enabled, not in recovery (R435, R442, R7). -/
def State.coreUp (s : State) (c : CoreId) : Bool := s.alive && s.devReady && !s.recovery && s.enabled c

/-- The package outside the cores runs. -/
def State.pkgUp (s : State) : Bool := s.alive && s.devReady && !s.recovery

/-- Function that owns core c: its nibble of PKG_CORE_FN (R401). -/
def State.owner (s : State) (c : CoreId) : Nat := bits (s.pg .pkg (PKG_CORE_FN (c.val / 8))) (4 * (c.val % 8)) 4

/-- A function that exists: the physical one, or an enabled virtual one (R401). -/
def State.fnExists (s : State) (f : Nat) : Bool := f == 0 || (s.host.vfEn && decide (f ≤ s.host.numVFs))

/-- Memory requests of function f reach the initialised package: the host link is up and f is in D0 (R398, R401, R433). -/
def State.hostUp (s : State) (f : FnId) : Bool :=
  s.alive && s.devReady && s.host.linkUp && s.fnExists f.val && !(s.host.fns[f]).d3

/-! ## Interrupts (R408, R409) -/

end Machine

/-- The interrupt source that a page is assigned to. -/
def Page.source : Page → Nat
  | .ctx c x => 5 * c.val + x.val
  | .seq c | .eg c _ | .se c | .fu c | .sto c | .sync c => 5 * c.val + 4
  | .lnk i => 320 + i.val
  | .att s => 336 + s.val
  | .cel p => 344 + p.val
  | .pwr => 348
  | .sec => 349
  | .mbx => 350
  | .pkg => 351

namespace Machine

/-- The pages assigned to a source. -/
def sourcePages (n : Nat) : List Page :=
  if n < 320 then
    let c : CoreId := Fin.ofNat 64 (n / 5)
    if h : n % 5 < 4 then [.ctx c ⟨n % 5, h⟩]
    else .seq c :: (List.finRange 8).map (fun g => .eg c g) ++ [.se c, .fu c, .sto c, .sync c]
  else if n < 336 then [.lnk (Fin.ofNat 16 (n - 320))]
  else if n < 344 then [.att (Fin.ofNat 8 (n - 336))]
  else if n < 348 then [.cel (Fin.ofNat 4 (n - 344))]
  else if n = 348 then [.pwr]
  else if n = 349 then [.sec]
  else if n = 350 then [.mbx]
  else [.pkg]

/-- PG_EVT: the raw events AND their enables (R411). -/
def State.evt (s : State) (p : Page) : W32 := s.pg p PG_EVT_RAW &&& s.pg p PG_EVT_EN

/-- A page requests: PG_CTRL.en is 1 and PG_EVT is not zero. -/
def State.requests (s : State) (p : Page) : Bool := bit (s.pg p PG_CTRL) 0 && s.evt p != 0

/-- Source n requests. -/
def State.sourceHigh (s : State) (n : Nat) : Bool := (sourcePages n).any s.requests

/-- Reset value of an MSI-X table word: vectors masked (PRESUMED, log entry 15). -/
def msixReset (k : Nat) : W32 := if k % 4 = 3 then 1 else 0

def State.msixWord (s : State) (f v d : Nat) : W32 := smGet msixReset s.host.msix (512 * f + 4 * v + d)

def State.modHost (s : State) (f : HostIf → HostIf) : State := { s with host := f s.host }

/-- A request is completed to the host: its completions (R398, R400). -/
def State.replyAll (s : State) (l : List Cpl) : State := s.modHost fun h => { h with cpl := l }
def State.reply (s : State) (c : Cpl) : State := s.replyAll [c]

def dataCpl (d : List Byte) : Cpl := { ur := false, crs := false, ep := false, data := d }
def urCpl : Cpl := { ur := true, crs := false, ep := false, data := [] }

def State.modMgmt (s : State) (f : Mgmt → Mgmt) : State := { s with mgmt := f s.mgmt }
def State.modPower (s : State) (f : Power → Power) : State := { s with power := f s.power }
def State.modPort (s : State) (i : PortId) (f : Port → Port) : State := { s with ports := vmod s.ports i f }

/-- Vector v of function f is signalled: its message is sent, or, masked, its pending bit is set (R409, MSI-X). -/
def State.sendVector (s : State) (f : FnId) (v : Nat) : State :=
  let fn := s.host.fns[f]
  if !fn.msixEn then s
  else if fn.msixMask || bit (s.msixWord f v 3) 0 then
    s.modHost fun h => { h with pba := nsPut (128 * f.val + v) true h.pba }
  else
    let m : MsixMsg := { fn := f, vec := v, addr := (s.msixWord f v 1).append (s.msixWord f v 0), data := s.msixWord f v 2 }
    (s.modHost fun h => { h with pba := nsPut (128 * f.val + v) false h.pba, msixSent := h.msixSent ++ [m] }).bump .pkg 3 1

/-- A function may receive a source: it owns the source's core, or it may read the source's page (R409, R403). -/
def State.mayReceive (s : State) (f n : Nat) : Bool :=
  if n < 320 then s.owner (Fin.ofNat 64 (n / 5)) == f else f == 0

/-- The request of source n reaches the host die (R409). -/
def State.deliver (s : State) (n : Nat) : State :=
  let r := s.pg .pkg (PKG_INT n)
  let f := bits r 7 4
  if bit r 31 && s.mayReceive f n then s.sendVector (Fin.ofNat 16 f) (bits r 0 7) else s

/-- Deliver source n when its request has risen between two states. -/
def State.rise (before after : State) (n : Nat) : State :=
  if !before.sourceHigh n && after.sourceHigh n then after.deliver n else after

/-! ## Events and records (R411, R418) -/

def EVT_ERR := 0
def EVT_FAULT := 1
def EVT_HALT := 2
def EVT_ACCSAT := 3
def EVT_DONE := 4
def EVT_STATE := 5

/-- An event sets its bit in PG_EVT_RAW; its source may rise (R408, R411). -/
def State.event (s : State) (p : Page) (b : Nat) : State :=
  s.rise (s.setField p PG_EVT_RAW b 1 1) p.source

/-- The host die forwards a recorded code to the management controller's queue of 4,096 (R454). -/
def State.forward (s : State) (l : LogSrc) : State :=
  s.modMgmt fun m => if m.logq.length < 4096 then { m with logq := m.logq ++ [l] } else { m with lost := true }

/-- A code replaces PG_ERR_CODE and the four details of its page together, and is forwarded (R411, R454). -/
def State.putCode (s : State) (p : Page) (r : Rec) : State :=
  let s := s.setPg p PG_ERR_CODE (w32 r.code.toNat)
  let s := s.setPg p PG_ERR_INFO0 r.i0
  let s := s.setPg p (PG_ERR_INFO0 + 4) r.i1
  let s := s.setPg p (PG_ERR_INFO0 + 8) r.i2
  let s := s.setPg p (PG_ERR_INFO0 + 12) r.i3
  s.forward { page := w32 p.base, code := r.code, info := #v[r.i0, r.i1, r.i2, r.i3], wdog := false }

/-- An event is recorded (R418: kind "event"). -/
def State.record (s : State) (p : Page) (r : Rec) : State := (s.putCode p r).event p EVT_ERR

/-- A fault is recorded (R418: kinds "context fault" and "core fault"). -/
def State.recordFault (s : State) (p : Page) (r : Rec) : State := (s.putCode p r).event p EVT_FAULT

/-- An event that arises together with one that its page reports before it: latched and forwarded, the page's code stays (R394). -/
def State.recordBehind (s : State) (p : Page) (r : Rec) : State :=
  (s.forward { page := w32 p.base, code := r.code, info := #v[r.i0, r.i1, r.i2, r.i3], wdog := false }).event p EVT_ERR

/-- A record with four details. -/
def mkRec (code i0 i1 i2 i3 : Nat) : Rec :=
  { code := BitVec.ofNat 16 code, i0 := w32 i0, i1 := w32 i1, i2 := w32 i2, i3 := w32 i3 }

/-- A page answers: its unit exists (R7, R325), and in recovery mode only three pages do (R442). -/
def State.pageThere (s : State) (p : Page) : Bool :=
  (match p.core? with
   | some c => s.enabled c
   | none => true) &&
  (match p with
   | .att t => s.mgmt.fuses.attic.getLsbD t.val
   | _ => true) &&
  (!s.recovery || p == .pkg || p == .mbx || p == .sec)

/-- PG_STAT of a page: ready once initialised, which DEV_READY ends (R435); err while PG_ERR_CODE is not zero (R410). -/
def State.pgStat (s : State) (p : Page) : W32 := w32 (bn s.devReady + 2 * bn (s.pg p PG_ERR_CODE != 0))

/-- PG_ERR_INFOi as software reads it: the details latched by the latest read of PG_ERR_CODE, or, before the first read, the
live ones (R411). -/
def State.errInfo (s : State) (p : Page) (i : Fin 4) : W32 :=
  match s.info.find? (fun e => e.1 == p.base) with
  | some (_, v) => v[i]
  | none => s.pg p (PG_ERR_INFO0 + 4 * i.val)

/-- The next draw of the random bit generator, n bytes (R449, R451): free values. -/
def State.randomBytes (s : State) (n : Nat) : List Byte × State :=
  ((List.range n).map (fun i => Config.randomByte (s.free + i)), { s with free := s.free + n })

/-! ## The throttle, the cap and the islands (R392, R393, R395) -/

/-- PWR_STAT.thr and PWR_STAT.pcap: the throttle, the cap is in force. -/
def State.thr (s : State) : Bool := bit (s.pg .pwr PWR_STAT) 12
def State.pcap (s : State) : Bool := bit (s.pg .pwr PWR_STAT) 13
def State.capped (s : State) : Bool := s.thr || s.pcap

/-- The island of a core. -/
def State.island (s : State) (c : CoreId) : Island := (s.core c).island
def State.modIsland (s : State) (c : CoreId) (f : Island → Island) : State := s.modCore c fun k => { k with island := f k.island }

/-- A PHASE ends that gives its island no variant: where a throttle or a cap has lifted while it waited, the island now returns to its
decided variant (R392, R393, R394). -/
def State.restoreVar (s : State) (c : CoreId) : State :=
  if s.capped then s
  else s.modIsland c fun i => if i.goal.isNone ∧ i.var ≠ i.decided then { i with goal := some i.decided, onset := false } else i

end Machine
end Sys2Proof
end

