-- ==== Sys2Proof/Machine/Memory.lean ====
section
/-! DEFINITION. The package address map and the storeroom, attic and cellar behind it: words, bytes, poison, keys. -/

namespace Sys2Proof.Machine
open Sys2Proof

/-! ## The map (R322, R271, R331) -/

/-- What lies at a package address. -/
inductive Place where
  | attic
  | cellar (p : CelId)
  | sto (c : CoreId)
  | regs
  | unmapped
  deriving DecidableEq, Repr

def STO_BASE := 0x2000_0000_0000
def CEL_BASE := 0x1000_0000_0000
def REG_BASE := 0x3000_0000_0000

/-- Package address of the storeroom of core c (R271). -/
def stoBase (c : CoreId) : Nat := STO_BASE + 0x1000_0000 * c.val

/-- Package word (address div 8) of storeroom word `w` of core c. -/
def stoWord (c : CoreId) (w : Nat) : Nat := stoBase c / 8 + w

/-- Enabled attic stacks, in ascending number (R325). -/
def State.stacks (s : State) : List StackId := (List.finRange 8).filter fun t => s.mgmt.fuses.attic.getLsbD t

/-- Bytes of the attic: E × 72 GiB. -/
def State.atticSize (s : State) : Nat := 0x12_0000_0000 * s.stacks.length

/-- Mapped bytes of cellar port p: none while its link is down (R322, R331, R333). -/
def State.celSize (s : State) (p : CelId) : Nat :=
  if bit (s.pg (.cel p) CEL_STAT) 0 then 0x1000_0000 * bits (s.pg (.cel p) CEL_CAP) 0 13 else 0

/-- The package address map of R322. -/
def State.place (s : State) (a : Nat) : Place :=
  if a < s.atticSize then .attic
  else if CEL_BASE ≤ a ∧ a < CEL_BASE + 4 * 0x100_0000_0000 then
    let p : CelId := Fin.ofNat 4 ((a - CEL_BASE) / 0x100_0000_0000)
    if (a - CEL_BASE) % 0x100_0000_0000 < s.celSize p then .cellar p else .unmapped
  else if STO_BASE ≤ a ∧ a < STO_BASE + 64 * 0x1000_0000 then
    let c : CoreId := Fin.ofNat 64 ((a - STO_BASE) / 0x1000_0000)
    if (a - STO_BASE) % 0x1000_0000 < 0x800_0000 ∧ s.enabled c then .sto c else .unmapped
  else if REG_BASE ≤ a ∧ a < REG_BASE + 0x400_0000 then .regs
  else .unmapped

/-- Every byte of a run is attic, cellar or storeroom (R323): its ends lie in one memory, and each memory is one run. -/
def State.mapped (s : State) (a n : Nat) : Bool :=
  n == 0 || (s.place a == s.place (a + n - 1) && s.place a != .unmapped && s.place a != .regs)

/-- A package address in a cellar window. -/
def inCellar (a : Nat) : Bool := decide (CEL_BASE ≤ a ∧ a < CEL_BASE + 4 * 0x100_0000_0000)

/-- XOR of the fields of `len` bits of a number, `n` of them (the folds of R324). -/
def foldXor (len : Nat) : Nat → Nat → Nat
  | 0, _ => 0
  | n + 1, g => (g % (1 <<< len)) ^^^ foldXor len n (g >>> len)

/-- Offset within its stack of attic address a (R324). -/
def State.atticOffset (s : State) (a : Nat) : Nat :=
  let e := if s.stacks.length = 8 then 8 else s.stacks.length
  (a / 2048 / e) * 2048 + a % 2048

/-- Stack that holds attic address a (R324). -/
def State.atticStack (s : State) (a : Nat) : StackId :=
  let g := a / 2048
  if s.stacks.length = 8 then Fin.ofNat 8 (foldXor 3 10 g)
  else (s.stacks.drop (g % s.stacks.length)).headD 0

/-- Channel within the stack, and pseudo-channel, of attic address a (R324). -/
def State.atticChannel (s : State) (a : Nat) : Fin 32 := Fin.ofNat 32 (foldXor 5 6 (s.atticOffset a / 2048))
def atticPseudo (a : Nat) : Nat := a % 2048 / 1024

/-! ## Bytes and words -/

def zeroByte (_ : Nat) : Byte := 0
def noKey (_ : Nat) : Nat := 0

/-- Split a run at multiples of g: each part with its address. -/
def splitAtBounds (g : Nat) : Nat → Nat → List β → List (Nat × List β)
  | 0, _, _ => []
  | _ + 1, _, [] => []
  | f + 1, a, l =>
    let k := min (g - a % g) l.length
    (a, l.take k) :: splitAtBounds g f (a + k) (l.drop k)

/-- The byte stored at a package address. -/
def Mem.byte (m : Mem) (a : Nat) : Byte :=
  if inCellar a then smGet Config.cellarInitial m.cellar a else smGet zeroByte m.data a

/-- Store a byte. Every cellar byte ever written stays listed (log entry 7). -/
def Mem.setByte (m : Mem) (a : Nat) (b : Byte) : Mem :=
  if inCellar a then { m with cellar := smIns a b (smErase m.cellar a) }
  else { m with data := smSet zeroByte m.data a b }

/-- Store bytes at ascending addresses. -/
def Mem.setBytes (m : Mem) (a : Nat) : List Byte → Mem
  | [] => m
  | b :: r => Mem.setBytes (m.setByte a b) (a + 1) r

/-- FE and poison of the word (address div 8). -/
def Mem.feAt (m : Mem) (w : Nat) : Bool := m.fe.contains w
def Mem.poisonAt (m : Mem) (w : Nat) : Bool := m.poison.contains w

def Mem.setFe (m : Mem) (w : Nat) (on : Bool) : Mem := { m with fe := nsPut w on m.fe }
def Mem.setPoison (m : Mem) (w : Nat) (on : Bool) : Mem := { m with poison := nsPut w on m.poison }

/-- Key under which a cellar line is stored (R334); 0: plain text. -/
def Mem.keyAt (m : Mem) (line : Nat) : Nat := smGet noKey m.key line

/-- The 512 bits of a key, which its number names: one more than where the random bit generator stood when it drew them (R449). -/
def keyBytes (k : Nat) : List Byte := (List.range 64).map fun i => Config.randomByte (k - 1 + i)

/-- What a reader with key `rk` finds in block j of a line where a writer with key `wk` stored `b` (R334); key 0 is plain text. -/
def reveal (wk rk line j : Nat) (b : List Byte) : List Byte :=
  let stored := if wk = 0 then b else xtsEncrypt (keyBytes wk) line j b
  if rk = 0 then stored else xtsDecrypt (keyBytes rk) line j stored

/-- The byte that a requester with key k sees (R334). -/
def Mem.see (m : Mem) (k a : Nat) : Byte :=
  if inCellar a && m.keyAt (a / 64) != k then
    (reveal (m.keyAt (a / 64)) k (a / 64) (a % 64 / 16) ((List.range 16).map fun i => m.byte (a / 16 * 16 + i))).getD (a % 16) 0
  else m.byte a

/-- A run of bytes as a requester with key k sees them, each with the poison of its word. -/
def Mem.read (m : Mem) (k a n : Nat) : List (Byte × Bool) :=
  (List.range n).map fun i => (m.see k (a + i), m.poisonAt ((a + i) / 8))

/-- A storeroom word whole. -/
def Mem.word (m : Mem) (w : Nat) : StoWord :=
  { data := BitVec.ofNat 64 (leNat ((List.range 8).map fun i => m.byte (8 * w + i))), fe := m.feAt w,
    poison := m.poisonAt w }

/-- Every write recomputes the check bits of its word: no flipped bit is left (R268). -/
def Mem.fixWord (m : Mem) (w : Nat) : Mem := { m with flips := smErase m.flips w }

/-- The flipped bits of a storeroom word (R267). -/
def noFlip (_ : Nat) : BitVec 74 := 0
def Mem.flipsAt (m : Mem) (w : Nat) : BitVec 74 := smGet noFlip m.flips w

/-- Write a storeroom word with its FE and poison (FILL, COPY, sync operations; R268). -/
def Mem.setWord (m : Mem) (w : Nat) (x : StoWord) : Mem :=
  (((m.setBytes (8 * w) (toLe 8 x.data.toNat)).setFe w x.fe).setPoison w x.poison).fixWord w

/-- One write of some bytes of one storeroom or attic word (R268, R269, R326): a whole word takes FE 0 and the poison of its
data; a partial one keeps FE and keeps or gains poison. -/
def Mem.writeChunk (m : Mem) (a : Nat) (l : List (Byte × Bool)) : Mem :=
  let w := a / 8
  let p := l.any (·.2)
  let m' := (m.setBytes a (l.map (·.1))).fixWord w
  if l.length = 8 then (m'.setFe w false).setPoison w p else m'.setPoison w (m.poisonAt w || p)

/-- The 8 words of a cellar line poisoned or not (R332). -/
def Mem.poisonLine (m : Mem) (line : Nat) (on : Bool) : Mem :=
  forRange 8 (fun i m => m.setPoison (8 * line + i) on) m

/-- One write of some bytes of one cellar line under key k (R332, R334): a partial line is read with the requester's key, merged
and written with it. -/
def Mem.writeLine (m : Mem) (k a : Nat) (l : List (Byte × Bool)) : Mem :=
  let line := a / 64
  let p := l.any (·.2)
  let old := m.poisonAt (8 * line)
  let m' := if l.length != 64 && m.keyAt line != k then
      m.setBytes (64 * line) ((List.range 64).map fun i => m.see k (64 * line + i))
    else m
  let m' := m'.setBytes a (l.map (·.1))
  let m' := { m' with key := smSet noKey m'.key line k }
  m'.poisonLine line (if l.length = 64 then p else old || p)

/-- A run of bytes written with key k, each byte with its poison. -/
def Mem.write (m : Mem) (k a : Nat) (l : List (Byte × Bool)) : Mem :=
  if inCellar a then (splitAtBounds 64 l.length a l).foldl (fun m c => m.writeLine k c.1 c.2) m
  else (splitAtBounds 8 l.length a l).foldl (fun m c => m.writeChunk c.1 c.2) m

/-- The canonical form of the memory: addresses strictly rising, no listed attic or storeroom byte 0, no word twice among FE and
poison, no line stored with key 0, no word listed without a flipped bit. -/
def Mem.wf (m : Mem) : Bool :=
  smWf zeroByte m.data && smSorted m.cellar && nsSorted m.fe && nsSorted m.poison && smWf noKey m.key && smWf noFlip m.flips

/-! ## The memory of the package -/

def State.modMem (s : State) (f : Mem → Mem) : State := { s with mem := f s.mem }

/-- Key with which the data of function f pass to the cellar (R334, R449). -/
def State.keyOf (s : State) (f : Nat) : Nat := (s.mgmt.keys[Fin.ofNat 16 f]).getD 0

/-- Bytes of a storeroom, with their poison. -/
def State.stoRead (s : State) (c : CoreId) (off n : Nat) : List (Byte × Bool) := s.mem.read 0 (stoBase c + off) n

/-- Bytes of a storeroom. -/
def State.stoBytes (s : State) (c : CoreId) (off n : Nat) : List Byte :=
  (List.range n).map fun i => s.mem.byte (stoBase c + off + i)

/-- Some word of a storeroom range is poisoned. -/
def State.stoPoison (s : State) (c : CoreId) (off n : Nat) : Bool :=
  n != 0 && s.mem.poison.any fun w => decide ((stoBase c + off) / 8 ≤ w ∧ w ≤ (stoBase c + off + n - 1) / 8)

/-- Write bytes to a storeroom. -/
def State.stoWrite (s : State) (c : CoreId) (off : Nat) (l : List (Byte × Bool)) : State :=
  s.modMem fun m => m.write 0 (stoBase c + off) l

/-- Write clean bytes to a storeroom. -/
def State.stoPut (s : State) (c : CoreId) (off : Nat) (l : List Byte) : State := s.stoWrite c off (l.map fun b => (b, false))

/-- A storeroom word. -/
def State.stoWordAt (s : State) (c : CoreId) (w : Nat) : StoWord := s.mem.word (stoWord c w)

def State.setStoWord (s : State) (c : CoreId) (w : Nat) (x : StoWord) : State := s.modMem fun m => m.setWord (stoWord c w) x

/-- Count bytes that an access moves to or from the attic or the cellar (R347): counter 0 read, 1 written. -/
def State.countAccess (s : State) (a n i : Nat) : State :=
  match s.place a with
  | .attic => s.bump (.att (s.atticStack a)) i n
  | .cellar p => s.bump (.cel p) i n
  | _ => s

/-- The same for a run of any length, 2 KiB granule by granule. -/
def State.countRun (s : State) (a n i : Nat) : State :=
  forRange (if n = 0 then 0 else (a + n - 1) / 2048 - a / 2048 + 1) (fun g s =>
    let lo := max a (2048 * (a / 2048 + g))
    s.countAccess lo (min (a + n) (2048 * (a / 2048 + g + 1)) - lo) i) s

/-- Poisoned cellar lines in a run, received from the device (CEL_POISON of R347). -/
def State.countPoison (s : State) (a n : Nat) : State :=
  match s.place a with
  | .cellar p =>
    if n = 0 then s else
    s.bump (.cel p) 2 (((List.range ((a + n - 1) / 64 - a / 64 + 1)).filter fun i => s.mem.poisonAt (8 * (a / 64 + i))).length)
  | _ => s

/-- A read of a run of any length: its bytes and its poisoned cellar lines are counted, 2 KiB granule by granule. -/
def State.countRead (s : State) (a n : Nat) : State :=
  forRange (if n = 0 then 0 else (a + n - 1) / 2048 - a / 2048 + 1) (fun g s =>
    let lo := max a (2048 * (a / 2048 + g))
    let m := min (a + n) (2048 * (a / 2048 + g + 1)) - lo
    (s.countAccess lo m 0).countPoison lo m) s

/-- Lines of a run that it covers in part: its first and its last. -/
def partLines (a n : Nat) : List Nat :=
  if n = 0 then []
  else
    let (f, l) := (a / 64, (a + n - 1) / 64)
    if f = l then (if n = 64 then [] else [f]) else (if a % 64 = 0 then [] else [f]) ++ (if (a + n) % 64 = 0 then [] else [l])

/-- The lines of the cellar that a write covers in part come from the device to be merged: poisoned ones are received (R332, R347). -/
def State.countMerge (s : State) (a n : Nat) : State :=
  match s.place a with
  | .cellar p => s.bump (.cel p) 2 ((partLines a n).filter fun l => s.mem.poisonAt (8 * l)).length
  | _ => s

/-- A pull, hatch, DMA or host write of a run that lies in one 2 KiB granule. -/
def State.pkgWrite (s : State) (k a : Nat) (l : List (Byte × Bool)) : State :=
  ((s.countMerge a l.length).modMem fun m => m.write k a l).countAccess a l.length 1

/-- A write, sync operation or signal reached the MESH port from the mesh (R309). -/
def State.touch (s : State) (c : CoreId) : State := s.modCore c fun k => { k with touched := true }

/-- Core c writes a run that lies in one 2 KiB granule: in another core's storeroom it arrives through the MESH port (R309). -/
def State.coreWrite (s : State) (c : CoreId) (k a : Nat) (l : List (Byte × Bool)) : State :=
  let t := s.pkgWrite k a l
  match s.place a with
  | .sto d => if d = c ∨ l.isEmpty then t else t.touch d
  | _ => t

end Sys2Proof.Machine
end

