-- ==== Sys2Proof/Machine/Operands.lean ====
section
/-! DEFINITION. The operand forms: activation formats, weight tiles and the quantiser (03, 04, 06). -/

namespace Sys2Proof.Machine
open Sys2Proof

/-! ## Formats (R66, R79, R197) -/

inductive Fmt where
  | fp32
  | bf16
  | bs (b : Nat)
  | bu (b : Nat)
  | w (w : Nat)
  deriving DecidableEq, Repr

/-- The FMT codes of R197; none for a reserved encoding. -/
def fmtOf (v : Nat) : Option Fmt :=
  if v = 0 then some .fp32
  else if v = 1 then some .bf16
  else if v / 16 = 1 then some (.bs (v % 16 + 1))
  else if v / 16 = 2 then some (.bu (v % 16 + 1))
  else if v / 16 = 3 then some (.w (v % 16 + 1))
  else none

def Fmt.isBlock : Fmt → Bool
  | .bs _ | .bu _ => true
  | _ => false

def Fmt.isFloat : Fmt → Bool
  | .fp32 | .bf16 => true
  | _ => false

def Fmt.isW : Fmt → Bool
  | .w _ => true
  | _ => false

/-- Bits of an element. -/
def Fmt.bits : Fmt → Nat
  | .fp32 => 32
  | .bf16 => 16
  | .bs b | .bu b | .w b => b

/-- Field i of `b` bits of a bit string held as a number (R72). -/
def fieldOf (b : Nat) (str i : Nat) : Nat := (str >>> (i * b)) % (1 <<< b)

/-- Pack codes of b bits each into a bit string, element 0 lowest (R72). -/
def packCodes (b : Nat) : List Nat → Nat
  | [] => 0
  | q :: r => q % (1 <<< b) + (packCodes b r) <<< b

/-! ## Activations -/

/-- The zero point that takes part: the low b bits for b below 8; 0 for BS (R68, R69). -/
def zeroPoint (f : Fmt) (zp : Nat) : Nat :=
  match f with
  | .bu b => if b < 8 then zp % (1 <<< b) else zp
  | _ => 0

/-- The escape code of a format, if it has one (R66). -/
def escapeCode : Fmt → Option Nat
  | .bs b => if 2 ≤ b then some (1 <<< (b - 1)) else none
  | .bu b => if 2 ≤ b then some (1 <<< b - 1) else none
  | _ => none

/-- The code that the planes carry: an escape is replaced by the zero point (R49). -/
def substEscape (f : Fmt) (z code : Nat) : Nat := if escapeCode f = some code then z else code

/-- The integer value of a code: unsigned for BU, two's complement for BS, 2u - 1 for BS1 (R56, R66). -/
def codeVal (f : Fmt) (code : Nat) : Int :=
  match f with
  | .bs b => if b = 1 then 2 * (code : Int) - 1 else signed b code
  | _ => (code : Int)

/-- The value of the code of a weight: 2u - 1 for W1, two's complement otherwise (R79). -/
def weightVal (w code : Nat) : Int := if w = 1 then 2 * (code : Int) - 1 else signed w code

/-- An activation operand (R70 to R74): package addresses of its areas, format, group size, reduction length. -/
structure ActOp where
  code : Nat
  metaA : Nat
  crate : Option Nat
  fmt : Fmt
  g : Nat
  k : Nat
  deriving DecidableEq, Repr

/-- Address and length of the codes of elements k0 to k0 + n - 1 of vector m; k0 and n multiples of 8 (R72). -/
def ActOp.codeRun (o : ActOp) (m k0 n : Nat) : Nat × Nat := (o.code + (m * o.k + k0) * o.fmt.bits / 8, n * o.fmt.bits / 8)

/-- Address of the metadata word of vector m and scale group g (R73). -/
def ActOp.metaAt (o : ActOp) (m g : Nat) : Nat := o.metaA + 2 * (m * o.k / o.g + g)

/-- Address of the crate section of vector m and block j (R74). -/
def crateAt (crate k m j : Nat) : Nat := crate + 16 * (m * k / 128 + j)

/-- A little-endian quantity of n bytes in memory. -/
def Mem.le (m : Mem) (a n : Nat) : Nat := leNat ((List.range n).map fun i => m.byte (a + i))

/-- The n codes from element k0 of vector v. -/
def Mem.codes (m : Mem) (o : ActOp) (v k0 n : Nat) : List Nat :=
  let r := o.codeRun v k0 n
  let str := m.le r.1 r.2
  (List.range n).map (fieldOf o.fmt.bits str)

/-- Exponent and zero-point field of a metadata word. -/
def Mem.metaWord (m : Mem) (o : ActOp) (v g : Nat) : Nat × Nat :=
  let x := m.le (o.metaAt v g) 2
  (x % 256, x / 256)

/-- The valid slots of a crate section: element index within the block, and value as fp32 (R74, R76, R78). -/
def Mem.crateSlots (m : Mem) (a : Nat) : List (Nat × W32) :=
  (List.range 4).filterMap fun i =>
    let x := w32 (m.le (a + 4 * i) 4)
    if bit x 23 then some (bits x 16 7, bfToF (BitVec.ofNat 16 (bits x 0 16))) else none

/-- The value (u - z) × 2^(E - 127) of an element after escape substitution. The escape reads as the zero point at every width
(R49, R66, R77), so the BU16 code 65,535 is 0 here, although the text after R91 reads it as 65,535 × 2^128; DEDUCED, log entry
37. -/
def elemDy (f : Fmt) (e zp code : Nat) : Dy :=
  let z := zeroPoint f zp
  { m := codeVal f (substEscape f z code) - (z : Int), e := (e : Int) - 127 }

/-- A sum on the load path: beyond the fp32 range it becomes ±max finite (R91). R91 does not say whether that befalls each sum of
a slot or the final value alone: each sum, before the next slot is added. DESIGN CHOICE, log entry 37. -/
def faddSat (x y : W32) : W32 :=
  let r := fadd x y
  if fIsInf r && fIsFinite x && fIsFinite y then fmax (bit r 31) else r

/-- Block-integer elements to fp32 on the load path: the value rounded once, then the crate contributions in slot order
(R91). Elements 128 j to 128 j + 127 of vector v. -/
def Mem.blockToF (m : Mem) (o : ActOp) (v j : Nat) : List W32 :=
  let cs := m.codes o v (128 * j) 128
  let slots := match o.crate with
    | some a => m.crateSlots (crateAt a o.k v j)
    | none => []
  cs.zipIdx.map fun (c, i) =>
    let (e, zp) := m.metaWord o v ((128 * j + i) / o.g)
    slots.foldl (fun x s => if s.1 = i then faddSat x s.2 else x) (froundSat (elemDy o.fmt e zp c) false)

/-! ## Weight tiles (R80 to R83, R133 to R136) -/

/-- A column slot as read: group, element indices, whole codes. -/
structure RawSlot where
  grp : Nat
  ia : Nat
  ib : Nat
  ca : Nat
  cb : Nat
  deriving DecidableEq, Repr

/-- A weight tile as a reader of width w sees it: dense codes by index x = 128 (k div 4) + 4 n + k mod 4, or the slots of
each column with their declared counts. -/
inductive TileBody where
  | dense (codes : List Nat)
  | slots (cols : List (List RawSlot))
  deriving DecidableEq, Repr

/-- Bit-string index of weight (k, n) (R82). -/
def tileIndex (k n : Nat) : Nat := (k / 4) * 128 + n * 4 + k % 4

/-- The codes of a dense body of width w held as a number: one string, or low and high slice strings (R82). -/
def denseCodes (w body : Nat) : List Nat :=
  if w ≤ 8 then (List.range 4096).map (fieldOf w body)
  else
    let hi := body >>> (8 * 4096)
    (List.range 4096).map fun x => fieldOf 8 body x + 256 * fieldOf (w - 8) hi x

/-- Bytes of the section of a column with a declared count (R135). -/
def sectionBytes (w cnt : Nat) : Nat := 4 * cdiv (cnt * (2 * w + 10)) 32

/-- A slot record of 2 w + 10 bits (R134). -/
def recordOf (w r : Nat) : RawSlot :=
  { ia := r % 4, ib := (r >>> 2) % 4, grp := (r >>> 4) % 64, ca := (r >>> 10) % (1 <<< w),
    cb := (r >>> (w + 10)) % (1 <<< w) }

/-- The columns of a compressed body held as a number: counts as declared, at most 64 records read of each (R136, R149). -/
def slotCols (w body : Nat) : List Nat → Nat → List (List RawSlot)
  | [], _ => []
  | cnt :: r, off =>
    let sec := body >>> (8 * off)
    ((List.range (min cnt 64)).map fun j => recordOf w (fieldOf (2 * w + 10) sec j)) ::
      slotCols w body r (off + sectionBytes w cnt)

/-- Dense bit, blen and declared counts of a tile header, and its bytes 64 to 191 (R80). -/
structure TileHdr where
  width : Nat
  gsize : Nat
  dense : Bool
  blen : Nat
  scount : List Nat
  ew : List Byte
  deriving DecidableEq, Repr

def Mem.tileHdr (m : Mem) (a : Nat) : TileHdr :=
  let b0 := (m.byte a).toNat
  { width := b0 % 16 + 1, gsize := b0 / 16 % 4, dense := 128 ≤ b0, blen := m.le (a + 2) 2,
    scount := (List.range 32).map fun n => (m.byte (a + 4 + n)).toNat,
    ew := (List.range 128).map fun i => m.byte (a + 64 + i) }

/-- Body bytes that a reader of width w fetches (R81, R136). -/
def TileHdr.fetch (h : TileHdr) (w : Nat) : Nat := 64 * (if h.dense then 8 * w else min h.blen (8 * w))

/-- The body as a reader of width w sees it (R81, R82, R136). -/
def Mem.tileBody (m : Mem) (a w : Nat) (h : TileHdr) : TileBody :=
  let body := m.le (a + 192) (h.fetch w)
  if h.dense then .dense (denseCodes w body) else .slots (slotCols w body h.scount 0)

/-- The slots that name position k of a column, as their codes there (R148, R150). -/
def posCodes (col : List RawSlot) (k : Nat) : List Nat :=
  col.flatMap fun s =>
    (if s.grp = k / 4 ∧ s.ia = k % 4 then [s.ca] else []) ++ (if s.grp = k / 4 ∧ s.ib = k % 4 then [s.cb] else [])

/-- The code of weight (k, n) that a dense engine's expander forms: the sum of the codes wrapped to w bits (R148). -/
def TileBody.code (t : TileBody) (w k n : Nat) : Nat :=
  match t with
  | .dense cs => cs.getD (tileIndex k n) 0
  | .slots cols => (posCodes (cols.getD n []) k).sum % (1 <<< w)

/-- The value of weight (k, n) that a crate addition reads: the sum of the values, not wrapped (R150). -/
def TileBody.value (t : TileBody) (w k n : Nat) : Int :=
  match t with
  | .dense cs => weightVal w (cs.getD (tileIndex k n) 0)
  | .slots cols => ((posCodes (cols.getD n []) k).map (weightVal w)).sum

/-! ## The quantiser (R93 to R103, R480) -/

/-- Parameters of a quantising destination. -/
structure Quant where
  fmt : Fmt
  blk : Nat
  zp : Nat
  ecap : Nat
  crt : Bool
  deriving DecidableEq, Repr

/-- Top code, positive and negative capacity (R95). -/
def capacity (f : Fmt) (zp : Nat) : Nat × Nat × Nat :=
  let z := zeroPoint f zp
  match f with
  | .bs b => if b = 1 then (1, 1, 1) else (0, 1 <<< (b - 1) - 1, 1 <<< (b - 1) - 1)
  | .bu b => if b = 1 then (1, 1 - z, min z 1) else (1 <<< b - 2, 1 <<< b - 2 - z, min z (1 <<< b - 2))
  | .w w => if w = 1 then (1, 1, 1) else (0, 1 <<< (w - 1) - 1, 1 <<< (w - 1))
  | _ => (0, 0, 0)

/-- The smallest integer e with v ≤ c × 2^e, for positive v and c (R96): between the bit lengths. -/
def smallestE (v : Dy) (c : Nat) : Int :=
  let e0 : Int := bitLen v.m.natAbs - bitLen c + v.e
  if v.le { m := c, e := e0 - 1 } then e0 - 1 else if v.le { m := c, e := e0 } then e0 else e0 + 1

/-- The larger of two exact values. -/
def dyMax (a b : Dy) : Dy := if a.le b then b else a

/-- The block exponent field E8 of finite values xs (R96, R97). -/
def blockE8 (f : Fmt) (zp ecap : Nat) (xs : List W32) : Nat :=
  let ds := (xs.filter fIsFinite).map fdy
  let zero : Dy := { m := 0, e := 0 }
  let mp := ds.foldl (fun a d => if 0 < d.m then dyMax a d else a) zero
  let mn := ds.foldl (fun a d => if d.m < 0 then dyMax a d.neg else a) zero
  let (_, p, n) := capacity f zp
  let es : List Int := (if mp.m = 0 ∨ p = 0 then [] else [smallestE mp p]) ++ (if mn.m = 0 ∨ n = 0 then [] else [smallestE mn n])
  let e : Int := match es with
    | [] => -127
    | a :: r => r.foldl max a
  if e + 127 < 0 then 0 else min (e + 127).toNat ecap

/-- What the quantiser makes of one element before the crate is decided. -/
inductive QElem where
  | code (q : Int)
  | outlier (q : Int)
  | nonfinite (q : Int)
  deriving DecidableEq, Repr

/-- Least and greatest value of R98's range. -/
def codeRange (f : Fmt) (zp : Nat) : Int × Int :=
  let (t, p, n) := capacity f zp
  match f with
  | .bu _ => (0, t)
  | .bs b => if b = 1 then (0, 1) else (-(p : Int), p)
  | .w w => if w = 1 then (0, 1) else (-(n : Int), p)
  | _ => (0, 0)

/-- The unclamped code of one value against E8 (R98, R99). A NaN takes the code of value zero even where that code is the
escape code, which a BU zero point of 2^b - 1 makes it: R99 names z, and R77 speaks of quantised values; DEDUCED, log entry
37. -/
def quantElem (f : Fmt) (zp e8 : Nat) (x : W32) : QElem :=
  let (lo, hi) := codeRange f zp
  let z : Int := zeroPoint f zp
  let one := f == .bs 1 || f == .w 1
  match fv x with
  | .nan => .nonfinite (if one then 1 else z)
  | .inf neg => .nonfinite (if neg then lo else hi)
  | .fin neg d =>
    if one then .code (if neg then 0 else 1)
    else
      let q := ({ d with e := d.e + 127 - e8 } : Dy).round + z
      if lo ≤ q ∧ q ≤ hi then .code q else .outlier q

/-- A quantised run of one crate section's worth of elements, or of one weight group: codes, crate slots (index, value),
clips, and outliers clipped for want of a slot. -/
structure QOut where
  codes : List Nat
  slots : List (Nat × W16)
  clips : Nat
  excess : Nat
  deriving DecidableEq, Repr

/-- The element indices among outliers that go to the crate: the four largest magnitudes, ties to the lower index (R100). -/
def crateChoice (outs : List (Nat × Dy)) : List Nat :=
  if outs.length ≤ 4 then outs.map (·.1)
  else
    (outs.filter fun o => decide ((outs.filter fun p => o.2.abs.lt p.2.abs ||
      (!(p.2.abs.lt o.2.abs) && decide (p.1 < o.1))).length < 4)).map (·.1)

/-- A code value as its field of b bits. -/
def codeField (b : Nat) (q : Int) : Nat := wrapN b q

/-- Decide outliers, crate and clips over up to 128 elements whose codes are formed (R100 to R102). `crate`: the destination
has a crate and the format an escape code. Elements from `live` on are the exact zeros that fill a block (R163): one of them
takes no crate slot, and where its code lies outside the range it is clipped, which counts (R101; DEDUCED, log entry 37). -/
def quantSection (f : Fmt) (zp : Nat) (crate : Bool) (live : Nat) (xs : List W32) (qs : List QElem) : QOut :=
  let (lo, hi) := codeRange f zp
  let outs := (xs.zip qs).zipIdx.filterMap fun ((x, q), i) =>
    match q with
    | .outlier _ => some (i, fdy x)
    | _ => none
  let real := outs.filter fun o => decide (o.1 < live)
  let esc := if crate then crateChoice real else []
  let b := f.bits
  let codes := qs.zipIdx.map fun (q, i) =>
    match q with
    | .code v | .nonfinite v => codeField b v
    | .outlier v => if esc.contains i then (escapeCode f).getD 0 else codeField b (if v < lo then lo else hi)
  let bfs := xs.zipIdx.filterMap fun (x, i) => if esc.contains i then some (i, fToBf x) else none
  let nonfin := (qs.filter fun q => match q with | .nonfinite _ => true | _ => false).length
  { codes := codes, slots := bfs.map fun (i, r) => (i, r.1),
    clips := nonfin + (outs.length - esc.length) + (bfs.filter fun (_, r) => r.2).length,
    excess := if crate then real.length - esc.length else 0 }

/-- The 16 bytes of a crate section (R74, R75). -/
def crateBytes (slots : List (Nat × W16)) : List Byte :=
  takePad 0 16 (slots.flatMap fun (i, v) => toLe 4 (v.toNat + i * 0x1_0000 + 0x80_0000))

/-- Split a list into runs of n. -/
def chunks (n : Nat) : Nat → List β → List (List β)
  | 0, _ => []
  | _ + 1, [] => []
  | k + 1, l => l.take n :: chunks n k (l.drop n)

def inChunks (n : Nat) (l : List β) : List (List β) := chunks n l.length l

/-- A section of up to 128 elements quantised in blocks of B, the first `live` of them written: the exponents, and the section's
codes and crate. -/
def quantBlocks (q : Quant) (live : Nat) (xs : List W32) : List Nat × QOut :=
  let bl := (inChunks q.blk xs).map fun b => (blockE8 q.fmt q.zp q.ecap b, b)
  let qs := bl.flatMap fun (e, b) => b.map (quantElem q.fmt q.zp e)
  (bl.map (·.1), quantSection q.fmt q.zp (q.crt && (escapeCode q.fmt).isSome) live xs qs)

/-! ## Writing weight tiles -/

/-- The 192 header bytes of a tile (R80). `ew g n` is the exponent of weight group g of column n. -/
def hdrBytes (w gsize : Nat) (dense : Bool) (blen : Nat) (scount : List Nat) (ew : List Byte) : List Byte :=
  BitVec.ofNat 8 (w - 1 + 16 * gsize + (if dense then 128 else 0)) :: 0 ::
    (toLe 2 blen ++ takePad 0 32 (scount.map (BitVec.ofNat 8)) ++ List.replicate 28 0 ++ takePad 0 128 ew)

/-- The dense body of codes by bit-string index (R82). -/
def denseBody (w : Nat) (codes : List Nat) : List Byte :=
  if w ≤ 8 then toLe (512 * w) (packCodes w codes)
  else toLe 4096 (packCodes 8 codes) ++ toLe (512 * (w - 8)) (packCodes (w - 8) (codes.map (· / 256)))

/-- The slots that the compressor emits for one column given by its 128 codes of width w: every weight that is not zero, which
every W1 weight is (R137). -/
def compressCol (w : Nat) (codes : List Nat) : List RawSlot :=
  (List.range 32).flatMap fun gam =>
    let nz := ((List.range 4).map fun i => (i, codes.getD (4 * gam + i) 0)).filter fun p => w == 1 || p.2 != 0
    let one (p : Nat × Nat) : RawSlot := { grp := gam, ia := p.1, ib := p.1, ca := p.2, cb := 0 }
    let two (p r : Nat × Nat) : RawSlot := { grp := gam, ia := p.1, ib := r.1, ca := p.2, cb := r.2 }
    match nz with
    | [] => []
    | [a] => [one a]
    | [a, b] => [two a b]
    | [a, b, c] => [two a b, one c]
    | a :: b :: c :: d :: _ => [two a b, two c d]

/-- A slot record as bits (R134). -/
def recordBits (w : Nat) (s : RawSlot) : Nat :=
  s.ia + 4 * s.ib + 16 * s.grp + s.ca <<< 10 + s.cb <<< (w + 10)

/-- The bytes of one column section (R135). -/
def sectionOf (w : Nat) (col : List RawSlot) : List Byte :=
  toLe (sectionBytes w col.length) (packCodes (2 * w + 10) (col.map (recordBits w)))

/-- The compressed body and its length in 64-byte units (R135, R138). -/
def compressBody (w : Nat) (codes : List Nat) : List (List RawSlot) × List Byte :=
  let cols := (List.range 32).map fun n => compressCol w ((List.range 128).map fun k => codes.getD (tileIndex k n) 0)
  (cols, cols.flatMap (sectionOf w))

/-- The ew bytes that gsize uses; the reserved ones zero (R137). -/
def ewUsed (gsize : Nat) (ew : List Byte) : List Byte :=
  takePad 0 128 (ew.take (if gsize = 1 then 64 else if gsize = 2 then 32 else 128))

/-- What the compressor writes for a tile of width w (R137, R138): header and body. -/
def compressTile (w gsize : Nat) (ew : List Byte) (codes : List Nat) : List Byte :=
  let (cols, body) := compressBody w codes
  let blen := cdiv body.length 64
  if 8 * w ≤ blen then hdrBytes w gsize true (8 * w) [] (ewUsed gsize ew) ++ denseBody w codes
  else hdrBytes w gsize false blen (cols.map List.length) (ewUsed gsize ew) ++ takePad 0 (64 * blen) body

/-- A quantised weight tile (R480): 4,096 values by bit-string index; the tile's header bytes for ew, its codes, and clips. -/
def quantTile (q : Quant) (vals : List W32) : List Byte × List Nat × Nat :=
  let groups := 128 / q.blk
  let outs := (List.range 32).map fun n => (List.range groups).map fun g =>
    let xs := (List.range q.blk).map fun i => vals.getD (tileIndex (g * q.blk + i) n) 0
    let e := blockE8 q.fmt q.zp q.ecap xs
    (e, quantSection q.fmt q.zp false xs.length xs (xs.map (quantElem q.fmt q.zp e)))
  let ew := (List.range 128).map fun i => BitVec.ofNat 8 (((outs.getD (i % 32) []).getD (i / 32) (0, ⟨[], [], 0, 0⟩)).1)
  let codes := (List.range 4096).map fun x =>
    let k := 4 * (x / 128) + x % 4
    let n := x / 4 % 32
    (((outs.getD n []).getD (k / q.blk) (0, ⟨[], [], 0, 0⟩)).2.codes).getD (k % q.blk) 0
  (ew, codes, ((outs.map fun l => (l.map fun o => o.2.clips).sum).sum))

end Sys2Proof.Machine
end

