-- ==== Sys2Proof/Machine/Engine.lean ====
section
/-! DEFINITION. The engines: product tables, bit planes, the group-scale stage, the loft (02, 05, 06). -/

namespace Sys2Proof.Machine
open Sys2Proof

/-! ## Product tables and planes (R41 to R55)

The array computes a tap plane by plane; the group-scale stage needs only the integer partial of R56, which `partialOf` states
and `planeSum` shows to be what the planes add up to. -/

/-- Entry p of the table of four weights: the sum of the weights whose bit of p is set (R41). -/
def tableEntry (w0 w1 w2 w3 : Int) (p : Nat) : Int :=
  (if p.testBit 0 then w0 else 0) + (if p.testBit 1 then w1 else 0) + (if p.testBit 2 then w2 else 0) +
    (if p.testBit 3 then w3 else 0)

/-- The pattern of a row for plane j: bit i is bit j of the code of element i (R50). -/
def rowPattern (j c0 c1 c2 c3 : Nat) : Nat :=
  bn (c0.testBit j) + 2 * bn (c1.testBit j) + 4 * bn (c2.testBit j) + 8 * bn (c3.testBit j)

/-- One plane through the adder tree of a column: the rows' entries summed (R52). -/
def treeSum (j : Nat) : List Int → List Nat → Int
  | w0 :: w1 :: w2 :: w3 :: ws, c0 :: c1 :: c2 :: c3 :: cs =>
    tableEntry w0 w1 w2 w3 (rowPattern j c0 c1 c2 c3) + treeSum j ws cs
  | _, _ => 0

/-- Weight of plane j in the shift-accumulator (R50). -/
def planeWeight (f : Fmt) (j : Nat) : Int :=
  match f with
  | .bs b => if b = 1 then 2 else if j = b - 1 then -((1 <<< (b - 1) : Nat) : Int) else ((1 <<< j : Nat) : Int)
  | _ => ((1 <<< j : Nat) : Int)

/-- The shift-accumulator of a tap after its planes (R53). -/
def planeSum (f : Fmt) (ws : List Int) (cs : List Nat) : Int :=
  ((List.range f.bits).map fun j => planeWeight f j * treeSum j ws cs).sum

/-- The sum of products. -/
def dot : List Int → List Int → Int
  | w :: ws, q :: qs => w * q + dot ws qs
  | _, _ => 0

/-- The integer partial of R56: the product sum, less the zero point times the weight sum. -/
def partialOf (ws qs : List Int) (z : Nat) : Int := dot ws qs - (z : Int) * ws.sum

/-- Rows of a vector whose pattern is 0 on plane j (R54). -/
def gatedRows (j : Nat) : List Nat → Nat
  | c0 :: c1 :: c2 :: c3 :: cs => bn (rowPattern j c0 c1 c2 c3 == 0) + gatedRows j cs
  | _ => 0

/-- Row reads suppressed on all planes of a vector. -/
def gatedReads (b : Nat) (cs : List Nat) : Nat := ((List.range b).map fun j => gatedRows j cs).sum

/-! ## The group-scale stage (R57 to R59) -/

/-- The 32-bit clamp, and whether it acted. -/
def clamp32 (p : Int) : Int × Bool :=
  if p < -2147483648 then (-2147483648, true) else if 2147483647 < p then (2147483647, true) else (p, false)

/-- A pair, with its saturation flag. -/
structure Pair where
  hi : W32
  lo : W32
  sat : Bool
  deriving DecidableEq, Repr

/-- P × 2^e as an unevaluated pair (R59). -/
def pairOf (p : Int) (e : Int) : Pair :=
  let (p, cl) := clamp32 p
  let d : Dy := { m := p, e := e }
  let hi := fround d false
  if fIsInf hi then { hi := fmax (bit hi 31), lo := 0, sat := true }
  else { hi := hi, lo := fround (d.sub (fdy hi)) false, sat := cl }

/-! ## The loft (R115 to R121) -/

/-- A loft entry (s, c), its value s + c (R87). -/
structure Entry where
  s : W32
  c : W32
  deriving DecidableEq, Repr

def Entry.ofWord (w : W64) : Entry := { s := w.setWidth 32, c := (w >>> 32).setWidth 32 }
def Entry.toWord (x : Entry) : W64 := x.c.append x.s

/-- An entry takes a pair (R119); the flag tells that an addition overflowed. -/
def Entry.take (x : Entry) (hi lo : W32) : Entry × Bool :=
  let (s1, e1) := twoSum x.s hi
  if fIsInf s1 then ({ s := fmax (bit s1 31), c := 0 }, true)
  else
    let c2 := fadd (fadd x.c lo) e1
    let (s2, e2) := twoSum s1 c2
    if fIsInf s2 then ({ s := fmax (bit s2 31), c := 0 }, true) else ({ s := s2, c := e2 }, false)

/-- Pairs delivered to one entry in order; under overwrite the first replaces it (R61, R120). -/
def Entry.takeAll (ovr : Bool) (x : Entry) (sat : Bool) : List Pair → Entry × Bool
  | [] => (x, sat)
  | p :: r =>
    if ovr then Entry.takeAll false { s := p.hi, c := p.lo } (sat || p.sat) r
    else
      let (y, o) := x.take p.hi p.lo
      Entry.takeAll false y (sat || p.sat || o) r

/-- Entries of the loft of an engine of unit u: 8,192 dense, 4,096 sparse (R115). -/
def loftSize (u : Nat) : Nat := if u = 8 then 4096 else 8192

/-- log2 of the slot count that a LOFT_CFG value gives: 6 and 7 act as 5 (R118). -/
def slotLog (v : Nat) : Nat := min v 5

/-- Largest M of a slot (R115). -/
def maxM (u n : Nat) : Nat := loftSize u / (1 <<< slotLog n) / 32

/-- Index within an engine's loft of entry (m, col) of a slot (R116). -/
def loftIndex (u n slot m col : Nat) : Nat := slot * (loftSize u / (1 <<< slotLog n)) + 32 * m + col

/-- Key of a loft entry in `State.loft`. -/
def loftKey (c : CoreId) (u e idx : Nat) : Nat := ((c.val * 9 + u) * 8 + e) * 8192 + idx

def zeroEntry (_ : Nat) : W64 := 0

def State.loftAt (s : State) (k : Nat) : Entry := Entry.ofWord (smGet zeroEntry s.loft k)
def State.setLoft (s : State) (k : Nat) (x : Entry) : State := { s with loft := smSet zeroEntry s.loft k x.toWord }

/-- Page and registers of a unit's loft: engine group or sparse engines (R118). -/
def unitPage (c : CoreId) (u : Nat) : Page := if h : u < 8 then .eg c ⟨u, h⟩ else .se c

/-- Set bits of SLOT_SAT. -/
def State.slotSat (s : State) (c : CoreId) (u slot : Nat) : Bool := bit (s.pg (unitPage c u) SLOT_SAT) slot
def State.setSlotSat (s : State) (c : CoreId) (u slot : Nat) (on : Bool) : State :=
  s.setField (unitPage c u) SLOT_SAT slot 1 (bn on)

/-- Every entry of a core's lofts back to (+0, +0) (R132). -/
def State.clearLoft (s : State) (c : CoreId) : State :=
  { s with loft := s.loft.filter fun p => p.1 / (9 * 8 * 8192) != c.val }

/-! ## Table sets (R42 to R48) -/

/-- The value that a table read delivers for a weight of the tile, by slice (R42). -/
def sliceVal (w : Nat) (sl : Slice) (code : Nat) : Int :=
  match sl with
  | .whole => weightVal w code
  | .low => ((code % 256 : Nat) : Int)
  | .high => signed (w - 8) (code / 256)

/-- Package address of the tile of engine e of a TBUILD (R199). -/
def tileAddr (c : CoreId) (src stride e : Nat) : Nat := stoBase c + 64 * (src + e * stride)

/-- The columns of one tile as table weights. -/
def tableCols (m : Mem) (a w : Nat) (sl : Slice) : List (List Int) × List Byte :=
  let h := m.tileHdr a
  let t := m.tileBody a w h
  ((List.range 32).map fun n => (List.range 128).map fun k => sliceVal w sl (t.code w k n), h.ew)

/-- A sweep builds a table set from eight tiles (R45). -/
def buildTable (m : Mem) (c : CoreId) (src stride w : Nat) (sl : Slice) : TableSet :=
  let ts := (List.range 8).map fun e => tableCols m (tileAddr c src stride e) w sl
  { width := w, slice := sl, w := ts.map (·.1), ew := ts.map (·.2) }

/-- Column n of engine e of a table set. -/
def TableSet.col (t : TableSet) (e n : Nat) : List Int := (t.w.getD e []).getD n []

/-- Exponent of weight group g of column n of engine e (R81). -/
def ewAt (ew : List Byte) (g n : Nat) : Nat := (ew.getD (32 * g + n) 0).toNat

/-! ## Slot sets (R139 to R149) -/

/-- Slots of one engine from its tile: the first 64 of each column, or one per dense weight (R142, R146). A record of a W1 tile whose
bits are all zero is decoded like any other, as two weights of -1 on element 0 (R79, R133), where R136 says that a record of zeros carries
zero weights: DESIGN CHOICE, log entry 37. -/
def buildSlots (m : Mem) (a w : Nat) : EngSlots × Nat :=
  let h := m.tileHdr a
  let cols := match m.tileBody a w h with
    | .dense cs => (List.range 32).map fun n => (List.range 128).map fun j =>
        ({ grp := j / 4, ia := j % 4, ib := j % 4, va := weightVal w (cs.getD (tileIndex j n) 0), vb := 0 } : Slot)
    | .slots cols => cols.map fun col => col.map fun r =>
        ({ grp := r.grp, ia := r.ia, ib := r.ib, va := weightVal w r.ca, vb := weightVal w r.cb } : Slot)
  ({ dense := h.dense, cols := cols, ew := h.ew }, (h.scount.map fun n => min n 64).foldl max 0)

/-- A TBUILD on unit 8 loads a slot set (R142). -/
def buildSlotSet (m : Mem) (c : CoreId) (src stride w : Nat) : SlotSet :=
  let es := (List.range 8).map fun e => buildSlots m (tileAddr c src stride e) w
  { width := w, s := (es.map (·.2)).foldl max 0, eng := es.map (·.1) }

/-- What a stored weight value contributes in a pass of an STILE (R143). -/
def passVal (recorded passes pass : Nat) (v : Int) : Int :=
  if passes = 1 then (if recorded ≤ 8 then v else v % 256)
  else if pass = 0 then v % 256
  else v / 256

/-- The partial of one tap of one column of a slot set: elements k0 to k0 + G - 1 (R133, R140, R149). -/
def slotPartial (val : Int → Int) (col : List Slot) (qs : List Int) (z k0 g : Nat) : Int :=
  (col.map fun t =>
    if t.grp < 32 ∧ k0 ≤ 4 * t.grp ∧ 4 * t.grp < k0 + g then
      val t.va * (qs.getD (4 * t.grp + t.ia) 0 - z) + val t.vb * (qs.getD (4 * t.grp + t.ib) 0 - z)
    else 0).sum

/-- Dense-stored tiles of a set; vectors per pass of R139. -/
def SlotSet.dtiles (t : SlotSet) : Nat := (t.eng.filter (·.dense)).length
def vectorsPerPass (s : Nat) : Nat := if s ≤ 16 then 4 else if s ≤ 32 then 2 else 1

/-! ## Cycle counts (R63, R142, R144, R130): functions of the command; no event of the model waits for them (log entry 3) -/

def tileCycles (m b w : Nat) : Nat := m * b * cdiv w 8 + 12
def stileCycles (m b w s : Nat) (dense : Bool) : Nat :=
  cdiv w 8 * (if dense then 2 * m else cdiv m (vectorsPerPass s)) * b + 14
def emptyStepCycles (m : Nat) : Nat := m + 12
def tbuildCycles (w : Nat) : Nat := 64 * w
def tableSetCycles : Nat := 36
def slotBuildCycles (fetch : List Nat) : Nat := 4 + (fetch.map (3 + ·)).sum
def drainRate (dst fused : Option Nat) : Nat :=
  min 128 (min (1024 / dst.getD 8) (1024 / fused.getD 8))
def drainCycles (elems r m j v w : Nat) : Nat := 16 + cdiv elems r + cdiv (m * j) 8 + v * cdiv w 4

/-! ## TILE and STILE (R49 to R62, R140 to R149, R162 to R164) -/

/-- One vector as the planes carry it: 128 codes after substitution; per scale group E8 and zero point. -/
structure Vec where
  codes : List Nat
  groups : List (Nat × Nat)
  deriving DecidableEq, Repr

/-- The activation operand of a TILE or STILE (R200). -/
def tileOperand (c : CoreId) (f : Fmt) (act metaL g kun : Nat) : ActOp :=
  { code := stoBase c + 64 * act, metaA := stoBase c + 64 * metaL, crate := none, fmt := f, g := g, k := kun * 128 }

/-- Vector v of reduction step t (R200), with the escape substitution of R49. -/
def tileVec (m : Mem) (o : ActOp) (v t : Nat) : Vec :=
  let taps := 128 / o.g
  let gr := (List.range taps).map fun i => let (e, zp) := m.metaWord o v (t * taps + i); (e, zeroPoint o.fmt zp)
  let cs := m.codes o v (128 * t) 128
  { codes := cs.zipIdx.map fun (q, i) => substEscape o.fmt (gr.getD (i / o.g) (0, 0)).2 q, groups := gr }

/-- The exponent of a pair: E_a - 127 + E_w - 127, plus 8 in pass 1 (R58). -/
def pairExp (ea ew pass : Nat) : Int := (ea : Int) - 127 + ((ew : Int) - 127) + 8 * (pass : Int)

/-- The pairs that one pass delivers to column n of engine e for one vector, in ascending g (R61). -/
def tablePairs (t : TableSet) (f : Fmt) (g pass : Nat) (v : Vec) (e n : Nat) : List Pair :=
  let qs := v.codes.map (codeVal f)
  let ws := t.col e n
  v.groups.zipIdx.map fun ((ea, z), i) =>
    pairOf (partialOf ((ws.drop (i * g)).take g) ((qs.drop (i * g)).take g) z)
      (pairExp ea (ewAt (t.ew.getD e []) i n) pass)

def slotPairs (t : SlotSet) (f : Fmt) (g passes pass : Nat) (v : Vec) (e n : Nat) : List Pair :=
  let qs := v.codes.map (codeVal f)
  let es := t.eng.getD e { dense := false, cols := [], ew := [] }
  v.groups.zipIdx.map fun ((ea, z), i) =>
    pairOf (slotPartial (passVal t.width passes pass) (es.cols.getD n []) qs z (i * g) g)
      (pairExp ea (ewAt es.ew i n) pass)

/-- Engines active under a run-time N (R163). -/
def activeEngines (n : Nat) : List Nat := (List.range 8).filter fun e => 32 * e < n

/-- Deliver pairs into a slot: every engine listed, every vector and column (R61, R163). `pairs e m n` lists an entry's pairs in
order; the flag tells that one saturated. -/
def State.deliverPairs (s : State) (c : CoreId) (u cnt slot : Nat) (engines : List Nat) (vecs : List Vec) (ovr : Bool)
    (pairs : Nat → Vec → Nat → List Pair) : State × Bool :=
  engines.foldl (fun a e =>
    vecs.zipIdx.foldl (fun a (v, m) =>
      (List.range 32).foldl (fun (s, sat) n =>
        let k := loftKey c u e (loftIndex u cnt slot m n)
        let (x, o) := Entry.takeAll ovr (s.loftAt k) false (pairs e v n)
        (s.setLoft k x, sat || o)) a) a) (s, false)

/-- Every entry of M vectors of some engines set to one value (R162, R257). -/
def State.fillEntries (s : State) (c : CoreId) (u cnt slot : Nat) (engines : List Nat) (m : Nat) (x : Entry) : State :=
  engines.foldl (fun s e =>
    forRange m (fun v s => forRange 32 (fun n s => s.setLoft (loftKey c u e (loftIndex u cnt slot v n)) x) s) s) s

end Sys2Proof.Machine
end

