-- ==== Sys2Proof/Machine/Finish.lean ====
section
/-! DEFINITION. What the finishing unit and the quantising DMA store path compute and write (04, 05, 09). -/

namespace Sys2Proof
namespace Machine

/-! ## The output descriptor (R203, R228) -/

/-- A P42 address: bits [47:6] in a word and bits [9:0] of the next (R196). -/
def p42 (lo hi : W32) : Nat := 64 * (lo.toNat + 0x1_0000_0000 * bits hi 0 10)

def blkOf (v : Nat) : Nat := 16 <<< v

end Machine
open Machine

def Desc.dst (d : Desc) : Nat := p42 d[0] d[1]
def Desc.dfmt (d : Desc) : Fmt := (fmtOf (bits d[1] 16 6)).getD .fp32
def Desc.tag (d : Desc) : Nat := bits d[1] 25 6
def Desc.metaA (d : Desc) : Nat := p42 d[2] d[3]
def Desc.crtA (d : Desc) : Nat := p42 d[4] d[5]
def Desc.rowlen (d : Desc) : Nat := bits d[6] 0 16
def Desc.len (d : Desc) : Nat := d.rowlen * 128
def Desc.quant (d : Desc) : Quant :=
  { fmt := d.dfmt, blk := blkOf (bits d[1] 22 2), zp := bits d[3] 10 8, ecap := bits d[3] 18 8, crt := bit d[1] 24 }

namespace Machine

/-! ## Writing rows of a result tensor -/

/-- A run of one destination row: row, first column, values, how many zeros fill its last block after them (R163), and which
values come from a poisoned word; an unlisted one is clean. -/
structure OutRow where
  row : Nat
  col : Nat
  vals : List W32
  pad : Nat
  bad : List Bool
  deriving DecidableEq, Repr

/-- Some value of the row comes from a poisoned word. -/
def OutRow.poison (r : OutRow) : Bool := r.bad.any id

/-- What a command writes: byte runs by area, clips, excess outliers, first overflowed crate section. -/
structure OutSet where
  segs : List OutSeg
  clips : Nat
  excess : Nat
  first : Option Nat
  deriving DecidableEq, Repr

def mkSeg (a : Nat) (p : Bool) (l : List Byte) : OutSeg := { addr := a, data := l.map fun b => (b, p) }

/-- Join runs that follow one another. -/
def joinSegs : List OutSeg → List OutSeg
  | [] => []
  | a :: r =>
    match joinSegs r with
    | b :: t => if a.addr + a.data.length = b.addr then { addr := a.addr, data := a.data ++ b.data } :: t else a :: b :: t
    | [] => [a]

/-- A float destination (R203, R91). -/
def floatRows (d : Desc) (rows : List OutRow) : OutSet :=
  let size := d.dfmt.bits / 8
  let one (x : W32) : List Byte × Bool :=
    match d.dfmt with
    | .bf16 => let (h, cl) := fToBf x; (toLe 2 h.toNat, cl)
    | _ => (toLe 4 (if fIsNan x then fnan else x).toNat, false)
  { segs := joinSegs (rows.map fun r =>
      mkSeg (d.dst + (r.row * d.len + r.col) * size) r.poison (r.vals.flatMap fun x => (one x).1)),
    clips := (rows.map fun r => (r.vals.filter fun x => (one x).2).length).sum, excess := 0, first := none }

/-- A block-integer destination: codes, metadata words and crate sections (R93 to R103, R163). -/
def blockRows (d : Desc) (rows : List OutRow) : OutSet :=
  let q := d.quant
  let secs := rows.flatMap fun r => (inChunks 128 (r.vals ++ List.replicate r.pad 0)).zipIdx.map fun (xs, j) =>
    (r, r.row * d.len + r.col + 128 * j, quantBlocks q (r.vals.length - 128 * j) xs)
  let b := q.fmt.bits
  let codes := secs.map fun (r, i, _, o) => mkSeg (d.dst + i * b / 8) r.poison (toLe (o.codes.length * b / 8) (packCodes b o.codes))
  let zp := match q.fmt with
    | .bu _ => q.zp
    | _ => 0
  let metas := secs.map fun (r, i, es, _) =>
    mkSeg (d.metaA + 2 * (i / q.blk)) r.poison (es.flatMap fun e => toLe 2 (e + 256 * zp))
  let crates := if q.crt then secs.map fun (r, i, _, o) => mkSeg (d.crtA + 16 * (i / 128)) r.poison (crateBytes o.slots) else []
  { segs := joinSegs codes ++ joinSegs metas ++ joinSegs crates,
    clips := (secs.map fun (_, _, _, o) => o.clips).sum, excess := (secs.map fun (_, _, _, o) => o.excess).sum,
    first := (secs.find? fun (_, _, _, o) => o.excess != 0).map fun (_, i, _, _) => d.crtA + 16 * (i / 128) }

/-- Value and poison of destination element i; an element that the command does not write is an exact zero (R480). -/
def elemAt (l : Nat) (rows : List OutRow) (i : Nat) : W32 × Bool :=
  match rows.find? fun r => decide (r.row * l + r.col ≤ i ∧ i < r.row * l + r.col + r.vals.length) with
  | some r => (r.vals.getD (i - (r.row * l + r.col)) 0, r.bad.getD (i - (r.row * l + r.col)) false)
  | none => (0, false)

/-- The tiles that a set of rows touches, ascending. -/
def touchedTiles (l : Nat) (rows : List OutRow) : List Nat :=
  rows.foldl (fun a r =>
    if r.vals.isEmpty then a
    else
      let i := r.row * l + r.col
      forRange ((i + r.vals.length - 1) / 4096 - i / 4096 + 1) (fun k a => nsIns (i / 4096 + k) a) a) []

/-- A W destination: whole weight tiles (R480), dense or through the compressor (R137). -/
def tileRows (d : Desc) (cmp : Bool) (rows : List OutRow) : OutSet :=
  let q := d.quant
  let w := q.fmt.bits
  let gsize := if q.blk = 32 then 0 else if q.blk = 64 then 1 else 2
  let ts := (touchedTiles d.len rows).map fun t =>
    let vals := (List.range 4096).map fun x => elemAt d.len rows (4096 * t + x)
    let (ew, codes, clips) := quantTile q (vals.map (·.1))
    let bytes := if cmp then compressTile w gsize ew codes else hdrBytes w gsize true (8 * w) [] ew ++ denseBody w codes
    (mkSeg (d.dst + t * (192 + 512 * w)) (vals.any (·.2)) bytes, clips)
  { segs := ts.map (·.1), clips := (ts.map (·.2)).sum, excess := 0, first := none }

/-- Rows to a destination of any format. -/
def outRows (d : Desc) (cmp : Bool) (rows : List OutRow) : OutSet :=
  match d.dfmt with
  | .fp32 | .bf16 => floatRows d rows
  | .bs _ | .bu _ => blockRows d rows
  | .w _ => tileRows d cmp rows

/-! ## DRAIN (R124 to R128) -/

/-- An entry while crate terms are added: `ieee` once a term was not finite (R126). -/
structure CrateAcc where
  x : Entry
  ieee : Bool
  deriving DecidableEq, Repr

/-- One crate product a × weight × 2^(ew - 127), rounded once (R126). -/
def crateProduct (a : W32) (wv : Int) (ew : Nat) : W32 :=
  match fv a with
  | .nan => fnan
  | .inf n => if wv = 0 then fnan else finf (n != decide (wv < 0))
  | .fin n d => fround ((d.mul (Dy.ofInt wv)).mul { m := 1, e := (ew : Int) - 127 }) (n != decide (wv < 0))

/-- Add one crate product to an entry: R119 with IEEE infinity on overflow (R126). -/
def CrateAcc.add (t : CrateAcc) (p : W32) : CrateAcc :=
  if t.ieee || !fIsFinite p || !fIsFinite t.x.s then { x := { s := fadd t.x.s p, c := 0 }, ieee := true }
  else
    let (s1, e1) := twoSum t.x.s p
    if fIsInf s1 then { x := { s := s1, c := 0 }, ieee := true }
    else
      let (s2, e2) := twoSum s1 (fadd (fadd t.x.c 0) e1)
      if fIsInf s2 then { x := { s := s2, c := 0 }, ieee := true } else { x := { s := s2, c := e2 }, ieee := false }

/-- What a value-form DRAIN reads and how it finishes an element; all addresses are package addresses. -/
structure DrainOp where
  core : CoreId
  unit : Nat
  slot : Nat
  cnt : Nat
  m : Nat
  n : Nat
  n0 : Nat
  m0 : Nat
  crate : Nat
  j : Nat
  wts : Nat
  wstr : Nat
  w : Nat
  g : Nat
  fop : Nat
  desc : Desc
  deriving DecidableEq, Repr

/-- The valid crate slots of vector v: position k = 128 j + index, value (R126). -/
def drainSlots (mem : Mem) (o : DrainOp) (v : Nat) : List (Nat × Nat × W32) :=
  (List.range o.j).flatMap fun j => (mem.crateSlots (o.crate + 16 * (v * o.j + j))).map fun (i, a) => (j, i, a)

/-- The tile of engine e for block j: header and body. -/
def drainTile (mem : Mem) (o : DrainOp) (j e : Nat) : TileHdr × TileBody :=
  let a := o.wts + (8 * j + e) * o.wstr
  let h := mem.tileHdr a
  (h, mem.tileBody a o.w h)

/-- Row v of the fused operand as fp32, elements 128 j to 128 j + 127 (R91, R203). -/
def fusedBlock (mem : Mem) (o : DrainOp) (v j : Nat) : List W32 :=
  let d := o.desc
  let base := stoBase o.core
  let k := bits d[9] 0 16 * 128
  let a := base + 64 * bits d[8] 0 21
  let ffmt := (fmtOf (bits d[8] 21 6)).getD .fp32
  let crate := if bit d[10] 23 then some (base + 64 * bits d[11] 0 21) else none
  let op : ActOp :=
    { code := a, metaA := base + 64 * bits d[10] 0 21, crate := crate, fmt := ffmt, g := blkOf (bits d[10] 21 2), k := k }
  if ffmt.isBlock then mem.blockToF op v j
  else if ffmt = .bf16 then
    (List.range 128).map fun i => bfToF (BitVec.ofNat 16 (mem.le (a + 2 * (v * k + 128 * j + i)) 2))
  else (List.range 128).map fun i => w32 (mem.le (a + 4 * (v * k + 128 * j + i)) 4)

/-- Steps 2 and 3 of R125: the crate terms and the one rounding of s + c. -/
def drainValue (x : Entry) (terms : List W32) : W32 :=
  let t := terms.foldl CrateAcc.add { x := x, ieee := false }
  fadd t.x.s t.x.c

/-- Steps 4 and 5 of R125. -/
def drainFinish (rescale : Option (W32 × W32)) (fop : Nat) (v x : W32) : W32 :=
  let v := match rescale with
    | some (a, b) => ffma v a b
    | none => v
  if fop = 1 then fadd v x else if fop = 2 then fmul v x else v

/-- The rows that a value-form DRAIN writes (R125, R163): whole blocks of B for block-integer destinations. -/
def drainRows (s : State) (o : DrainOp) : List OutRow :=
  let d := o.desc
  let base := stoBase o.core
  let pad := if d.dfmt.isBlock then cdiv o.n d.quant.blk * d.quant.blk - o.n else 0
  let tiles := (List.range o.j).map fun j => (List.range (cdiv o.n 32)).map fun e => drainTile s.mem o j e
  (List.range o.m).map fun v =>
    let slots := drainSlots s.mem o v
    let fused := if o.fop = 0 then [] else
      (List.range (cdiv o.n 128)).flatMap fun j => fusedBlock s.mem o (o.m0 + v) (o.n0 + j)
    let vals := (List.range o.n).map fun ch =>
      let e := ch / 32
      let col := ch % 32
      let x := s.loftAt (loftKey o.core o.unit e (loftIndex o.unit o.cnt o.slot v col))
      let terms := slots.map fun (j, i, a) =>
        match (tiles.getD j [])[e]? with
        | some (h, t) => crateProduct a (t.value o.w i col) (ewAt h.ew (i / o.g) col)
        | none => 0
      let resc := if bit d[7] 21 then none else
        let a := base + 64 * bits d[7] 0 21 + 8 * (o.n0 * 128 + ch)
        some (w32 (s.mem.le a 4), w32 (s.mem.le (a + 4) 4))
      drainFinish resc o.fop (drainValue x terms) (fused.getD ch 0)
    { row := o.m0 + v, col := o.n0 * 128, vals := vals, pad := pad, bad := [] }

/-- The bytes that a pair-form DRAIN writes (R127). -/
def drainPairs (s : State) (o : DrainOp) : List OutSeg :=
  [mkSeg o.desc.dst false ((List.range 8).flatMap fun e => (List.range o.m).flatMap fun v => (List.range 32).flatMap fun col =>
    toLe 8 (s.loftAt (loftKey o.core o.unit e (loftIndex o.unit o.cnt o.slot v col))).toWord.toNat)]

/-- A restored pair: infinities and NaNs replaced, and whether that happened (R127). R127 speaks of one restored word; a NaN in
either word comes before an infinity in the other, and an infinite c alone makes the entry ±max finite of c's sign: DESIGN
CHOICE, log entry 37. -/
def restorePair (x : Entry) : Entry × Bool :=
  if fIsNan x.s || fIsNan x.c then ({ s := 0, c := 0 }, true)
  else if fIsInf x.s then ({ s := fmax (bit x.s 31), c := 0 }, true)
  else if fIsInf x.c then ({ s := fmax (bit x.c 31), c := 0 }, true)
  else (x, false)

/-- A restore-form DRAIN loads the slot; the flag sets SLOT_SAT (R127). -/
def drainRestore (s : State) (o : DrainOp) (add : Bool) : State × Bool :=
  (List.range 8).foldl (fun a e => (List.range o.m).foldl (fun a v => (List.range 32).foldl (fun (s, sat) col =>
    let k := loftKey o.core o.unit e (loftIndex o.unit o.cnt o.slot v col)
    let w := s.mem.le (o.desc.dst + 256 * o.m * e + 8 * (32 * v + col)) 8
    let (x, r) := restorePair (Entry.ofWord (BitVec.ofNat 64 w))
    if add then
      let (y, ov) := (s.loftAt k).take x.s x.c
      (s.setLoft k y, sat || r || ov)
    else (s.setLoft k x, sat || r)) a) a) (s, false)

/-! ## FIN (R226 to R232) -/

/-- How an operand of FIN lies in the storeroom (R227, R229). -/
inductive FinSrc where
  | rows (a : Nat) (f : Fmt) (g : Nat) (crt : Bool)
  | strided (a : Nat) (f : Fmt) (tr : Bool) (srs ses : Nat)
  deriving DecidableEq, Repr

/-- Up to the next multiple of 64. -/
def up64 (n : Nat) : Nat := cdiv n 64 * 64

/-- A block-integer operand packed as R227 gives, of R rows of L elements. -/
def finActOp (a : Nat) (f : Fmt) (g : Nat) (crt : Bool) (r l : Nat) : ActOp :=
  let m := a + up64 (r * l * f.bits / 8)
  { code := a, metaA := m, crate := if crt then some (m + up64 (2 * (r * l / g))) else none, fmt := f, g := g, k := l }

/-- One float element in memory. -/
def Mem.floatAt (m : Mem) (f : Fmt) (a : Nat) : W32 :=
  match f with
  | .bf16 => bfToF (BitVec.ofNat 16 (m.le a 2))
  | _ => w32 (m.le a 4)

/-- Row r of an operand of R rows of L elements, converted to fp32. -/
def finRow (mem : Mem) (src : FinSrc) (rn l r : Nat) : List W32 :=
  match src with
  | .rows a f g crt =>
    if f.isBlock then (List.range (l / 128)).flatMap fun j => mem.blockToF (finActOp a f g crt rn l) r j
    else (List.range l).map fun c => mem.floatAt f (a + (r * l + c) * (f.bits / 8))
  | .strided a f tr srs ses =>
    (List.range l).map fun c => mem.floatAt f (if tr then a + c * srs + r * ses else a + r * srs + c * ses)

/-- Element-wise operations (R230). -/
def finElem (op : Nat) (p0 p1 x b : W32) : W32 :=
  if op = 0x00 then x
  else if op = 0x01 then fadd x b
  else if op = 0x02 then fmul x b
  else if op = 0x03 then ffma x p0 p1
  else if op = 0x04 then fmaxOf x b
  else if op = 0x05 then fminOf x b
  else if op = 0x08 then (if fIsNan x then fnan else if flt 0 x then x else 0)
  else if op = 0x09 then
    let u := fmul x x
    let z := fmul 0x3F4C_422A (ffma 0x3D37_2713 (fmul u x) x)
    fmul (fmul 0x3F00_0000 x) (fadd fone (ftnh z))
  else if op = 0x0A then fmul x (fsig x)
  else if op = 0x0B then fsig x
  else if op = 0x0C then ftnh x
  else if op = 0x0D then fexp (fmul p0 x)
  else fmul (fmul x (fsig x)) b

/-- A natural number as fp32. -/
def fOfNat (n : Nat) : W32 := fround { m := n, e := 0 } false

/-- One row of a row operation (R231): the destination row, and the record's new bytes with their offset in it. `gain`: rows of
B; `rec`: the record's words. -/
def finRowOp (op : Nat) (p0 p1 : W32) (x : List W32) (gain bias : List W32) (rc : List W32) : List W32 × Nat × List W32 :=
  let l := x.length
  let zeros := x.map fun _ => (0 : W32)
  let ninf := finf true
  if op = 0x20 then
    let s := x.map (fmul p0)
    let m := rowmax s
    let e := s.map fun v => fexp (fsub v m)
    let sg := rowsum e
    (if m = ninf then zeros else e.map fun v => fdiv v sg, 0, [])
  else if op = 0x21 then
    let q := fdiv (rowsum (x.map fun v => fmul v v)) (fOfNat l)
    let k := frsq (fadd q p0)
    (x.zipWith (fun v g => fmul (fmul v k) g) gain, 0, [])
  else if op = 0x22 then
    let mu := fdiv (rowsum x) (fOfNat l)
    let d := x.map fun v => fsub v mu
    let v := fdiv (rowsum (d.map fun v => fmul v v)) (fOfNat l)
    let k := frsq (fadd v p0)
    ((d.zip (gain.zip bias)).map fun (dc, g, b) => ffma (fmul dc k) g b, 0, [])
  else if op = 0x23 then
    let t := (rc.getD 0 0).toNat
    let s := x.map (fmul p0)
    let m := rowmax s
    let e := s.map fun v => fexp (fsub v m)
    let sg := rowsum e
    if l ≤ t ∨ m = ninf then (zeros, 4, [0])
    else
      (e.zipIdx.map fun (v, c) => fmul p1 (fsub (fdiv v sg) (if c = t then fone else 0)), 4,
        [fadd (fsub m (s.getD t 0)) (flog sg)])
  else
    let m0 := rc.getD 0 0
    let l0 := rc.getD 1 0
    let s := x.map (fmul p0)
    let m1 := fmaxOf m0 (rowmax s)
    let y := if m1 = ninf then zeros else s.map fun v => fexp (fsub v m1)
    let al := if m1 = ninf then fone else fexp (fsub m0 m1)
    (y, 0, [m1, ffma l0 al (rowsum y), al, 0])

/-! ## OPT (R234 to R243) -/

/-- The unit of a remainder, as an exponent (R234). -/
def remUnit (w : W16) (neg : Bool) : Int :=
  let e := w.toNat / 128 % 256
  let ee : Int := if e = 0 then 1 else e
  if w.toNat % 128 = 0 ∧ 2 ≤ ee ∧ neg then ee - 151 else ee - 150

/-- The master value of a weight and its remainder (R234). -/
def optDecode (w rho : W16) : W32 :=
  let f := bfToF w
  if !fIsFinite f then f
  else
    let r := signed 16 rho.toNat
    let mag := (fdy f).abs.add { m := r, e := remUnit w (decide (r < 0)) }
    let neg := bit f 31
    fround (if neg then mag.neg else mag) neg

/-- Split a finite master value (R235). -/
def optSplit (v : W32) : W16 × W16 :=
  let u := v.toNat % 0x8000_0000
  let w : W16 := BitVec.ofNat 16 ((u + 0x8000) / 0x1_0000 + (if bit v 31 then 0x8000 else 0))
  let diff := (fdy v).abs.sub (fdy (bfToF w)).abs
  let ue := remUnit w (decide (diff.m < 0))
  let q := ({ diff with e := diff.e - ue } : Dy).round
  (w, BitVec.ofNat 16 (wrapN 16 q))

/-- The parameter block of R236. -/
structure OptPar where
  alg : Nat
  tinc : Bool
  macc : Bool
  mchk : Bool
  lr : W32
  b1 : W32
  omb1 : W32
  b2 : W32
  omb2 : W32
  eps : W32
  wd : W32
  gs : W32
  p1 : W32
  p2 : W32
  lo : W32
  hi : W32
  deriving DecidableEq, Repr

def Mem.optPar (m : Mem) (a : Nat) : OptPar :=
  let b := (m.byte a).toNat
  let f (i : Nat) : W32 := w32 (m.le (a + i) 4)
  { alg := b % 2, tinc := b.testBit 1, macc := b.testBit 2, mchk := b.testBit 3, lr := f 4, b1 := f 8, omb1 := f 12, b2 := f 16,
    omb2 := f 20, eps := f 24, wd := f 28, gs := f 32, p1 := f 36, p2 := f 40, lo := f 44, hi := f 48 }

/-- The block after the advance of p1 and p2 (R237). -/
def OptPar.advance (p : OptPar) : OptPar :=
  if p.alg = 0 ∧ p.tinc then { p with p1 := fmul p.p1 p.b1, p2 := fmul p.p2 p.b2 } else p

/-- What OPT makes of one element: new weight, remainder, m, v; the value for a quantised copy; D and M for the sums; whether
it was skipped or clamped (R237, R238). -/
structure OptOut where
  w : W16
  rho : W16
  m : W32
  v : W32
  copy : W32
  dd : W32
  mm : W32
  skip : Bool
  clip : Bool
  deriving DecidableEq, Repr

/-- One element of OPT. -/
def optElem (p : OptPar) (w rho : W16) (grad m0 v0 : W32) : OptOut :=
  let mm := optDecode w rho
  let g := fmul p.gs grad
  let m1 := if p.alg = 0 then ffma p.b1 m0 (fmul p.omb1 g) else ffma p.b1 m0 g
  let v1 := if p.alg = 0 then ffma p.b2 v0 (fmul p.omb2 (fmul g g)) else v0
  let c1 := fdiv fone (fsub fone p.p1)
  let c2 := fdiv fone (fsub fone p.p2)
  let d := if p.alg = 0 then fdiv (fmul m1 c1) (fadd (fsqrt (fmul v1 c2)) p.eps) else m1
  let dd := fmul (fneg p.lr) (ffma p.wd mm d)
  let mn := fadd mm dd
  let fin := fIsFinite g && fIsFinite m1 && (p.alg != 0 || fIsFinite v1) && fIsFinite d && fIsFinite dd && fIsFinite mn
  if !fin then { w := w, rho := rho, m := m0, v := v0, copy := mm, dd := 0, mm := 0, skip := true, clip := false }
  else if 0x7F7F_8000 ≤ mn.toNat % 0x8000_0000 then
    { w := if bit mn 31 then 0xFF7F else 0x7F7F, rho := 0x7FFF, m := m1, v := v1, copy := mn, dd := dd, mm := mm, skip := false,
      clip := true }
  else
    let (w1, r1) := optSplit mn
    { w := w1, rho := r1, m := m1, v := v1, copy := mn, dd := dd, mm := mm, skip := false, clip := false }

/-- The ratio of a monitor: sqrt(USQ / WSQ), with 0 / 0 taken as +0 (R241, R242). -/
def monRatio (usq wsq : W32) : W32 :=
  if feq usq 0 && feq wsq 0 then 0 else fsqrt (fdiv usq wsq)

/-- A ratio outside the window, or NaN (R242). -/
def ratioOut (r lo hi : W32) : Bool := fIsNan r || flt r lo || flt hi r

end Machine
end Sys2Proof
end

