-- ==== Sys2Proof/Machine/Skip.lean ====
section
/-! DEFINITION. Far-position skipping: key block summaries, the predictor, the verdict, the skip record (10). -/

namespace Sys2Proof.Machine
open Sys2Proof

/-! ## Summaries (R248, R249) -/

/-- Ceiling and floor of an exact value. -/
def Dy.floor (a : Dy) : Int := if 0 ≤ a.e then a.at 0 else a.m / ((1 <<< (-a.e).toNat : Nat) : Int)
def Dy.ceil (a : Dy) : Int := -(a.neg.floor)

/-- The record of key block `b` (0: engines 0 to 3, 1: engines 4 to 7) from its four tiles: code values by engine, column and
dimension, and the tiles' exponents (R249). -/
def summaryOf (w kgs : Nat) (cols : List (List (List Int))) (ews : List (List Byte)) : List Byte :=
  if 8 < w ∨ kgs = 3 then List.replicate 384 0
  else
    let g := 32 <<< kgs
    let ke := (ews.flatMap fun ew => (List.range (128 / g * 32)).map fun i => (ew.getD i 0).toNat).foldl max 0
    let vals (i : Nat) : List Dy :=
      (cols.zip ews).flatMap fun (cs, ew) => cs.zipIdx.map fun (col, n) =>
        { m := col.getD i 0, e := (ewAt ew (i / g) n : Int) - ke }
    let hi (i : Nat) : Int := match (vals i).map Dy.ceil with
      | [] => 0
      | a :: r => r.foldl max a
    let lo (i : Nat) : Int := match (vals i).map Dy.floor with
      | [] => 0
      | a :: r => r.foldl min a
    let f (v : Int) : Byte := BitVec.ofNat 8 (wrapN 8 v)
    takePad 0 384 ((List.range 128).map (fun i => f (hi i)) ++ (List.range 128).map (fun i => f (lo i)) ++
      [BitVec.ofNat 8 ke, 1])

/-- Both records of a key pair, as a TBUILD captures them (R248, R249). -/
def capturePair (m : Mem) (c : CoreId) (src stride w kgs : Nat) : List Byte :=
  let t := buildTable m c src stride w .whole
  let half (b : Nat) := summaryOf w kgs ((t.w.drop (4 * b)).take 4) ((t.ew.drop (4 * b)).take 4)
  half 0 ++ half 1

/-! ## Verdicts (R255, R256) -/

/-- A summary as read. -/
structure Summary where
  kmax : List Int
  kmin : List Int
  ke : Nat
  valid : Bool
  deriving DecidableEq, Repr

def Mem.summary (m : Mem) (a : Nat) : Summary :=
  { kmax := (List.range 128).map fun i => signed 8 (m.byte (a + i)).toNat,
    kmin := (List.range 128).map fun i => signed 8 (m.byte (a + 128 + i)).toNat,
    ke := (m.byte (a + 256)).toNat, valid := (m.byte (a + 257)).getLsbD 0 }

/-- h(x, i) of R255. -/
def boundTerm (s : Summary) (x : Dy) (i : Nat) : Dy :=
  x.mul (Dy.ofInt (if 0 ≤ x.m then s.kmax.getD i 0 else s.kmin.getD i 0))

def dyZero : Dy := { m := 0, e := 0 }

/-- B_r of R255; none when a crate value is not finite. -/
def boundSum (f : Fmt) (g : Nat) (s : Summary) (v : Vec) (slots : List (Nat × W32)) : Option Dy :=
  let ke : Int := (s.ke : Int) - 127
  let planes := v.codes.zipIdx.foldl (fun (a : Dy) (q, i) =>
    let ea := (v.groups.getD (i / g) (0, 0)).1
    let t := boundTerm s (Dy.ofInt (codeVal f q)) i
    a.add { t with e := t.e + ((ea : Int) - 127) + ke }) dyZero
  if slots.any fun p => !fIsFinite p.2 then none
  else
    some (slots.foldl (fun (a : Dy) (i, x) =>
      let t := boundTerm s (fdy x) i
      a.add { t with e := t.e + ke }) planes)

/-- P_r of R255: rounded up through the drain format, scaled, rounded up in fp32. -/
def boundP (bf : Bool) (sigma : W32) (b : Option Dy) : W32 :=
  match b with
  | none => finf false
  | some b =>
    let d := if bf then fceilBf b else fceil b
    if !fIsFinite sigma || !fIsFinite d then fmul sigma d else fceil ((fdy sigma).mul (fdy d))

/-- A row permits the skip: m_r ≥ -2^64 and P_r < m_r - T, in real arithmetic (R256). -/
def rowSkips (mr p t : W32) : Bool :=
  fIsFinite t &&
    (match fv mr, fv p with
     | .inf false, .inf n => n
     | .inf false, .fin _ _ => true
     | .fin _ a, .inf n => n && ({ m := -1, e := 64 } : Dy).le a
     | .fin _ a, .fin _ d => ({ m := -1, e := 64 } : Dy).le a && d.lt (a.sub (fdy t))
     | _, _ => false)

/-- σ lies in [2^-32, 2^32]. -/
def sigmaOk (s : W32) : Bool :=
  fIsFinite s && ({ m := 1, e := -32 } : Dy).le (fdy s) && (fdy s).le { m := 1, e := 32 }

/-- T is finite and at least 0. -/
def thresholdOk (t : W32) : Bool := fIsFinite t && decide (0 ≤ (fdy t).m)

/-! ## Modes (R262, R263) -/

def MODE_OFF := 0
def MODE_EXACT := 1
def MODE_NORMAL := 2
def MODE_TABLE := 3

/-- The mode in force. -/
def State.skipMode (s : State) (c : CoreId) : Nat :=
  if bit (s.pg (.fu c) FU_SKIP_OVR) 0 then MODE_EXACT else bits (s.pg (.fu c) FU_SKIP_CTL) 0 2

/-- The T in force. -/
def State.skipT (s : State) (c : CoreId) : W32 :=
  let mode := s.skipMode c
  if mode = MODE_NORMAL then s.pg (.fu c) FU_SKIP_T
  else if mode = MODE_TABLE then
    let sense := s.pg (.fu c) FU_SKIP_SENSE
    w32 (s.mem.le (stoBase c + 64 * bits (s.pg (.fu c) FU_SKIP_TTBL) 0 21 + 4 * (8 * bits sense 0 3 + bits sense 3 3)) 4)
  else 0x7F80_0000

/-- Bands of R263 from °C and mV. -/
def tempBand (t : Int) : Nat := (min 7 (max 0 ((t - 25) / 10))).toNat
def voltBand (mv : Nat) : Nat := min 7 ((mv - 600) / 25)

/-- The power state that a skip record takes (R264): var, thr, mode, tb, vb. -/
structure SkipPower where
  var : Nat
  thr : Bool
  mode : Nat
  tb : Nat
  vb : Nat
  deriving DecidableEq, Repr

/-- The skip record after one evaluation (R254, R264). `old`: its 64 bytes as words. R264 gives no order between tmin and a NaN in
force: tmin then stays, and tlast takes the NaN's pattern. DESIGN CHOICE, log entry 37. -/
def skipRecord (eval skipped : Nat) (tmin : W32) (old16 : Nat) (nEval nSkip : Nat) (t : W32) (p : SkipPower) :
    Nat × Nat × W32 × W32 × Nat :=
  let same := old16 % 4 = p.var ∧ (old16 / 4 % 2 = bn p.thr) ∧ old16 / 32 % 8 = p.tb ∧ old16 / 256 % 8 = p.vb
  let mixed := old16 / 2048 % 2 = 1 ∨ (eval ≠ 0 ∧ ¬ same)
  (sat32 (eval + nEval), sat32 (skipped + nSkip), if flt t tmin then t else tmin, t,
   p.var + 4 * bn p.thr + 8 * p.mode + 32 * p.tb + 256 * p.vb + 2048 * bn (decide mixed))

end Sys2Proof.Machine
end

