-- ==== Sys2Proof/Machine/Sync.lean ====
section
/-! DEFINITION. Sync words, the wait table, signals and the mesh that carries them (01, 12). -/

namespace Sys2Proof.Machine
open Sys2Proof

/-! ## The sync word (R289, R290) -/

structure SyncWord where
  count : Nat
  last : W16
  ovf : Bool
  drift : Bool
  tmo : Bool
  refused : Bool
  top : BitVec 4
  deriving DecidableEq, Repr

def SyncWord.of (d : W64) : SyncWord :=
  { count := d.toNat % 0x1_0000_0000, last := (d >>> 32).setWidth 16, ovf := d.getLsbD 56, drift := d.getLsbD 57,
    tmo := d.getLsbD 58, refused := d.getLsbD 59, top := (d >>> 60).setWidth 4 }

/-- The 64 data bits, with the waiters field given (R289). -/
def SyncWord.data (w : SyncWord) (waiters : Nat) : W64 :=
  BitVec.ofNat 64 (w.count + w.last.toNat <<< 32 + (waiters % 256) <<< 48 + bn w.ovf <<< 56 + bn w.drift <<< 57 +
    bn w.tmo <<< 58 + bn w.refused <<< 59 + w.top.toNat <<< 60)

/-- Global context ID of a context of this package (R291). -/
def gcidOf (c : CoreId) (x : CtxId) : W16 := BitVec.ofNat 16 (4 * c.val + x.val)
/-- Global context ID of this package's link logic, and of the host. -/
def gcidLink (i : PortId) : W16 := BitVec.ofNat 16 (30 * 256 + 4 * i.val)
def gcidHost : W16 := BitVec.ofNat 16 (31 * 256)

/-! ## The wait table (R293) -/

/-- A wait on a word rather than a line. -/
def Wait.onWord (w : Wait) (word : Nat) : Bool := (w.kind == .preWait || w.kind == .wait) && w.word == word

def Wait.onLine (w : Wait) (l : LineId) : Bool := (w.kind == .barrier || w.kind == .rerun) && w.line == l

/-- The waits queued on a word, oldest first. -/
def Core.queueOn (k : Core) (word : Nat) : List Wait := k.waits.filter fun w => w.onWord word

def Core.waitOf (k : Core) (x : CtxId) : Option Wait := k.waits.find? fun w => w.ctx == x

/-- Wait kinds as numbers (R185). -/
def WaitKind.code : WaitKind → Nat
  | .preWait => 1
  | .wait => 2
  | .barrier => 3
  | .rerun => 4

/-- The release loop of R301 over a queue: the waits released in order, and the count left. -/
def releaseScan : List Wait → Nat → List Wait × Nat
  | [], n => ([], n)
  | w :: r, n => if w.n ≤ n then let (l, k) := releaseScan r (n - w.n); (w :: l, k) else ([], n)

/-- A context's logical state: the one under FROZEN while it is FROZEN (R183). -/
def Ctx.cur (x : Ctx) : CtxState := if x.run = .frozen then x.under else x.run

/-- A context takes a state; a FROZEN one takes it as the state it returns to (R183). -/
def Ctx.go (x : Ctx) (st : CtxState) : Ctx := if x.run = .frozen then { x with under := st } else { x with run := st }

/-- Sync operations performed (SYNC_OPS of R321). -/
def State.countSync (s : State) (c : CoreId) : State := s.bump (.sync c) 0 1

/-- Write a sync word back: FE while its count is above zero, waiters from the table, poison unchanged (R290). -/
def State.putSync (s : State) (c : CoreId) (word : Nat) (w : SyncWord) : State :=
  let old := s.stoWordAt c word
  s.setStoWord c word { data := w.data ((s.core c).queueOn word).length, fe := decide (0 < w.count), poison := old.poison }

def State.syncAt (s : State) (c : CoreId) (word : Nat) : SyncWord := SyncWord.of (s.stoWordAt c word).data

/-- Remove waits from the table. -/
def State.dropWaits (s : State) (c : CoreId) (ws : List Wait) : State :=
  s.modCore c fun k => { k with waits := k.waits.filter fun w => !(ws.any fun v => v.ctx == w.ctx) }

/-- A command leaves the list of commands issued and not complete. -/
def State.retire (s : State) (c : CoreId) (uid : Nat) : State :=
  s.modCore c fun k => { k with live := k.live.filter fun e => e.1 != uid }

/-! ## The mesh (R23 to R26, R298) -/

/-- Bay of a core (R18). -/
def bayOf (c : CoreId) : BayId := Fin.ofNat 16 (c.val / 4)

/-- Bay where a die or a tower meets the mesh (R19): a stack, a link port, a cellar port's expansion die. -/
def stackBay (t : StackId) : BayId := if t.val < 4 then Fin.ofNat 16 (4 * t.val) else Fin.ofNat 16 (4 * (t.val - 4) + 3)
def linkBay (i : PortId) : BayId := Fin.ofNat 16 (i.val / 4)
def celBay (p : CelId) : BayId := if p.val < 2 then 12 else 15
/-- Bays of the host die and of the management-and-security die (R19). -/
def hostBay : BayId := 13
def mgtBay : BayId := 14

/-- A flit enters the local input of its source's router (R24). -/
def State.inject (s : State) (src : BayId) (f : MeshFlit) : State :=
  let i := 10 * src.val + 8 + bn f.resp
  { s with mesh := { s.mesh with bufs := vmod s.mesh.bufs (Fin.ofNat 160 i) fun l => l ++ [f] } }

/-- A message whose effect its own row holds enters the mesh as a request; a read's data come back as a response once it has arrived (R24,
log entry 10). -/
def State.carry (s : State) (src dst : BayId) (answered : Bool) : State :=
  s.inject src { resp := false, dst := dst, msg := .carried (if answered then some src else none), waited := 0 }

/-- A signal to a word of another core is posted over the mesh (R307); `job` completes with it. -/
def State.postRemote (s : State) (c : CoreId) (x : CtxId) (t : SigTarget) (n : Nat) (dec : Bool) (job : Option Job) :
    State × Nat :=
  let num := (s.core c).nextPost
  let m : SyncMsg := { word := t.word, n := n, dec := dec, gcid := gcidOf c x, src := c, ctx := x, post := num }
  let s := s.modCore c fun k => { k with nextPost := num + 1, posts := k.posts ++ [{ ctx := x, num := num, job := job }] }
  (s.inject (bayOf c) { resp := false, dst := bayOf t.core, msg := .signal t.core m, waited := 0 }, num)

/-! ## Signals (R296, R300 to R302) -/

/-- A wait is released: its context has left the table, and is READY 4 ac later by WAITER_READY; a WAIT completes and posts its
completion signal through `post` (R300, R302, R186). -/
def State.released (post : State → CtxId → SigTarget → State) (s : State) (c : CoreId) (w : Wait) : State :=
  let s := s.modCtx c w.ctx fun x => { x with hold := .released, pre := x.pre || w.kind == .preWait }
  if w.kind = .wait then
    let s := s.retire c w.job.uid
    match w.job.sig with
    | some t => if (s.core c).fault then s else post s w.ctx t
    | none => s
  else s

/-- The waits that the release loop frees from a word's queue, and the count that is left; the table without them (R301). While
a core fault stands no wait is released (R423). -/
def State.releaseLoop (s : State) (c : CoreId) (word n : Nat) : State × List Wait × Nat :=
  if (s.core c).fault then (s, [], n)
  else
    let (rel, k) := releaseScan ((s.core c).queueOn word) n
    (s.dropWaits c rel, rel, k)

/-- A signal of n on a word of core c (R296). The fuel bounds the chain of completion signals of WAITs that one signal releases:
at most four contexts wait. -/
def State.syncSignal : Nat → State → CoreId → Nat → Nat → W16 → State
  | 0, s, _, _, _, _ => s
  | fuel + 1, s, c, word, n, g =>
    if n = 0 then s
    else
      let old := s.syncAt c word
      let sum := old.count + n
      let (s, rel, k) := s.releaseLoop c word (sat32 sum)
      let s := s.putSync c word { old with count := k, last := g, ovf := old.ovf || decide (0xFFFF_FFFF < sum) }
      let s := (s.countSync c).bump (.sync c) 2 (bn (decide (0xFFFF_FFFF < sum)))
      rel.foldl (fun s w => s.released (fun s x t =>
        if t.core = c then State.syncSignal fuel s c t.word 1 (gcidOf c x) else (s.postRemote c x t 1 false none).1) c w) s

/-- Fuel of a signal: one link of the chain per context, and one more. -/
def SIG_FUEL := 6

/-- The sync unit of core c applies a signal. -/
def State.applySignal (s : State) (c : CoreId) (word n : Nat) (g : W16) : State := State.syncSignal SIG_FUEL s c word n g

/-- A context's signal of n: to its own core at once, to another over the mesh. -/
def State.signal (s : State) (c : CoreId) (x : CtxId) (t : SigTarget) (n : Nat) (job : Option Job) : State :=
  if t.core = c then s.applySignal c t.word n (gcidOf c x) else (s.postRemote c x t n false job).1

/-- Waits that a removal from a word's queue frees: the release loop runs (R301, R306). Where it frees none and no timeout marks
the word, the word stays as it is; the next operation puts its waiters field right (R184, R306). DESIGN CHOICE, unsafe (log 29):
the update counts in SYNC_OPS where it writes the word, and only there; R292 and R321 do not say whether it counts. -/
def State.rerunQueue (s : State) (c : CoreId) (word : Nat) (tmo : Bool) : State :=
  let old := s.syncAt c word
  let (s, rel, k) := s.releaseLoop c word old.count
  if rel.isEmpty && !tmo then s else
  let s := (s.putSync c word { old with count := k, tmo := old.tmo || tmo }).countSync c
  rel.foldl (fun s w => s.released (fun s x t => s.signal c x t 1 none) c w) s

/-- A decrement of m (R297): applied, or refused with the count found. -/
def State.applyDecrement (s : State) (c : CoreId) (word m : Nat) (g : W16) : State × Option Nat :=
  let old := s.syncAt c word
  if m ≤ old.count then ((s.putSync c word { old with count := old.count - m, last := g }).countSync c, none)
  else ((s.putSync c word { old with refused := true }).countSync c, some old.count)

/-- A core's SYNC_PEERS bit (R298). -/
def State.peer (s : State) (c p : CoreId) : Bool :=
  if p.val < 32 then bit (s.pg (.sync c) SYNC_PEERS_LO) p.val else bit (s.pg (.sync c) SYNC_PEERS_HI) (p.val - 32)

/-- SYNC_TOCLASS of a class: none for 0 (R304). -/
def State.timeout (s : State) (c : CoreId) (cl : Fin 8) : Option Nat :=
  let v := (s.pg (.sync c) (SYNC_TOCLASS cl.val)).toNat
  if v = 0 then none else some v

/-- A context enters the wait table as the youngest (R300, R312). -/
def State.enqueueWait (s : State) (c : CoreId) (w : Wait) : State :=
  let s := s.modCore c fun k => { k with waits := k.waits ++ [w] }
  let s := s.modCtx c w.ctx fun x => { (x.go .wait) with hold := .free }
  s.bump (.sync c) 1 1

/-- A wait for n on a word reaches the sync unit (R300): true when it passes. -/
def State.waitWord (s : State) (c : CoreId) (w : Wait) : State × Bool :=
  let old := s.syncAt c w.word
  if ((s.core c).queueOn w.word).isEmpty && decide (w.n ≤ old.count) then
    ((s.putSync c w.word { old with count := old.count - w.n }).countSync c, true)
  else
    let s := s.enqueueWait c w
    ((s.putSync c w.word old).countSync c, false)

/-! ## Rafters (R311 to R315) -/

def State.rafMask (s : State) (l : LineId) : Nat := s.pg64 .pkg (RAF_MASK l.val)
def State.rafArr (s : State) (l : LineId) : Nat := s.pg64 .pkg (RAF_ARR l.val)

def State.setArr (s : State) (l : LineId) (v : Nat) : State := s.setPg64 .pkg (RAF_ARR l.val) v

/-- Set or clear the arrive bit of a core. -/
def State.arrive (s : State) (l : LineId) (c : CoreId) (on : Bool) : State :=
  let v := s.rafArr l
  if v.testBit c.val = on then s
  else if on then s.setArr l (v + 1 <<< c.val) else s.setArr l (v - 1 <<< c.val)

/-- A line wait leaves the table before its line asserts: the arrive bit clears unless another context of the core still waits
on the line (R315). -/
def State.leaveLine (s : State) (c : CoreId) (l : LineId) : State :=
  if (s.core c).waits.any fun w => w.onLine l then s else s.arrive l c false

end Sys2Proof.Machine
end

