-- ==== Sys2Proof/Machine/Checks.lean ====
section
/-! DEFINITION. The checks that the sequencer makes at issue (R218, R221, R482), in the order of R218. -/

namespace Sys2Proof.Machine
open Sys2Proof

/-! ## Fields of commands -/

/-- Field of a command: word, lowest bit, length (R192). -/
def cf (w : Cmd) (i : Fin 8) (lo len : Nat) : Nat := bits w[i] lo len
def cb (w : Cmd) (i : Fin 8) (b : Nat) : Bool := bit w[i] b

def opcode (w : Cmd) : Nat := cf w 0 0 8
def flagPw (w : Cmd) : Bool := cb w 0 8
def flagCs (w : Cmd) : Bool := cb w 0 9
def flagOrd (w : Cmd) : Bool := cb w 0 10
def tclassOf (w : Cmd) : Fin 8 := Fin.ofNat 8 (cf w 0 12 4)
def pwidOf (w : Cmd) : Nat := cf w 0 16 8
def csidOf (w : Cmd) : Nat := cf w 0 24 8

def OP_NOP := 0x00
def OP_TBUILD := 0x01
def OP_TILE := 0x02
def OP_STILE := 0x03
def OP_DRAIN := 0x04
def OP_MOVE := 0x08
def OP_FILL := 0x0A
def OP_COPY := 0x0B
def OP_XPOSE := 0x0C
def OP_FIN := 0x10
def OP_OPT := 0x11
def OP_SIGNAL := 0x18
def OP_WAIT := 0x19
def OP_BARRIER := 0x1A
def OP_FENCE := 0x1B
def OP_RSIGNAL := 0x1C
def OP_PHASE := 0x20
def OP_RERUN := 0x21
def OP_LOOP := 0x22
def OP_JUMP := 0x23
def OP_HALT := 0x3F

/-- The opcodes of R198. -/
def opcodes : List Nat :=
  [0x00, 0x01, 0x02, 0x03, 0x04, 0x08, 0x0A, 0x0B, 0x0C, 0x10, 0x11, 0x18, 0x19, 0x1A, 0x1B, 0x1C, 0x20, 0x21, 0x22, 0x23, 0x3F]

/-- A command with its opcode set. -/
def withOpcode (w : Cmd) (op : Nat) : Cmd := w.set 0 (putBits w[0] 0 8 op)

/-! ## Check 2: reserved fields and encodings (R193, R194, R482) -/

/-- What a listed field may hold: anything; nothing but zero; a value that its encoding excludes. -/
inductive FS where
  | ok
  | rsv
  | bad
  deriving DecidableEq, Repr

/-- A listed field: lowest bit, length, what it may hold. -/
abbrev FSpec := Nat × Nat × FS

/-- A failing field: its mask, and whether it is a reserved encoding. -/
structure FFail where
  mask : Nat
  enc : Bool
  deriving DecidableEq, Repr

/-- ok or a reserved encoding. -/
def encIf (b : Bool) : FS := if b then .bad else .ok
/-- ok or conditionally reserved. -/
def rsvIf (b : Bool) : FS := if b then .rsv else .ok

/-- The unlisted runs between listed fields in ascending order: each is one reserved field (log entry 18). -/
def gapsOf : Nat → List FSpec → List FSpec
  | at_, [] => if at_ < 32 then [(at_, 32 - at_, .rsv)] else []
  | at_, (lo, len, f) :: r =>
    (if at_ < lo then [(at_, lo - at_, FS.rsv)] else []) ++ (lo, len, f) :: gapsOf (lo + len) r

/-- The first failing field of a word, by lowest failing bit; fields in ascending order. -/
def wordFail (wd : W32) : List FSpec → Option FFail
  | [] => none
  | (lo, len, f) :: r =>
    let v := bits wd lo len
    match f with
    | .ok => wordFail wd r
    | .rsv => if v = 0 then wordFail wd r else some { mask := v <<< lo, enc := false }
    | .bad => some { mask := (1 <<< len - 1) <<< lo, enc := true }

/-- The first failing word of a list of words with their fields, numbered from a base. -/
def wordsFail (base : Nat) : List (W32 × List FSpec) → Option (Nat × FFail)
  | [] => none
  | (wd, fs) :: r =>
    match wordFail wd (gapsOf 0 fs) with
    | some f => some (base, f)
    | none => wordsFail (base + 1) r

def full : List FSpec := [(0, 32, .ok)]
def selOk (v : Nat) : FS := encIf (decide (8 < v))

/-- A command that carries a timeout class: pw, WAIT, BARRIER, a pooled RERUN (R193). -/
def usesTclass (w : Cmd) : Bool :=
  flagPw w || opcode w == OP_WAIT || opcode w == OP_BARRIER || (opcode w == OP_RERUN && cb w 1 7)

/-- Word 0 (R192, R193). -/
def headerSpec (w : Cmd) : List FSpec :=
  [(0, 8, .ok), (8, 1, .ok), (9, 1, .ok), (10, 1, .ok),
   (12, 4, if usesTclass w then encIf (decide (8 ≤ cf w 0 12 4)) else .rsv),
   (16, 8, rsvIf (!flagPw w)), (24, 8, rsvIf (!flagCs w))]

/-- The FMT in a field is one that a test accepts. -/
def fmtIs (v : Nat) (p : Fmt → Bool) : Bool :=
  match fmtOf v with
  | some f => p f
  | none => false

/-- FIN: operations, and those that take B (R230). -/
def finOps : List Nat := [0, 1, 2, 3, 4, 5, 8, 9, 10, 11, 12, 13, 14, 0x20, 0x21, 0x22, 0x23, 0x24]
def finB (op : Nat) : Bool := [1, 2, 4, 5, 14, 0x21, 0x22, 0x23, 0x24].contains op
def finBOk (op : Nat) (f : Fmt) : Bool :=
  if op < 0x20 then !f.isW else if op = 0x21 ∨ op = 0x22 then f.isFloat else f == .fp32

/-- A command whose descriptor is read at issue (R195). -/
def usesDesc (w : Cmd) : Bool :=
  let op := opcode w
  op == OP_DRAIN || op == OP_FIN || (op == OP_OPT && cb w 7 21) || (op == OP_MOVE && cb w 2 20)

/-- L21 of the descriptor. -/
def descL21 (w : Cmd) : Nat :=
  let op := opcode w
  if op = OP_DRAIN then cf w 3 0 21 else if op = OP_FIN then cf w 4 0 21 else if op = OP_OPT then cf w 7 0 21 else cf w 3 0 21

/-- What check 2 needs of the registers: SEQ_PHASE_CNT and CTX_LEN (R211). -/
structure CkRegs where
  phaseCnt : Nat
  ctxLen : Nat
  deriving DecidableEq, Repr

/-- Words 1 to 7 of a command (R199 to R212). -/
def bodySpec (r : CkRegs) (w : Cmd) (d : Desc) : List (List FSpec) :=
  let op := opcode w
  let tile (grp : List FSpec) : List (List FSpec) :=
    [[(0, 21, .ok)] ++ grp ++ [(24, 1, .ok), (25, 5, .ok), (30, 1, .ok)],
     [(0, 21, .ok), (21, 6, encIf (!fmtIs (cf w 2 21 6) Fmt.isBlock)), (27, 2, encIf (cf w 2 27 2 == 3))],
     full,
     [(0, 9, encIf (decide (256 < cf w 4 0 9))), (9, 4, selOk (cf w 4 9 4)), (13, 9, encIf (decide (256 < cf w 4 13 9))),
      (22, 4, selOk (cf w 4 22 4))],
     [(0, 24, .ok), (24, 4, selOk (cf w 5 24 4)), (28, 4, .ok)], [], []]
  if op = OP_TBUILD then
    [[(0, 21, .ok), (21, 4, encIf (decide (9 ≤ cf w 1 21 4))), (25, 1, .ok)], [(0, 16, .ok), (16, 4, .ok)], [], [], [], [], []]
  else if op = OP_TILE then tile [(21, 3, .ok)]
  else if op = OP_STILE then tile []
  else if op = OP_DRAIN then
    let form := cf w 1 9 2
    let pr := form == 1 || form == 2
    [[(0, 4, encIf (decide (9 ≤ cf w 1 0 4))), (4, 5, .ok), (9, 2, encIf (form == 3)), (11, 1, rsvIf (form != 2)),
      (12, 2, if pr then .rsv else encIf (cf w 1 12 2 == 3)), (16, 16, .ok)],
     [(0, 9, encIf (decide (256 < cf w 2 0 9))), (9, 4, selOk (cf w 2 9 4)), (13, 9, encIf (decide (256 < cf w 2 13 9))),
      (22, 4, selOk (cf w 2 22 4))],
     [(0, 21, .ok)],
     [(0, 21, rsvIf pr), (21, 11, rsvIf pr)],
     [(0, 21, rsvIf pr), (21, 4, rsvIf pr), (25, 2, if pr then .rsv else encIf (cf w 5 25 2 == 3))],
     [(0, 16, rsvIf pr)], full]
  else if op = OP_MOVE then
    let qnt := cb w 2 20
    [full,
     [(0, 10, .ok), (16, 3, .ok), (19, 1, encIf (qnt && cb w 2 19 && !(fmtIs (bits d[1] 16 6) Fmt.isW))), (20, 1, .ok),
      (21, 6, if qnt then encIf (!fmtIs (cf w 2 21 6) Fmt.isFloat) else .rsv)],
     if qnt then [(0, 21, .ok), (21, 11, .rsv)] else full,
     [(0, 10, rsvIf qnt)], [(0, 24, rsvIf qnt)], [(0, 24, .ok), (24, 4, selOk (cf w 6 24 4))],
     [(0, 16, .ok), (16, 16, rsvIf qnt)]]
  else if op = OP_FILL then [[(0, 24, .ok), (24, 3, .ok)], [(0, 24, .ok)], full, full, [(0, 1, .ok)], [], []]
  else if op = OP_COPY then [[(0, 24, .ok), (24, 3, .ok)], [(0, 24, .ok)], [(0, 24, .ok)], [], [], [], []]
  else if op = OP_XPOSE then
    [full, [(0, 10, .ok), (10, 2, .ok), (12, 1, .ok), (13, 3, .ok)], [(0, 21, .ok)], full, full, full, full]
  else if op = OP_FIN then
    let fop := cf w 1 0 8
    let tl := cb w 1 8
    let fb := finB fop
    [[(0, 8, encIf (!finOps.contains fop)), (8, 1, .ok)],
     [(0, 21, .ok), (21, 6, encIf (!fmtIs (cf w 2 21 6) fun f => if tl then f.isFloat else !f.isW))],
     [(0, 21, rsvIf (!fb)), (21, 6, if fb then encIf (!fmtIs (cf w 3 21 6) (finBOk fop)) else .rsv)],
     [(0, 21, .ok)], [(0, 24, .ok), (24, 4, selOk (cf w 5 24 4))], full, full]
  else if op = OP_OPT then
    let qw := cb w 7 21
    [[(0, 21, .ok)], [(0, 21, .ok), (24, 6, .ok)], [(0, 21, .ok), (21, 6, encIf (!fmtIs (cf w 3 21 6) Fmt.isFloat))],
     [(0, 21, .ok)], [(0, 21, .ok)], [(0, 24, .ok), (24, 4, selOk (cf w 6 24 4))], [(0, 21, rsvIf (!qw)), (21, 1, .ok)]]
  else if op = OP_SIGNAL ∨ op = OP_WAIT then [[(0, 8, .ok)], full, [], [], [], [], []]
  else if op = OP_BARRIER then [[(0, 4, .ok), (4, 1, .ok)], [(0, 21, rsvIf (!cb w 1 4))], [], [], [], [], []]
  else if op = OP_FENCE then [[(0, 8, .ok), (8, 1, .ok), (9, 1, .ok), (10, 8, .ok), (18, 1, .ok)], [], [], [], [], [], []]
  else if op = OP_RSIGNAL then
    let sg := cb w 1 4
    [[(0, 4, .ok), (4, 1, .ok), (5, 3, .ok), (8, 8, .ok)], [(0, 21, .ok)], [(0, 24, .ok)], full, [(0, 32, rsvIf (!sg))],
     [(0, 32, rsvIf (!sg))], []]
  else if op = OP_PHASE then [[(0, 16, encIf (decide (r.phaseCnt ≤ cf w 1 0 16)))], [], [], [], [], [], []]
  else if op = OP_RERUN then
    [[(0, 6, .ok), (6, 1, .ok), (7, 1, .ok), (8, 4, rsvIf (!cb w 1 7))], full,
     [(0, 24, encIf (cf w 3 0 24 != 0 && decide (r.ctxLen ≤ cf w 3 0 24)))], [], [], [], []]
  else if op = OP_LOOP then
    let s := cf w 1 24 4 == 0
    [[(0, 24, .ok), (24, 4, selOk (cf w 1 24 4)), (28, 4, rsvIf s)], [(0, 8, rsvIf s), (8, 3, .ok)], [(0, 24, .ok)], [], [], [], []]
  else if op = OP_JUMP then [[(0, 24, encIf (decide (r.ctxLen ≤ cf w 1 0 24)))], [], [], [], [], [], []]
  else if op = OP_HALT then [[(0, 16, .ok)], [], [], [], [], [], []]
  else [[], [], [], [], [], [], []]

/-- The words of the output descriptor (R203, R228). -/
def descSpec (w : Cmd) (d : Desc) : List (List FSpec) :=
  let op := opcode w
  let drain := op == OP_DRAIN
  let fin := op == OP_FIN
  let fv := bits d[1] 16 6
  let fmt := fmtOf fv
  let is (p : Fmt → Bool) := fmtIs fv p
  let bu := is fun f => match f with
    | .bu _ => true
    | _ => false
  if drain && (cf w 1 9 2 == 1 || cf w 1 9 2 == 2) then
    [full, [(0, 10, .ok), (16, 6, .rsv), (22, 2, .rsv), (24, 1, .rsv), (25, 6, .rsv)], [(0, 32, .rsv)],
     [(0, 10, .rsv), (10, 8, .rsv), (18, 8, .rsv)], [(0, 32, .rsv)], [(0, 10, .rsv)], [(0, 16, .rsv)],
     [(0, 21, .rsv), (21, 1, .rsv)], [(0, 21, .rsv), (21, 6, .rsv)], [(0, 16, .rsv)],
     [(0, 21, .rsv), (21, 2, .rsv), (23, 1, .rsv)], [(0, 21, .rsv)], [], [], [], []]
  else
    let fl := is Fmt.isFloat
    let blk := is Fmt.isBlock
    let isW := is Fmt.isW
    let crt := bit d[1] 24
    let dbad := if op = OP_OPT then !isW else if op = OP_MOVE then !(blk || isW) else fmt.isNone
    let rowOp := fin && decide (0x20 ≤ cf w 1 0 8)
    let ffv := bits d[8] 21 6
    let fb := fmtIs ffv Fmt.isBlock
    let tl := cb w 1 8
    let ab := fmtIs (cf w 2 21 6) Fmt.isBlock
    let bb := finB (cf w 1 0 8) && fmtIs (cf w 3 21 6) Fmt.isBlock
    [full,
     [(0, 10, .ok), (16, 6, encIf dbad), (22, 2, if fl then .rsv else encIf (isW && bits d[1] 22 2 == 0)), (24, 1, rsvIf fl),
      (25, 6, rsvIf (fmt == some .fp32))],
     [(0, 32, rsvIf (fl || isW))],
     [(0, 10, rsvIf (fl || isW)), (10, 8, rsvIf (!bu)), (18, 8, rsvIf fl)],
     [(0, 32, rsvIf (!crt))], [(0, 10, rsvIf (!crt))],
     [(0, 16, encIf (rowOp && decide (128 < bits d[6] 0 16)))],
     if drain then [(0, 21, rsvIf (bit d[7] 21)), (21, 1, .ok)] else [],
     if drain then [(0, 21, rsvIf (cf w 1 12 2 == 0)), (21, 6, encIf (!fmtIs ffv fun f => !f.isW))] else [],
     if drain then [(0, 16, .ok)] else [],
     if drain then [(0, 21, rsvIf (!fb)), (21, 2, rsvIf (!fb)), (23, 1, rsvIf (!fb))]
     else if fin then [(0, 1, rsvIf (!tl)), (1, 2, rsvIf (!ab)), (3, 1, rsvIf (!ab)), (4, 2, rsvIf (!bb)), (6, 1, rsvIf (!bb))]
     else [],
     if drain then [(0, 21, rsvIf (!(fb && bit d[10] 23)))] else if fin then [(0, 32, rsvIf (!tl))] else [],
     if fin then [(0, 32, rsvIf (!tl))] else [],
     [], [], []]

/-- RSV_FIELD of a command with its descriptor (R194, R221, R482). -/
def fieldFail (r : CkRegs) (w : Cmd) (d : Desc) : Option Rec :=
  let cmd := wordsFail 0 (w.toList.zip (headerSpec w :: bodySpec r w d))
  let dsc := if usesDesc w then wordsFail 16 (d.toList.zip (descSpec w d)) else none
  (cmd.orElse fun _ => dsc).map fun (i, f) => mkRec 0x0102 (opcode w + i <<< 8) f.mask (bn f.enc) 0

/-! ## Check 4: virtual IDs (R294, R295) -/

def State.mapEntry (s : State) (c : CoreId) (x : CtxId) (vid : Nat) : W32 := s.pg (.ctx c x) (CTX_MAP (vid % 256))
def mapWord (e : W32) : Nat := bits e 0 24
def mapCore (e : W32) : CoreId := Fin.ofNat 64 (bits e 24 6)
def mapValid (e : W32) : Bool := bit e 31

/-- An ID to wait on or to realign. -/
def State.waitable (s : State) (c : CoreId) (e : W32) : Bool := mapValid e && mapCore e == c && s.enabled c
/-- An ID to signal. -/
def State.signalable (s : State) (c : CoreId) (e : W32) : Bool :=
  mapValid e && s.enabled (mapCore e) && (mapCore e == c || s.peer c (mapCore e))

/-- The realign list of a BARRIER: its IDs and plans, at most 32 (R316). -/
def State.realignList (s : State) (c : CoreId) (l21 : Nat) : List (Byte × W32) :=
  let a := stoBase c + 64 * l21
  (List.range (min 32 (s.mem.le a 8 % 64))).map fun i =>
    (s.mem.byte (a + 8 * (i + 1)), w32 (s.mem.le (a + 8 * (i + 1) + 4) 4))

/-- Entries of a realign list that lie within the core's 128 MiB. -/
def realignInside (l21 : Nat) (l : List (Byte × W32)) : List (Byte × W32) :=
  l.take ((0x800_0000 - 64 * l21) / 8 - 1)

/-- SYNC_MAP (R218 check 4, R221): pwid, then csid, then the operand's IDs. -/
def State.mapFail (s : State) (c : CoreId) (x : CtxId) (w : Cmd) : Option Rec :=
  let op := opcode w
  let bad (vid src : Nat) : Option Rec := some (mkRec 0x0205 (op + vid <<< 8 + src <<< 16) 0 0 0)
  if flagPw w && !s.waitable c (s.mapEntry c x (pwidOf w)) then bad (pwidOf w) 0
  else if flagCs w && !s.signalable c (s.mapEntry c x (csidOf w)) then bad (csidOf w) 1
  else if op = OP_WAIT && !s.waitable c (s.mapEntry c x (cf w 1 0 8)) then bad (cf w 1 0 8) 2
  else if op = OP_SIGNAL && !s.signalable c (s.mapEntry c x (cf w 1 0 8)) then bad (cf w 1 0 8) 2
  else if op = OP_BARRIER && cb w 1 4 then
    let l21 := cf w 2 0 21
    match (realignInside l21 (s.realignList c l21)).find? fun e => !s.waitable c (s.mapEntry c x e.1.toNat) with
    | some e => bad e.1.toNat 2
    | none => none
  else none

/-! ## Check 6: shapes (R160 to R165) -/

/-- A shape-capable field: its order number, selector, planned maximum. -/
structure ShapeField where
  num : Nat
  sel : Nat
  plan : Nat
  deriving DecidableEq, Repr

/-- The shape-capable fields of a command in the order of R165. -/
def shapeFields (w : Cmd) : List ShapeField :=
  let op := opcode w
  if op = OP_TILE ∨ op = OP_STILE then
    [⟨0, cf w 4 9 4, cf w 4 0 9⟩, ⟨1, cf w 4 22 4, cf w 4 13 9⟩, ⟨2, cf w 5 24 4, cf w 5 0 24⟩]
  else if op = OP_DRAIN then [⟨0, cf w 2 9 4, cf w 2 0 9⟩, ⟨1, cf w 2 22 4, cf w 2 13 9⟩]
  else if op = OP_MOVE then [⟨3, cf w 6 24 4, cf w 6 0 24⟩]
  else if op = OP_FIN then [⟨3, cf w 5 24 4, cf w 5 0 24⟩]
  else if op = OP_LOOP then [⟨4, cf w 1 24 4, cf w 1 0 24⟩]
  else if op = OP_OPT then [⟨5, cf w 6 24 4, cf w 6 0 24⟩]
  else []

/-- The run-time value of a shape field (R160). -/
def State.shapeVal (s : State) (c : CoreId) (x : CtxId) (w : Cmd) (f : ShapeField) : Nat :=
  if f.sel = 0 then f.plan
  else
    let v := (s.pg (.ctx c x) (CTX_SHAPE (f.sel - 1))).toNat
    if f.num = 4 then cdiv v (1 <<< cf w 1 28 4) - cf w 2 0 8 else v

/-- SHAPE_OVER_PLAN (R162, R165). -/
def State.shapeFail (s : State) (c : CoreId) (x : CtxId) (w : Cmd) (off : Nat) : Option Rec :=
  ((shapeFields w).find? fun f => decide (f.plan < s.shapeVal c x w f)).map fun f =>
    mkRec 0x0103 (opcode w + f.num <<< 8 + f.sel <<< 12) (s.shapeVal c x w f) f.plan off

/-- The run-time value of the field numbered `num`; 0 when the command has none. -/
def State.shapeOf (s : State) (c : CoreId) (x : CtxId) (w : Cmd) (num : Nat) : Nat :=
  match (shapeFields w).find? fun f => f.num == num with
  | some f => s.shapeVal c x w f
  | none => 0

/-! ## Check 7: the loft (R117) -/

/-- Unit of an engine command or DRAIN. -/
def engUnit (w : Cmd) : Nat :=
  let op := opcode w
  if op = OP_TILE then cf w 1 21 3 else if op = OP_STILE then 8 else if op = OP_TBUILD then cf w 1 21 4 else cf w 1 0 4

/-- Slot named by a TILE, STILE or DRAIN. -/
def slotOf (w : Cmd) : Nat := if opcode w = OP_DRAIN then cf w 1 4 5 else cf w 1 25 5

/-- The sampled LOFT_CFG.slots of a unit. -/
def State.loftCfg (s : State) (c : CoreId) (u : Nat) : Nat := bits (s.pg (unitPage c u) LOFT_CFG) 0 3

/-- LOFT_RANGE (R117). -/
def State.loftFail (s : State) (c : CoreId) (x : CtxId) (w : Cmd) : Option Rec :=
  let op := opcode w
  if op = OP_TILE ∨ op = OP_STILE ∨ op = OP_DRAIN then
    let u := engUnit w
    let n := s.loftCfg c u
    let m := s.shapeOf c x w 0
    if 1 <<< slotLog n ≤ slotOf w ∨ maxM u n < m then
      some (mkRec 0x0104 (op + u <<< 8 + slotOf w <<< 13 + n <<< 18) m 0 0)
    else none
  else none

/-! ## Check 8: ranges (R218, R482) -/

/-- A run of bytes that a command reads or writes: within the issuing core's 128 MiB, anywhere mapped, or, for the destination
of a MOVE, also the core's skip registers (R252). -/
inductive RKind where
  | own
  | any
  | skip
  deriving DecidableEq, Repr

structure Range where
  kind : RKind
  addr : Nat
  len : Nat
  deriving DecidableEq, Repr

/-- End of the mapped memory that holds a mapped byte (R322). A byte of the register range is none: a command that reads one (an
XPOSE source, a MOVE source at its own skip registers) fails check 8, since R322 lists the range apart and R252 opens it only to the
writes of a MOVE: DEDUCED, log entry 28. -/
def State.memEnd (s : State) (a : Nat) : Nat :=
  match s.place a with
  | .attic => s.atticSize
  | .cellar p => CEL_BASE + 0x100_0000_0000 * p.val + s.celSize p
  | .sto c => stoBase c + 0x800_0000
  | _ => a

/-- The lowest byte of a run that lies outside mapped memory; adjacent memories are at most the four cellar windows. -/
def State.firstUnmapped (s : State) : Nat → Nat → Nat → Option Nat
  | 0, _, _ => none
  | fuel + 1, a, n =>
    if n = 0 then none
    else
      let e := s.memEnd a
      if e ≤ a then some a
      else if a + n ≤ e then none
      else State.firstUnmapped s fuel e (a + n - e)

/-- Package address of a core's skip registers (R252). -/
def skipBase (c : CoreId) : Nat := REG_BASE + (Page.fu c).base + 0x800

/-- The lowest failing byte of one run. -/
def State.rangeFail (s : State) (c : CoreId) (r : Range) : Option Nat :=
  if r.len = 0 then none
  else
    let b := stoBase c
    match r.kind with
    | .own => if r.addr < b then some r.addr
      else if b + 0x800_0000 < r.addr + r.len then some (max r.addr (b + 0x800_0000)) else none
    | .any => s.firstUnmapped 8 r.addr r.len
    | .skip =>
      if skipBase c ≤ r.addr ∧ r.addr < skipBase c + 0x40 then
        (if skipBase c + 0x40 < r.addr + r.len then some (skipBase c + 0x40) else none)
      else s.firstUnmapped 8 r.addr r.len

/-- The byte ranges of a result tensor, for rows (row, first column, elements), of a kind (R203). -/
def destRanges (k : RKind) (d : Desc) (rows : List (Nat × Nat × Nat)) : List Range :=
  let f := d.dfmt
  let q := d.quant
  let l := d.len
  match f with
  | .fp32 | .bf16 => rows.map fun (r, c, n) => ⟨k, d.dst + (r * l + c) * (f.bits / 8), n * (f.bits / 8)⟩
  | .bs _ | .bu _ =>
    rows.flatMap fun (r, c, n) =>
      let i := r * l + c
      let nb := cdiv n q.blk
      [⟨k, d.dst + i * f.bits / 8, nb * q.blk * f.bits / 8⟩, ⟨k, d.metaA + 2 * (i / q.blk), 2 * nb⟩] ++
        (if q.crt then [⟨k, d.crtA + 16 * (i / 128), 16 * cdiv (nb * q.blk) 128⟩] else [])
  | .w w =>
    let ts := rows.flatMap fun (r, c, n) => if n = 0 then [] else
      let i := r * l + c
      (List.range ((i + n - 1) / 4096 - i / 4096 + 1)).map fun t => i / 4096 + t
    ts.eraseDups.map fun t => ⟨k, d.dst + t * (192 + 512 * w), 192 + 512 * w⟩

/-- A weight tile as a reader of width w fetches it, by its header as it stands (log entry 28). -/
def tileRanges (m : Mem) (a w : Nat) : List Range := [⟨.own, a, 192 + (m.tileHdr a).fetch w⟩]

/-- Ranges of an activation operand's vector part (R72, R73). -/
def actRanges (o : ActOp) (v k0 n : Nat) : List Range :=
  let r := o.codeRun v k0 n
  [⟨.own, r.1, r.2⟩, ⟨.own, o.metaAt v (k0 / o.g), 2 * cdiv n o.g⟩]

def fmtField (v : Nat) : Fmt := (fmtOf v).getD .fp32
def gsOf (v : Nat) : Nat := 32 <<< v

/-- The activation operand of a TILE or STILE command. -/
def cmdOperand (c : CoreId) (w : Cmd) : ActOp :=
  tileOperand c (fmtField (cf w 2 21 6)) (cf w 1 0 21) (cf w 2 0 21) (gsOf (cf w 2 27 2)) (cf w 3 16 16)

/-- A TILE that the skip registers guard, in whatever mode (R253). -/
def State.isGuarded (s : State) (c : CoreId) (w : Cmd) (m n k : Nat) : Bool :=
  opcode w == OP_TILE && bit (s.pg (.fu c) (FU_SKIP_GUARD (cf w 1 21 3))) (slotOf w) &&
    cf w 3 16 16 == 1 && m != 0 && n != 0 && k != 0

/-- A skip record's fields (R254). -/
def recordOff (w : Cmd) : Nat := 64 * cf w 1 0 21

/-- What a guarded TILE also reads: its record, the ASTEP records and the query crate that the record names (R254, R255). -/
def State.guardRanges (s : State) (c : CoreId) (w : Cmd) (m : Nat) : List Range :=
  let a := stoBase c + recordOff w - 64
  let ast := s.mem.le a 4 % 0x20_0000
  let crt := w32 (s.mem.le (a + 4) 4)
  [⟨.own, a, 64⟩, ⟨.own, stoBase c + 64 * ast, 16 * m⟩] ++
    (if bit crt 31 then [⟨.own, stoBase c + 64 * bits crt 0 21, 16 * m⟩] else [])

/-- The threshold that an evaluation in TABLE mode reads (R263). -/
def State.tableRange (s : State) (c : CoreId) : List Range :=
  if s.skipMode c = MODE_TABLE then
    let sense := s.pg (.fu c) FU_SKIP_SENSE
    [⟨.own, stoBase c + 64 * bits (s.pg (.fu c) FU_SKIP_TTBL) 0 21 + 4 * (8 * bits sense 0 3 + bits sense 3 3), 4⟩]
  else []

/-- Operand B of FIN (R227, R230). -/
def finBRanges (w : Cmd) (d : Desc) (base r l : Nat) : List Range :=
  let op := cf w 1 0 8
  let f := fmtField (cf w 3 21 6)
  let a := base + 64 * cf w 3 0 21
  if !finB op then []
  else if op < 0x20 then
    if f.isBlock then
      let o := finActOp a f (blkOf (bits d[10] 4 2)) (bit d[10] 6) r l
      [⟨.own, a, r * l * f.bits / 8⟩, ⟨.own, o.metaA, 2 * (r * l / o.g)⟩] ++
        (match o.crate with
         | some k => [⟨.own, k, 16 * (r * l / 128)⟩]
         | none => [])
    else [⟨.own, a, r * l * (f.bits / 8)⟩]
  else if op = 0x21 then [⟨.own, a, l * (f.bits / 8)⟩]
  else if op = 0x22 then [⟨.own, a, 2 * l * (f.bits / 8)⟩]
  else if op = 0x23 then [⟨.own, a, 8 * r⟩]
  else [⟨.own, a, 16 * r⟩]

/-- Operand A of FIN (R227, R229). -/
def finSrc (base : Nat) (w : Cmd) (d : Desc) : FinSrc :=
  let f := fmtField (cf w 2 21 6)
  let a := base + 64 * cf w 2 0 21
  if cb w 1 8 then .strided a f (bit d[10] 0) d[11].toNat d[12].toNat
  else .rows a f (blkOf (bits d[10] 1 2)) (bit d[10] 3)

def finARanges (src : FinSrc) (r l : Nat) : List Range :=
  match src with
  | .rows a f g crt =>
    if f.isBlock then
      let o := finActOp a f g crt r l
      [⟨.own, a, r * l * f.bits / 8⟩, ⟨.own, o.metaA, 2 * (r * l / g)⟩] ++
        (match o.crate with
         | some k => [⟨.own, k, 16 * (r * l / 128)⟩]
         | none => [])
    else [⟨.own, a, r * l * (f.bits / 8)⟩]
  | .strided a f tr srs ses =>
    (List.range r).flatMap fun i => (List.range l).map fun c =>
      ⟨.own, if tr then a + c * srs + i * ses else a + i * srs + c * ses, f.bits / 8⟩

/-- The drain that a DRAIN command describes. -/
def drainOp (c : CoreId) (w : Cmd) (d : Desc) (m n cnt : Nat) : DrainOp :=
  { core := c, unit := cf w 1 0 4, slot := cf w 1 4 5, cnt := cnt, m := m, n := n, n0 := cf w 1 16 16, m0 := w[7].toNat,
    crate := stoBase c + 64 * cf w 4 0 21, j := cf w 4 21 11, wts := stoBase c + 64 * cf w 5 0 21, wstr := 64 * cf w 6 0 16,
    w := cf w 5 21 4 + 1, g := gsOf (cf w 5 25 2), fop := cf w 1 12 2, desc := d }

/-- The weight tiles of some blocks of a DRAIN (R126); tiles of engines whose channels are not written are not read (log entry 28). -/
def drainTiles (mem : Mem) (o : DrainOp) (blocks : List Nat) : List Range :=
  blocks.flatMap fun j => (List.range (cdiv o.n 32)).flatMap fun e => tileRanges mem (o.wts + (8 * j + e) * o.wstr) o.w

/-- The blocks of a DRAIN's crate that hold a valid slot of some vector: it reads the tiles of these alone (R76, R126). -/
def slotBlocks (mem : Mem) (o : DrainOp) : List Nat :=
  (List.range o.j).filter fun j => (List.range o.m).any fun v => !(mem.crateSlots (o.crate + 16 * (v * o.j + j))).isEmpty

/-- A DRAIN of a zero shape, or a value-form DRAIN of a row length that is zero: its own, or that of the fused operand it reads
(R162, R166, R203). -/
def drainIdle (w : Cmd) (d : Desc) (m n : Nat) : Bool :=
  m == 0 || n == 0 || (cf w 1 9 2 == 0 && (d.len == 0 || (cf w 1 12 2 != 0 && bits d[9] 0 16 == 0)))

/-- The reads of a value-form DRAIN (R124 to R126). -/
def drainReads (mem : Mem) (o : DrainOp) : List Range :=
  let d := o.desc
  let base := stoBase o.core
  let ff := fmtField (bits d[8] 21 6)
  let fk := bits d[9] 0 16 * 128
  let fa := base + 64 * bits d[8] 0 21
  (if bit d[7] 21 then [] else [⟨.own, base + 64 * bits d[7] 0 21 + 8 * (o.n0 * 128), 8 * o.n⟩]) ++
  (if o.j = 0 then [] else ⟨.own, o.crate, 16 * o.m * o.j⟩ :: drainTiles mem o (slotBlocks mem o)) ++
  (if o.fop = 0 then [] else (List.range o.m).flatMap fun v =>
    let i := (o.m0 + v) * fk + o.n0 * 128
    if ff.isBlock then
      let g := blkOf (bits d[10] 21 2)
      [⟨.own, fa + i * ff.bits / 8, cdiv (o.n * ff.bits) 8⟩, ⟨.own, base + 64 * bits d[10] 0 21 + 2 * (i / g), 2 * cdiv o.n g⟩] ++
        (if bit d[10] 23 then [⟨.own, base + 64 * bits d[11] 0 21 + 16 * (i / 128), 16 * cdiv o.n 128⟩] else [])
    else [⟨.own, fa + i * (ff.bits / 8), o.n * (ff.bits / 8)⟩])

/-- Bytes that a command reads through the ACT, WT or FU port of its core, where poison is consumed (R421). -/
def State.unitReads (s : State) (c : CoreId) (w : Cmd) (d : Desc) (m n k cnt : Nat) : List Range :=
  let op := opcode w
  let base := stoBase c
  if op = OP_TBUILD then
    (List.range 8).flatMap fun e => tileRanges s.mem (tileAddr c (cf w 1 0 21) (cf w 2 0 16) e) (cf w 2 16 4 + 1)
  else if op = OP_TILE ∨ op = OP_STILE then
    if m = 0 ∨ n = 0 ∨ k = 0 ∨ cf w 3 16 16 = 0 then []
    else (List.range m).flatMap fun v => actRanges (cmdOperand c w) v (128 * cf w 3 0 16) 128
  else if op = OP_DRAIN then
    if drainIdle w d m n then []
    else if cf w 1 9 2 = 2 then [⟨.own, d.dst, 2048 * m⟩]
    else if cf w 1 9 2 = 1 then []
    else drainReads s.mem (drainOp c w d m n 0)
  else if op = OP_FIN then
    if cnt = 0 ∨ d.len = 0 then [] else finARanges (finSrc base w d) cnt d.len ++ finBRanges w d base cnt d.len
  else if op = OP_OPT then
    if cnt = 0 then []
    else
      let n := 128 * cnt
      [⟨.own, base + 64 * cf w 5 0 21, 64⟩, ⟨.own, base + 64 * cf w 1 0 21, 2 * n⟩, ⟨.own, base + 64 * cf w 2 0 21, 2 * n⟩,
       ⟨.own, base + 64 * cf w 3 0 21, n * ((fmtField (cf w 3 21 6)).bits / 8)⟩, ⟨.own, base + 64 * cf w 4 0 21, 8 * n⟩]
  else []

/-- Source and destination of a MOVE row by row (R204). -/
def moveSrc (w : Cmd) (r : Nat) : Nat := p42 w[1] w[2] + r * cf w 7 0 16 * 64
def moveDst (w : Cmd) (r : Nat) : Nat := p42 w[3] w[4] + r * cf w 7 16 16 * 64
/-- Bytes of a source row. -/
def moveRow (w : Cmd) (d : Desc) : Nat := if cb w 2 20 then d.len * ((fmtField (cf w 2 21 6)).bits / 8) else 64 * cf w 5 0 24

/-- Source and destination of element (r, c) of an XPOSE (R206). -/
def xposeSrc (w : Cmd) (r c : Nat) : Nat := p42 w[1] w[2] + r * w[5].toNat + c * w[6].toNat
def xposeDst (core : CoreId) (w : Cmd) (r c : Nat) : Nat :=
  let es := 1 <<< cf w 2 10 2
  let (i, j) := if cb w 2 12 then (c, r) else (r, c)
  stoBase core + 64 * cf w 3 0 21 + i * w[7].toNat + j * es

/-- Every run of bytes that a command reads or writes (R218 check 8). Where what it touches depends on data, the check covers, by
log entry 28: the whole 192 + 512w allotment of R83 of each tile that a compressing MOVE writes, w from the source header as it
stands; every tile of a DRAIN's crate blocks, whether or not a slot of the block is valid at issue. -/
def State.cmdRanges (s : State) (c : CoreId) (w : Cmd) (d : Desc) (m n k cnt : Nat) : List Range :=
  let op := opcode w
  let base := stoBase c
  (if usesDesc w then [⟨.own, base + 64 * descL21 w, 64⟩] else []) ++ s.unitReads c w d m n k cnt ++
  (if op = OP_TILE then
     if s.isGuarded c w m n k && s.skipMode c != MODE_OFF then s.guardRanges c w m ++ s.tableRange c else []
   else if op = OP_DRAIN then
     if cf w 1 9 2 = 2 ∨ drainIdle w d m n then []
     else if cf w 1 9 2 = 1 then [⟨.any, d.dst, 2048 * m⟩]
     else
       let o := drainOp c w d m n 0
       drainTiles s.mem o (List.range o.j) ++
         destRanges .any d ((List.range m).map fun v => (w[7].toNat + v, cf w 1 16 16 * 128, n))
   else if op = OP_FIN then
     if cnt = 0 ∨ d.len = 0 then [] else destRanges .any d [(0, 0, cnt * d.len)]
   else if op = OP_OPT then
     if cnt = 0 ∨ !cb w 7 21 then [] else destRanges .any d [(0, 0, 128 * cnt)]
   else if op = OP_MOVE then
     let row := moveRow w d
     if cnt = 0 ∨ row = 0 then []
     else
       (List.range cnt).map (fun r => ⟨.any, moveSrc w r, row⟩) ++
       (if cb w 2 20 then destRanges .skip d [(0, 0, cnt * d.len)]
        else (List.range cnt).map fun r =>
          if cb w 2 19 then
            ⟨.skip, moveDst w r, 192 + 512 * ((s.mem.byte (moveSrc w r)).toNat % 16 + 1)⟩
          else ⟨.skip, moveDst w r, row⟩)
   else if op = OP_FILL then [⟨.own, base + 8 * cf w 1 0 24, 8 * cf w 2 0 24⟩]
   else if op = OP_COPY then
     [⟨.own, base + 8 * cf w 1 0 24, 8 * cf w 3 0 24⟩, ⟨.own, base + 8 * cf w 2 0 24, 8 * cf w 3 0 24⟩]
   else if op = OP_XPOSE then
     let es := 1 <<< cf w 2 10 2
     (List.range (cf w 4 0 16)).flatMap fun r => (List.range (cf w 4 16 16)).flatMap fun e =>
       [⟨.any, xposeSrc w r e, es⟩, ⟨.own, xposeDst c w r e, es⟩]
   else if op = OP_RSIGNAL then [⟨.own, base + 64 * cf w 2 0 21, 64 * cf w 3 0 24⟩]
   else if op = OP_BARRIER ∧ cb w 1 4 then
     [⟨.own, base + 64 * cf w 2 0 21, 8 + 8 * (s.realignList c (cf w 2 0 21)).length⟩]
   else [])

/-- STO_RANGE (R218 check 8, R482): the lowest of all failing bytes. -/
def State.stoFail (s : State) (c : CoreId) (w : Cmd) (rs : List Range) : Option Rec :=
  match rs.filterMap (s.rangeFail c) with
  | [] => none
  | a :: r => let lo := r.foldl min a; some (mkRec 0x0106 (opcode w) lo (lo >>> 32 % 0x1_0000) 0)

end Sys2Proof.Machine
end

