-- ==== Sys2Proof/Machine/Output.lean ====
section
/-! DEFINITION. What the commands in execution on a core's units write, and what a core fault or a core reset leaves of it. -/

namespace Sys2Proof.Machine
open Sys2Proof

/-- A unit of a core by number. -/
def Core.unit (k : Core) (u : Nat) : EngUnit := k.units[Fin.ofNat 10 u]
def Core.modUnit (k : Core) (u : Nat) (f : EngUnit → EngUnit) : Core := { k with units := vmod k.units (Fin.ofNat 10 u) f }
def Core.modQueue (k : Core) (q : QId) (f : DmaQueue → DmaQueue) : Core := { k with dmaq := vmod k.dmaq q f }

/-! ## Fields of a job -/

def isBuild (j : Job) : Bool := opcode j.cmd == OP_TBUILD
def isTile (j : Job) : Bool := opcode j.cmd == OP_TILE || opcode j.cmd == OP_STILE
def isDrain (j : Job) : Bool := opcode j.cmd == OP_DRAIN

/-- Weight width of a TBUILD, of a TILE or STILE. -/
def buildW (w : Cmd) : Nat := cf w 2 16 4 + 1
def tileW (w : Cmd) : Nat := cf w 5 28 4 + 1
def buildBuf (w : Cmd) : Nat := cf w 1 25 1
def tileBuf (w : Cmd) : Nat := cf w 1 24 1
def tileAcc (w : Cmd) : Bool := cb w 1 30

/-- A TILE, STILE or DRAIN of a zero shape, or a value-form DRAIN of a zero row length (R162, R166). -/
def tileNoop (j : Job) : Bool := j.m == 0 || j.n == 0 || cf j.cmd 3 16 16 == 0
def drainNoop (j : Job) : Bool := drainIdle j.cmd j.desc j.m j.n

/-! ## What a command writes -/

/-- Write byte runs to the tiers as core c; bytes that have become unmapped since issue are dropped (log entry 13). -/
def State.writeSegs (s : State) (c : CoreId) (segs : List OutSeg) : State :=
  segs.foldl (fun s g => (splitAtBounds 2048 g.data.length g.addr g.data).foldl (fun s p =>
    if s.mapped p.1 p.2.length then s.coreWrite c (s.keyOf (s.owner c)) p.1 p.2 else s) s) s

/-- The loft entries of a unit of a core. -/
def State.unitLoft (s : State) (c : CoreId) (u : Nat) : List (Nat × W64) := s.loft.filter fun e => e.1 / (8 * 8192) == c.val * 9 + u

/-- The rows or pairs that a DRAIN writes, from the entries it has read (R125, R127). -/
def State.drainOut (s : State) (c : CoreId) (j : Job) : OutSet :=
  let o := drainOp c j.cmd j.desc j.m j.n j.slots
  let v : State := if j.stage = 0 then s else { s with loft := (s.core c).drained }
  if drainNoop j ∨ cf j.cmd 1 9 2 = 2 then { segs := [], clips := 0, excess := 0, first := none }
  else if cf j.cmd 1 9 2 = 1 then { segs := drainPairs v o, clips := 0, excess := 0, first := none }
  else outRows j.desc false (drainRows v o)

/-- Operand B of FIN as rows of the shape of A (R227, R230). -/
def finSrcB (base : Nat) (w : Cmd) (d : Desc) : FinSrc :=
  .rows (base + 64 * cf w 3 0 21) (fmtField (cf w 3 21 6)) (blkOf (bits d[10] 4 2)) (bit d[10] 6)

/-- A FIN's rows, and the record bytes it writes, each with its storeroom offset (R229 to R232). -/
def finRows (mem : Mem) (c : CoreId) (j : Job) : List OutRow × List (Nat × List Byte) :=
  let w := j.cmd
  let d := j.desc
  let base := stoBase c
  let op := cf w 1 0 8
  let l := d.len
  let boff := 64 * cf w 3 0 21
  let bf := fmtField (cf w 3 21 6)
  let es := bf.bits / 8
  let floats (k : Nat) : List W32 := (List.range l).map fun i => mem.floatAt bf (base + boff + (k * l + i) * es)
  let rs := if op = 0x23 then 8 else 16
  let out := (List.range j.cnt).map fun r =>
    let x := finRow mem (finSrc base w d) j.cnt l r
    if op < 0x20 then
      let b := if finB op then finRow mem (finSrcB base w d) j.cnt l r else []
      (x.zipIdx.map fun (v, i) => finElem op w[6] w[7] v (b.getD i 0), (0, ([] : List Byte)))
    else
      let gain := if op = 0x21 ∨ op = 0x22 then floats 0 else []
      let bias := if op = 0x22 then floats 1 else []
      let rc := if op = 0x23 ∨ op = 0x24 then (List.range (rs / 4)).map fun i => w32 (mem.le (base + boff + rs * r + 4 * i) 4) else []
      let (y, ro, ws) := finRowOp op w[6] w[7] x gain bias rc
      (y, (boff + rs * r + ro, ws.flatMap fun v => toLe 4 v.toNat))
  (out.zipIdx.map fun ((y, _), r) => { row := r, col := 0, vals := y, pad := 0, bad := [] },
   (out.map fun p => p.2).filter fun p => !p.2.isEmpty)

/-- The elements of an OPT (R237). -/
def optOuts (mem : Mem) (c : CoreId) (w : Cmd) (p : OptPar) (n : Nat) : List OptOut :=
  let base := stoBase c
  let gf := fmtField (cf w 3 21 6)
  (List.range n).map fun i =>
    let st := base + 64 * cf w 4 0 21 + 8 * i
    optElem p (BitVec.ofNat 16 (mem.le (base + 64 * cf w 1 0 21 + 2 * i) 2)) (BitVec.ofNat 16 (mem.le (base + 64 * cf w 2 0 21 + 2 * i) 2))
      (mem.floatAt gf (base + 64 * cf w 3 0 21 + i * (gf.bits / 8))) (w32 (mem.le st 4)) (w32 (mem.le (st + 4) 4))

/-- A byte run in the core's own storeroom. -/
def ownSeg (c : CoreId) (off : Nat) (l : List Byte) : OutSeg := mkSeg (stoBase c + off) false l

/-- What a FIN writes besides its destination: its records (R231). -/
def finRecs (mem : Mem) (c : CoreId) (j : Job) : List OutSeg := (finRows mem c j).2.map fun p => ownSeg c p.1 p.2

/-- The result rows of a FIN. -/
def finOut (mem : Mem) (c : CoreId) (j : Job) : OutSet := outRows j.desc false (finRows mem c j).1

/-- Parameters of an OPT, after their advance (R236, R237). -/
def optPar (mem : Mem) (c : CoreId) (j : Job) : OptPar := (mem.optPar (stoBase c + 64 * cf j.cmd 5 0 21)).advance

/-- Elements of an OPT job. -/
def optRun (mem : Mem) (c : CoreId) (j : Job) : List OptOut := optOuts mem c j.cmd (optPar mem c j) (128 * j.cnt)

/-- What an OPT writes in its own storeroom: parameters, weights, remainders and state; MOMENTUM does not write v (R237, R238). -/
def optSegs (mem : Mem) (c : CoreId) (j : Job) : List OutSeg :=
  let p := optPar mem c j
  let outs := optRun mem c j
  let st := 64 * cf j.cmd 4 0 21
  (if p.alg = 0 ∧ p.tinc then [ownSeg c (64 * cf j.cmd 5 0 21 + 36) (toLe 4 p.p1.toNat ++ toLe 4 p.p2.toNat)] else []) ++
  [ownSeg c (64 * cf j.cmd 1 0 21) (outs.flatMap fun o => toLe 2 o.w.toNat),
   ownSeg c (64 * cf j.cmd 2 0 21) (outs.flatMap fun o => toLe 2 o.rho.toNat)] ++
  (if p.alg = 0 then [ownSeg c st (outs.flatMap fun o => toLe 4 o.m.toNat ++ toLe 4 o.v.toNat)]
   else outs.zipIdx.map fun (o, i) => ownSeg c (st + 8 * i) (toLe 4 o.m.toNat))

/-- The quantised or converted copy of an OPT (R237). -/
def optCopy (mem : Mem) (c : CoreId) (j : Job) : OutSet :=
  if cb j.cmd 7 21 then
    outRows j.desc false [{ row := 0, col := 0, vals := (optRun mem c j).map (·.copy), pad := 0, bad := [] }]
  else { segs := [], clips := 0, excess := 0, first := none }

/-- The summaries that a TBUILD captures: where they lie in its storeroom, and their bytes (R249). When FU_SKIP_CTL.capu and kgs are
sampled is not said: as they stand when the TBUILD completes (or is cut off). DESIGN CHOICE, log entry 13. -/
def State.summaryBytes (s : State) (c : CoreId) (u : Nat) (j : Job) : Option (Nat × List Byte) :=
  let ctl := s.pg (.fu c) FU_SKIP_CTL
  let src := cf j.cmd 1 0 21
  if u < 8 ∧ bit ctl (5 + u) ∧ 768 ≤ 64 * src then
    some (64 * src - 768, capturePair s.mem c src (cf j.cmd 2 0 16) (buildW j.cmd) (bits ctl 3 2))
  else none

/-- A TBUILD writes the summaries it captures (R249). -/
def State.captureSummaries (s : State) (c : CoreId) (u : Nat) (j : Job) : State :=
  match s.summaryBytes c u j with
  | some (a, l) => s.stoPut c a l
  | none => s

/-! ## What a core fault or a core reset leaves of a command in execution (R422, R426) -/

/-- Every byte run that a command of the finishing unit writes. -/
def State.finSegs (s : State) (c : CoreId) (j : Job) : List OutSeg :=
  if isDrain j then (s.drainOut c j).segs
  else if opcode j.cmd = OP_FIN then
    (if j.cnt = 0 ∨ j.desc.len = 0 then [] else (finOut s.mem c j).segs ++ finRecs s.mem c j)
  else if j.cnt = 0 then [] else optSegs s.mem c j ++ (optCopy s.mem c j).segs

/-- Every byte run that the commands in execution on a core's units write: the finishing unit's, and summaries (R249). -/
def State.runningSegs (s : State) (c : CoreId) : List OutSeg :=
  ((s.core c).unit 9).exec.flatMap (s.finSegs c) ++
    (List.range 8).flatMap fun u => (((s.core c).unit u).exec.filter fun j => isBuild j && j.stage == 3).filterMap fun j =>
      (s.summaryBytes c u j).map fun p => ownSeg c p.1 p.2

/-- The words of what is in execution that had been presented take effect: each word of the destinations holds its old value or its
new one (R422). Which ones is a free value, for the command that consumes the poison too; log entry 12. -/
def State.present (s : State) (c : CoreId) : State :=
  let ws := (s.runningSegs c).flatMap fun g => splitAtBounds 8 g.data.length g.addr g.data
  let out := ws.zipIdx.filter fun p => Config.presented (s.free + p.2)
  { (s.writeSegs c (out.map fun p => { addr := p.1.1, data := p.1.2 })) with free := s.free + ws.length }

end Sys2Proof.Machine
end

