-- ==== Sys2Proof/Machine/Issue.lean ====
section
/-! DEFINITION. How a context issues a command, and how commands complete (08 R186 to R220, 04 R108 to R112, 12 R308 to R318).

`issueHead` takes the head command through the checks of R218 and starts it; `complete` ends a command and posts its signal;
`settle` lets every context whose hold has ended go on; `stopCore` stops a core that has a core fault. -/

namespace Sys2Proof.Machine
open Sys2Proof

/-! ## Where a command is carried out (R186) -/

/-- DMA queue of a DMA command. -/
def dmaQueueOf (w : Cmd) : QId :=
  let op := opcode w
  Fin.ofNat 8 (if op = OP_MOVE then cf w 2 16 3 else if op = OP_XPOSE then cf w 2 13 3 else if op = OP_RSIGNAL then cf w 1 5 3
    else cf w 1 24 3)

/-- Unit of a command, as `Core.live` numbers units: 0 to 9 `Core.units`, 10 + q a DMA queue; none: the sequencer. -/
def unitOf (w : Cmd) : Option Nat :=
  let op := opcode w
  if op = OP_TBUILD ∨ op = OP_TILE ∨ op = OP_STILE then (if engUnit w < 9 then some (engUnit w) else none)
  else if op = OP_DRAIN ∨ op = OP_FIN ∨ op = OP_OPT then some 9
  else if op = OP_MOVE ∨ op = OP_FILL ∨ op = OP_COPY ∨ op = OP_XPOSE ∨ op = OP_RSIGNAL then some (10 + (dmaQueueOf w).val)
  else none

/-- The sequencer's own commands among `Core.live`. -/
def U_SEQ := 18

/-- Free entries of the queue of a unit: its depth is 4, of a DMA queue 16 (R186). -/
def Core.freeSlots (k : Core) (u : Nat) : Nat :=
  if u < 10 then 4 - (k.unit u).queue.length else 16 - (k.dmaq[Fin.ofNat 8 (u - 10)]).queue.length

/-- The queue of a unit has a free entry. -/
def Core.hasRoom (k : Core) (u : Nat) : Bool := k.freeSlots u != 0

/-- A context has commands issued and not complete. -/
def Core.busy (k : Core) (x : CtxId) : Bool := k.live.any fun e => e.2.1 == x

/-- The head command may not issue yet: its queue is full, or its ord flag waits (R187, R192). -/
def Core.holdsHead (k : Core) (x : CtxId) (w : Cmd) : Bool :=
  (match unitOf w with
   | some u => !k.hasRoom u
   | none => false) || (flagOrd w && k.busy x)

/-! ## Faults (R219, R220, R421) -/

/-- A fault has been found: the context issues nothing more; FAULT_RECORD records it (R219). The faulted command, `w`, stays the
head of the stream, as a save shows it (R185). -/
def State.foundFault (s : State) (c : CoreId) (x : CtxId) (r : Rec) (off : Nat) (w : Option Cmd) : State :=
  s.modCtx c x fun t => { (t.go .hold) with hold := .fault r off, head := w, pre := false, desc := none, bad := none }

/-- Details of POISON_CONSUMED (R421); `word` is a package word; `ecc`: the same read found the uncorrectable error. -/
def poisonRec (op : Nat) (x : CtxId) (unit port word : Nat) (ecc : Bool) : Rec :=
  mkRec 0x0303 (op + x.val <<< 8 + unit <<< 10 + port <<< 14) (word % 0x100_0000) (bn ecc) 0

/-- The first poisoned word, ascending, that some of the runs touch. -/
def State.firstPoison (s : State) (rs : List Range) : Option Nat :=
  s.mem.poison.find? fun w => rs.any fun r => r.len != 0 && decide (r.addr / 8 ≤ w ∧ w ≤ (r.addr + r.len - 1) / 8)

/-- A transaction at a core fault: a write that it has not presented is not made (R220, R422). -/
def Txn.cut (t : Txn) : Txn := if t.sent.isNone ∧ t.got.isNone then { t with wrote := true } else t

/-- A core fault that unit `u` raises: every context FROZEN, the record in the sequencer page (R220, R421). -/
def State.stopCore (s : State) (c : CoreId) (u : Nat) (r : Rec) : State :=
  (s.modCore c fun k =>
    { k with fault := true
             acFault := some u
             txns := k.txns.map Txn.cut
             ctxs := k.ctxs.map fun t =>
               let t := { t with resetting := false }
               if t.run = .frozen then t else { t with run := .frozen, under := t.run } }).recordFault
    (.seq c) r

/-- The record of a core fault gives way to that of a lower unit of the same ac: one fault, one record (R428). -/
def State.retellFault (s : State) (c : CoreId) (u : Nat) (r : Rec) : State :=
  let p := Page.seq c
  let old : LogSrc := { page := w32 p.base, code := 0x0303, info := #v[s.pg p PG_ERR_INFO0, s.pg p (PG_ERR_INFO0 + 4),
    s.pg p (PG_ERR_INFO0 + 8), s.pg p (PG_ERR_INFO0 + 12)], wdog := false }
  let new : LogSrc := { old with info := #v[r.i0, r.i1, r.i2, r.i3] }
  let s := (s.modCore c fun k => { k with acFault := some u }).modMgmt fun m =>
    { m with logq := m.logq.map fun l => if l = old then new else l }
  ((((s.setPg p PG_ERR_INFO0 r.i0).setPg p (PG_ERR_INFO0 + 4) r.i1).setPg p (PG_ERR_INFO0 + 8) r.i2).setPg p (PG_ERR_INFO0 + 12) r.i3)

/-- Unit `u` raises a core fault (R220, R421); of two units in one ac the lower one is told (R428). -/
def State.coreFault (s : State) (c : CoreId) (u : Nat) (r : Rec) : State :=
  if (s.core c).fault then (if (s.core c).acFault.any (u < ·) then s.retellFault c u r else s)
  else (s.present c).stopCore c u r

/-! ## Loops and CTX_PC (R213) -/

def State.setPc (s : State) (c : CoreId) (x : CtxId) (v : Nat) : State := s.setPg (.ctx c x) CTX_PC (w32 v)

/-- The active levels whose end is `y`, most recently entered first: the levels left, and where the stream goes on. -/
def loopScan (y : Nat) : List Loop → List Loop × Option Nat
  | [] => ([], none)
  | l :: r =>
    if l.stop = y then
      (if 1 < l.count then ({ l with count := l.count - 1 } :: r, some l.start) else loopScan y r)
    else
      let (t, n) := loopScan y r
      (l :: t, n)

/-- The next offset after a command that does not redirect. -/
def State.stepPc (s : State) (c : CoreId) (x : CtxId) (off : Nat) : State :=
  let (ls, n) := loopScan off (s.ctx c x).loops
  (s.modCtx c x fun t => { t with loops := ls }).setPc c x (n.getD (off + 1))

/-! ## Commands leave the sequencer and complete -/

/-- The completion signal of a command: its csid's word, as sampled at issue (R192). -/
def State.sigOf (s : State) (c : CoreId) (x : CtxId) (w : Cmd) : Option SigTarget :=
  if flagCs w then
    let e := s.mapEntry c x (csidOf w)
    some { core := mapCore e, word := mapWord e }
  else none

/-- The 16 words of the output descriptor at issue (R195). -/
def State.readDesc (s : State) (c : CoreId) (w : Cmd) : Desc :=
  if usesDesc w then Vector.ofFn fun i => w32 (s.mem.le (stoBase c + 64 * descL21 w + 4 * i.val) 4) else Desc.zero

/-- Number of the row-count or element-count shape field of a command. -/
def cntField (w : Cmd) : Nat := if opcode w = OP_OPT then 5 else 3

/-- A command as it issues: shapes, slot count, signal and guard sampled (R115, R161, R195, R253). -/
def State.mkJob (s : State) (c : CoreId) (x : CtxId) (w : Cmd) (d : Desc) (off : Nat) : Job :=
  let m := s.shapeOf c x w 0
  let n := s.shapeOf c x w 1
  let k := s.shapeOf c x w 2
  { uid := (s.core c).nextUid, ctx := x, off := off, cmd := w, desc := d, m := m, n := n, k := k,
    cnt := s.shapeOf c x w (cntField w), slots := s.loftCfg c (engUnit w), sig := s.sigOf c x w,
    key := if opcode w = OP_TILE then ((s.core c).builds[Fin.ofNat 8 (cf w 1 21 3)])[Fin.ofNat 2 (cf w 1 24 1)] else none,
    guard := if s.isGuarded c w m n k then .waiting else .free, stage := 0, sat := false }

/-- A command issues: it is counted, it is the arbitration's last issuer, it is live (R188, R209, R416). -/
def State.countIssue (s : State) (c : CoreId) (x : CtxId) (unit : Nat) : State :=
  let a := (s.core c).arb
  let switched := a.last.isSome && a.last != some x
  let s := ((s.bump (.seq c) 0 1).bump (.ctx c x) 0 1).bump (.seq c) 1 (bn switched)
  s.modCore c fun k =>
    { (k.modCtx x fun t => { t with head := none, pre := false, desc := none, bad := none }) with
      arb := { last := some x, streak := if a.last = some x then a.streak + 1 else 1, since := 0, grant := none,
               age := a.age.set x 0 }
      nextUid := k.nextUid + 1
      live := k.live ++ [(k.nextUid, x, unit)] }

/-- A command ends and posts its completion signal, unless a core fault stands or a core reset discards it (R186, R220, R426: of
units too; DEDUCED, log entry 12). -/
def State.complete (s : State) (c : CoreId) (j : Job) : State :=
  let s := s.retire c j.uid
  match j.sig with
  | some t => if (s.core c).fault || (s.core c).resetting then s else s.signal c j.ctx t 1 none
  | none => s

/-- A command enters the queue of its unit. -/
def State.enqueue (s : State) (c : CoreId) (u : Nat) (j : Job) : State :=
  s.modCore c fun k =>
    if u < 10 then k.modUnit u fun t => { t with queue := t.queue ++ [j] }
    else k.modQueue (Fin.ofNat 8 (u - 10)) fun q => { q with queue := q.queue ++ [j] }

/-- A context is held, having issued its command. -/
def State.holdCtx (s : State) (c : CoreId) (x : CtxId) (h : Hold) : State :=
  s.modCtx c x fun t => { (t.go .hold) with hold := h }

/-- A held context goes on. -/
def State.unholdCtx (s : State) (c : CoreId) (x : CtxId) : State :=
  s.modCtx c x fun t => { (t.go .ready) with hold := .free }

/-! ## RERUN (R108 to R112, R314) -/

def satTag (w : Cmd) : Nat := cf w 1 0 6
def rerunLine (w : Cmd) : LineId := Fin.ofNat 16 (cf w 1 8 4)
def rerunPooled (w : Cmd) : Bool := cb w 1 7

/-- FU_RERUN_STAT and FU_RERUN_SUM of one outcome (R105). -/
def State.setRerun (s : State) (c : CoreId) (j : Job) (pooled taken fault : Bool) (value : Nat) : State :=
  (s.setPg (.fu c) FU_RERUN_STAT
    (w32 (satTag j.cmd + j.ctx.val <<< 6 + (if rerunPooled j.cmd then (rerunLine j.cmd).val else 0) <<< 8 + bn pooled <<< 12 +
      bn taken <<< 13 + bn fault <<< 14 + 1 <<< 31))).setPg (.fu c) FU_RERUN_SUM (w32 value)

/-- The snapshot of RERUN's tag, and the clear with it (R109). -/
def State.rerunSnap (s : State) (c : CoreId) (j : Job) : State :=
  let t := satTag j.cmd
  let s := s.setPg (.fu c) (FU_QSAT_SNAP t) (s.pg (.fu c) (FU_QSAT_CNT t))
  if cb j.cmd 1 6 then s.setPg (.fu c) (FU_QSAT_CNT t) 0 else s

/-- The outcome of a RERUN on the compared value (R110, R111). -/
def State.rerunOutcome (s : State) (c : CoreId) (j : Job) (value : Nat) (pooled : Bool) (go : State → State) : State :=
  let x := j.ctx
  let thr := j.cmd[2].toNat
  let tgt := cf j.cmd 3 0 24
  if value < thr then (go ((s.setRerun c j pooled false false value).stepPc c x j.off)).complete c j
  else if tgt = 0 then
    ((s.setRerun c j pooled false true value).retire c j.uid).foundFault c x
      (mkRec 0x0108 (satTag j.cmd + (if rerunPooled j.cmd then (rerunLine j.cmd).val else 0) <<< 8) value thr 0) j.off (some j.cmd)
  else (go ((s.setRerun c j pooled true false value).setPc c x tgt)).complete c j

/-- The line wait of a BARRIER or a pooled RERUN (R312). -/
def lineWait (s : State) (c : CoreId) (j : Job) (k : WaitKind) (l : LineId) (plan : List (Byte × Nat × W32)) : Wait :=
  let cl := tclassOf j.cmd
  { ctx := j.ctx, kind := k, vid := 0, word := 0, line := l, n := 0, tclass := cl, remain := s.timeout c cl, job := j, plan := plan }

/-- A core arrives at a line: false when it is outside the mask (R312, R314). -/
def State.inMask (s : State) (c : CoreId) (l : LineId) : Bool := (s.rafMask l).testBit c.val

/-- A RERUN whose context's earlier commands have completed (R108, R109). -/
def State.rerunRun (s : State) (c : CoreId) (j : Job) : State :=
  let s := s.rerunSnap c j
  let own := (s.pg (.fu c) (FU_QSAT_SNAP (satTag j.cmd))).toNat
  let l := rerunLine j.cmd
  if rerunPooled j.cmd then
    if s.inMask c l then (s.enqueueWait c (lineWait s c j .rerun l [])).arrive l c true
    else (s.bump .pkg 1 1).rerunOutcome c j own false fun s => s.unholdCtx c j.ctx
  else s.rerunOutcome c j own false fun s => s.unholdCtx c j.ctx

/-! ## Settling -/

/-- A HALT completes (R211). -/
def State.haltDone (s : State) (c : CoreId) (j : Job) (code : W16) : State :=
  let x := j.ctx
  let s := (s.modCtx c x fun t => { (t.go .halted) with hold := .free }).setPg (.ctx c x) CTX_HALT (w32 code.toNat)
  (s.event (.ctx c x) EVT_HALT).complete c j

/-- The last step of a context reset (R425). -/
def State.resetDone (s : State) (c : CoreId) (x : CtxId) : State :=
  (s.modCtx c x fun t =>
    { (t.go .halted) with pend := false, head := none, pre := false, desc := none, bad := none, loops := [], hold := .free,
                          saveOp := .none, again := none, resetting := false }).setPg (.ctx c x) CTX_HALT 0xFFFE

/-- Other commands of the context than `uid` are complete. -/
def Core.alone (k : Core) (x : CtxId) (uid : Nat) : Bool := !(k.live.any fun e => e.2.1 == x && e.1 != uid)

/-- Commands of a context in halted DMA queues are discarded with their signals: they count as completed (R425 step 3). -/
def State.dropHalted (s : State) (c : CoreId) (x : CtxId) : State :=
  s.modCore c fun k =>
    let gone := k.dmaq.toList.flatMap fun d =>
      if d.halted then ((d.queue ++ d.run.map (·.job)).filter (·.ctx == x)).map (·.uid) else []
    { k with
      dmaq := k.dmaq.map fun d =>
        if d.halted then { d with queue := d.queue.filter (·.ctx != x), run := d.run.filter (·.job.ctx != x) } else d
      live := k.live.filter fun e => !gone.contains e.1 }

/-- A register of a core's pages or sync page that a core reset sets to its reset value: the block-specific ones (R426). -/
def coreBlockReg (c : CoreId) (off : Nat) : Bool :=
  let p := off / 0x1000
  decide (0x100 ≤ off % 0x1000) && (decide (0x100 + 16 * c.val ≤ p ∧ p < 0x110 + 16 * c.val) || p == 0x500 + c.val)

/-- Step 3 of a core reset: the state of the core (R426). What the table does not name and no reset may disturb stays: signals
on their way, the numbers of commands and postings, shelves, the island; a PHASE that waited for its decision is gone (R392, R393). -/
def State.coreResetDone (s : State) (c : CoreId) : State :=
  let s := (if (s.core c).fault then s else s.present c).restoreVar c
  let s := { s with regs := s.regs.filter fun e => !coreBlockReg c e.1
                    loft := s.loft.filter fun e => e.1 / (9 * 8 * 8192) != c.val }
  let s := s.setPg (.sto c) STO_INIT 1
  let s := s.modCore c fun k =>
    { Core.reset with nextUid := k.nextUid, inbox := k.inbox, acks := k.acks, nextPost := k.nextPost, shelves := k.shelves,
                      island := k.island }
  let s := (List.finRange 16).foldl (fun s l => s.arrive l c false) s
  s.modPower fun p => { p with counts := p.counts.filter fun e => e.1 / 65536 != c.val }

/-- A mesh posting has no acknowledgement yet: a signal, or a write to another core's storeroom (R209). -/
def Core.unacked (k : Core) (n : Nat) : Bool := (k.posts.any fun p => p.num == n) || k.txns.any fun t => t.num == some n

/-- One context goes on when what held it has ended; true when something happened. -/
def State.settleCtx (s : State) (c : CoreId) (x : CtxId) : State × Bool :=
  let s := if (s.ctx c x).resetting then s.dropHalted c x else s
  let k := s.core c
  match (k.ctx x).hold with
  | .fence j uids posts =>
    if uids.any (fun u => k.live.any fun e => e.1 == u) || posts.any (fun n => k.unacked n) then (s, false)
    else ((s.unholdCtx c x).complete c j, true)
  | .rerun j => if k.alone x j.uid then (s.rerunRun c j, true) else (s, false)
  | .halt j code => if k.alone x j.uid then (s.haltDone c j code, true) else (s, false)
  | _ => if (k.ctx x).resetting && !k.busy x then (s.resetDone c x, true) else (s, false)

/-- FIN and OPT start by themselves when the finishing unit is free (R222): the head of its queue enters execution. -/
def State.startFin (s : State) (c : CoreId) : State × Bool :=
  let u := (s.core c).unit 9
  match u.exec, u.queue with
  | [], j :: r =>
    if opcode j.cmd = OP_FIN ∨ opcode j.cmd = OP_OPT then
      (s.modCore c fun k => k.modUnit 9 fun _ => { queue := r, exec := [j] }, true)
    else (s, false)
  | _, _ => (s, false)

/-- One pass over the finishing unit and the contexts of a core. -/
def State.settleOnce (s : State) (c : CoreId) : State × Bool :=
  let a := s.startFin c
  (List.finRange 4).foldl (fun a x => let (s, b) := a.1.settleCtx c x; (s, a.2 || b)) a

/-- Every hold that has ended ends; nothing does while a core fault stands (R220). The fuel bounds the chain: each pass in which
something happens ends a hold of a context or starts the finishing unit. -/
def State.settleN : Nat → State → CoreId → State
  | 0, s, _ => s
  | f + 1, s, c =>
    if (s.core c).fault then s
    else
      let (s, b) := s.settleOnce c
      if b then State.settleN f s c else s

/-- Every hold that has ended ends. A core under reset is ready once its last DMA transaction is over (R426). -/
def State.settle (s : State) (c : CoreId) : State :=
  if (s.core c).resetting then (if (s.core c).txns.isEmpty then s.coreResetDone c else s) else State.settleN 8 s c

/-! ## What each opcode does at issue -/

/-- Underflow of a decrement (R297). -/
def underflowRec (w : Cmd) (word : Nat) (core : CoreId) (count m : Nat) : Rec :=
  mkRec 0x0201 (OP_SIGNAL + cf w 1 0 8 <<< 8) (word + core.val <<< 24) count m

/-- Refusal of a decrement under SYNC_PEERS (R298). -/
def refusedRec (w : Cmd) : Rec := mkRec 0x0205 (OP_SIGNAL + cf w 1 0 8 <<< 8 + 2 <<< 16) 0 0 0

/-- SIGNAL (R208, R296, R297). -/
def State.issueSignal (s : State) (c : CoreId) (j : Job) : State :=
  let e := s.mapEntry c j.ctx (cf j.cmd 1 0 8)
  let t : SigTarget := { core := mapCore e, word := mapWord e }
  let n := j.cmd[2]
  if n = 0 then s.complete c j
  else if n.msb then
    let m := 0x1_0000_0000 - n.toNat
    if t.core = c then
      let (s, r) := s.applyDecrement c t.word m (gcidOf c j.ctx)
      match r with
      | none => s.complete c j
      | some cnt => (s.retire c j.uid).foundFault c j.ctx (underflowRec j.cmd t.word c cnt m) j.off (some j.cmd)
    else
      let (s, num) := s.postRemote c j.ctx t m true (some j)
      s.holdCtx c j.ctx (.decrement j num)
  else if t.core = c then (s.applySignal c t.word n.toNat (gcidOf c j.ctx)).complete c j
  else (s.postRemote c j.ctx t n.toNat false (some j)).1

/-- WAIT (R300). -/
def State.issueWait (s : State) (c : CoreId) (j : Job) : State :=
  let vid := cf j.cmd 1 0 8
  let n := j.cmd[2].toNat
  if n = 0 then s.complete c j
  else
    let cl := tclassOf j.cmd
    let w : Wait :=
      { ctx := j.ctx, kind := .wait, vid := BitVec.ofNat 8 vid, word := mapWord (s.mapEntry c j.ctx vid), line := 0, n := n, tclass := cl,
        remain := s.timeout c cl, job := j, plan := [] }
    let (s, ok) := s.waitWord c w
    if ok then s.complete c j else s

/-- BARRIER (R312, R314, R316). -/
def State.issueBarrier (s : State) (c : CoreId) (j : Job) : State :=
  let l : LineId := Fin.ofNat 16 (cf j.cmd 1 0 4)
  if s.inMask c l then
    let plan := if cb j.cmd 1 4 then
        (s.realignList c (cf j.cmd 2 0 21)).map fun (v, p) => (v, mapWord (s.mapEntry c j.ctx v.toNat), p)
      else []
    (s.enqueueWait c (lineWait s c j .barrier l plan)).arrive l c true
  else (s.bump .pkg 1 1).complete c j

/-- A unit is named by a FENCE (R209). -/
def fenceNames (w : Cmd) (u : Nat) : Bool :=
  if u < 10 then cb w 1 u else if u < 18 then cb w 1 (10 + (u - 10)) else false

/-- FENCE (R209). -/
def State.issueFence (s : State) (c : CoreId) (j : Job) : State :=
  let k := s.core c
  let uids := (k.live.filter fun e => fenceNames j.cmd e.2.2).map (·.1)
  let posts := if cb j.cmd 1 18 then
      (k.posts.filter fun p => p.ctx == j.ctx).map (·.num) ++ (k.txns.filter fun t => t.ctx == j.ctx).filterMap (·.num)
    else []
  if uids.isEmpty && posts.isEmpty then s.complete c j else s.holdCtx c j.ctx (.fence j uids posts)

/-- LOOP (R160, R213): `v` its count. -/
def State.issueLoop (s : State) (c : CoreId) (j : Job) (v : Nat) : State :=
  let len := cf j.cmd 3 0 24
  let lvl := cf j.cmd 2 8 3
  if v = 0 ∨ len = 0 then (s.setPc c j.ctx (j.off + len + 1)).complete c j
  else
    ((s.modCtx c j.ctx fun t =>
      { t with loops := { lvl := lvl, start := j.off + 1, stop := j.off + len, count := v } :: t.loops.filter fun l => l.lvl != lvl }).setPc
      c j.ctx (j.off + 1)).complete c j

/-- JUMP (R211, R213). -/
def State.issueJump (s : State) (c : CoreId) (j : Job) : State :=
  let tgt := cf j.cmd 1 0 24
  ((s.modCtx c j.ctx fun t => { t with loops := t.loops.filter fun l => decide (l.start ≤ tgt ∧ tgt ≤ l.stop) }).setPc
    c j.ctx tgt).complete c j

/-- A TBUILD that issues is the latest on its group for its buffer (R253). -/
def State.noteBuild (s : State) (c : CoreId) (j : Job) : State :=
  let g := cf j.cmd 1 21 4
  if opcode j.cmd = OP_TBUILD ∧ g < 8 then
    s.modCore c fun k =>
      { k with builds := vmod k.builds (Fin.ofNat 8 g) fun v =>
          v.set (Fin.ofNat 2 (cf j.cmd 1 25 1)) (some (j.uid, stoBase c + 64 * cf j.cmd 1 0 21)) }
  else s

/-! ## Link ports as RSIGNAL meets them (R210, R349, R368, R372, R374, R377) -/

def LNK_DISABLED := 0
def LNK_TRAINING := 1
def LNK_UP := 2
def LNK_LOST := 3

def State.lnkState (s : State) (i : PortId) : Nat := bits (s.pg (.lnk i) LNK_STAT) 0 2
def State.linkUp (s : State) (i : PortId) : Bool := s.lnkState i == LNK_UP

def rsPort (w : Cmd) : PortId := Fin.ofNat 16 (cf w 1 0 4)
def rsHid (w : Cmd) : Nat := cf w 1 8 8
/-- Bytes of the data of an RSIGNAL. -/
def rsBytes (w : Cmd) : Nat := 64 * cf w 3 0 24
/-- A signal follows the data. -/
def rsSigs (w : Cmd) : Bool := cb w 1 4 && w[6] != 0

/-- The record of an ended RSIGNAL in the page of its context (R374). -/
def rsEndRec (code : Nat) (w : Cmd) (sig : Bool) (off : Nat) (rid : Option W16) : Rec :=
  mkRec code (OP_RSIGNAL + (rsPort w).val <<< 8 + rsHid w <<< 12 + bn sig <<< 20) off ((rid.map BitVec.toNat).getD 0) 0

/-- An RSIGNAL ends without its signal: its queue halts, its context records why (R368, R372). -/
def State.endRsignal (s : State) (c : CoreId) (q : QId) (r : DmaRun) (rec_ : Rec) : State :=
  (s.modCore c fun k =>
    { k with dmaq := vmod k.dmaq q fun d =>
        { d with halted := true,
                 run := d.run.map fun t => if t.job.uid = r.job.uid then { t with withheld := true, started := true } else t } }).record
    (.ctx c r.job.ctx) rec_

/-- An RSIGNAL before its first transaction. -/
def rsRun (j : Job) : DmaRun :=
  { job := j, row := 0, off := 0, snap := [], out := none, got := [], full := none, rid := none, chan := none, miss := none,
    started := false, withheld := false }

/-- An RSIGNAL that issues to a port that is not UP sends no transaction: its queue halts and its signal is withheld (R372). -/
def State.refuseRsignal (s : State) (c : CoreId) (j : Job) : State :=
  let q := dmaQueueOf j.cmd
  (s.modCore c fun k => k.modQueue q fun d => { d with run := d.run ++ [rsRun j] }).endRsignal c q (rsRun j) (rsEndRec 0x0401 j.cmd false 0 none)

/-- A command enters its unit's queue; an RSIGNAL with data to a port that is not UP ends there and then. -/
def State.accept (s : State) (c : CoreId) (u : Nat) (j : Job) : State :=
  if opcode j.cmd = OP_RSIGNAL ∧ rsBytes j.cmd ≠ 0 ∧ !s.linkUp (rsPort j.cmd) then s.refuseRsignal c j else s.enqueue c u j

/-! ## A command issues -/

/-- A command has passed its checks and issues. -/
def State.issueNow (s : State) (c : CoreId) (x : CtxId) (w : Cmd) (d : Desc) (off : Nat) : State :=
  let op := opcode w
  let j := s.mkJob c x w d off
  let v := s.shapeOf c x w 4
  match unitOf w with
  | some u => ((((s.countIssue c x u).stepPc c x off).noteBuild c j).accept c u j)
  | none =>
    let s := s.countIssue c x U_SEQ
    if op = OP_LOOP then s.issueLoop c j v
    else if op = OP_JUMP then s.issueJump c j
    else if op = OP_RERUN then
      (if w[2] = 0 then (s.stepPc c x off).complete c j else s.holdCtx c x (.rerun j))
    else if op = OP_PHASE ∧ x = 0 then (s.holdCtx c x (.phase j (cf w 1 0 16) none)).carry (bayOf c) mgtBay false
    else
      let s := s.stepPc c x off
      if op = OP_SIGNAL then s.issueSignal c j
      else if op = OP_WAIT then s.issueWait c j
      else if op = OP_BARRIER then s.issueBarrier c j
      else if op = OP_FENCE then s.issueFence c j
      else if op = OP_HALT then s.holdCtx c x (.halt j (BitVec.ofNat 16 (cf w 1 0 16)))
      else s.complete c j

/-! ## The checks of R218 in order -/

/-- What the sequencer reads of the storeroom besides the command: descriptor and realign list (R195, R316). -/
def State.seqReads (s : State) (c : CoreId) (w : Cmd) : List Range :=
  let base := stoBase c
  (if usesDesc w then [⟨.own, base + 64 * descL21 w, 64⟩] else []) ++
  (if opcode w = OP_BARRIER ∧ cb w 1 4 then
     [⟨.own, base + 64 * cf w 2 0 21, 8 + 8 * (realignInside (cf w 2 0 21) (s.realignList c (cf w 2 0 21))).length⟩]
   else [])

/-- Checks 1 to 4 (R218). -/
def State.headFault (s : State) (c : CoreId) (x : CtxId) (w : Cmd) (d : Desc) : Option Rec :=
  if !opcodes.contains (opcode w) then some (mkRec 0x0101 0 w[0].toNat 0 0)
  else
    let r : CkRegs := { phaseCnt := (s.pg (.seq c) SEQ_PHASE_CNT).toNat, ctxLen := (s.pg (.ctx c x) CTX_LEN).toNat }
    (fieldFail r w d).orElse fun _ =>
      if opcode w = OP_XPOSE ∧ !bit (s.pg (.ctx c x) CTX_CFG) 2 then some (mkRec 0x0105 OP_XPOSE 0 0 0) else s.mapFail c x w

/-- The read by which the sequencer met a poisoned word found the uncorrectable error itself (R421; log entry 22). -/
def State.eccFound (s : State) (c : CoreId) (x : CtxId) (w : Nat) : Bool := (s.core c).eccRead.contains w || (s.ctx c x).bad == some (w, true)

/-- Poison that the sequencer reads, then checks 1 to 4 (R218, R421). `bad`: a poisoned word of the command itself. -/
def State.earlyFault (s : State) (c : CoreId) (x : CtxId) (w : Cmd) (d : Desc) (bad : Option Nat) : Option Rec :=
  match bad.orElse (fun _ => s.firstPoison ((s.seqReads c w).filter fun r => (s.rangeFail c r).isNone)) with
  | some p => some (poisonRec (opcode w) x 10 4 p (s.eccFound c x p))
  | none => s.headFault c x w d

/-- Checks 6 to 8. -/
def State.lateFault (s : State) (c : CoreId) (x : CtxId) (w : Cmd) (d : Desc) (off : Nat) : Option Rec :=
  (s.shapeFail c x w off).orElse fun _ => (s.loftFail c x w).orElse fun _ =>
    s.stoFail c w (s.cmdRanges c w d (s.shapeOf c x w 0) (s.shapeOf c x w 1) (s.shapeOf c x w 2) (s.shapeOf c x w (cntField w)))

/-- The pre-wait of a command (R192, R300). -/
def State.preWaitOf (s : State) (c : CoreId) (x : CtxId) (w : Cmd) (off : Nat) : Wait :=
  let cl := tclassOf w
  { ctx := x, kind := .preWait, vid := BitVec.ofNat 8 (pwidOf w), word := mapWord (s.mapEntry c x (pwidOf w)), line := 0, n := 1,
    tclass := cl, remain := s.timeout c cl, job := s.mkJob c x w Desc.zero off, plan := [] }

/-- Checks 6 to 8, then issue. -/
def State.issueLate (s : State) (c : CoreId) (x : CtxId) (w : Cmd) (d : Desc) (off : Nat) : State :=
  match s.lateFault c x w d off with
  | some r => s.foundFault c x r off (some w)
  | none => s.issueNow c x w d off

/-- The pre-wait passes, and the command goes through its last checks; or the context waits, with the descriptor it has read
(R195, R300). -/
def State.preWait (s : State) (c : CoreId) (x : CtxId) (w : Cmd) (d : Desc) (off : Nat) : State :=
  let r := s.waitWord c (s.preWaitOf c x w off)
  if r.2 then r.1.issueLate c x w d off else r.1.modCtx c x fun t => { t with desc := some d }

/-- The head command of a context is granted the issue slot. After a pre-wait it goes on with the descriptor as read before it
(R195), and only checks 1 to 4 look at the registers again; a pre-wait that a restore has brought back has read none yet. -/
def State.issueHead (s : State) (c : CoreId) (x : CtxId) (w : Cmd) (bad : Option Nat) : State :=
  let off := (s.pg (.ctx c x) CTX_PC).toNat
  let s := s.modCtx c x fun t =>
    { (t.go .ready) with hold := .free, head := some w, pre := t.pre && t.head == some w }
  if (s.core c).holdsHead x w then s.holdCtx c x .head
  else
    let pre := (s.ctx c x).pre
    let kept := if pre then (s.ctx c x).desc else none
    let d := kept.getD (s.readDesc c w)
    let t := match if kept.isSome then s.headFault c x w d else s.earlyFault c x w d bad with
      | some r => s.foundFault c x r off (some w)
      | none => if flagPw w && !pre then s.preWait c x w d off else s.issueLate c x w d off
    t.settle c

end Sys2Proof.Machine
end

