-- ==== Sys2Proof/Machine/Units.lean ====
section
/-! DEFINITION. What the engine groups, the sparse engines and the finishing unit do: starts under the interlocks of R47, R122,
R143, R258, and completions (02, 04, 05, 06, 09, 10). A command reads and writes when it completes (log entry 13), save where
another that may start only after its reads starts first: a TILE's passes and a DRAIN's reads of its slot end before that. -/

namespace Sys2Proof.Machine
open Sys2Proof

/-! ## Fields of a job -/

/-- It reads planes and a buffer: neither a no-op nor an empty step. -/
def tileRuns (j : Job) : Bool := !tileNoop j && j.k != 0

/-- Two sweeps: a two-slice TBUILD of a dense group (R45). -/
def twoSweeps (j : Job) : Bool := decide (8 < buildW j.cmd) && engUnit j.cmd != 8

/-- Buffers that a TBUILD has still to write (R45, R47). -/
def pendingBufs (j : Job) : List Nat :=
  let b := buildBuf j.cmd
  if !twoSweeps j then [b] else if j.stage < 2 then [b, 1 - b] else [1 - b]

/-- A two-slice TILE: it reads the named buffer in pass 0 and the other buffer in pass 1 (R47). -/
def twoPass (j : Job) : Bool := tileRuns j && opcode j.cmd == OP_TILE && decide (8 < tileW j.cmd)

/-- Passes after each of which a buffer is released: an STILE reads one buffer in all its passes (R47, R143). -/
def passes (j : Job) : Nat := if twoPass j then 2 else 1

/-- A TILE or STILE that has planes to read. -/
def reading (j : Job) : Bool := isTile j && decide (j.stage < passes j)

/-- Buffers that a TILE or STILE has still to read (R47, R143). -/
def tileBufs (j : Job) : List Nat :=
  let b := tileBuf j.cmd
  if !tileRuns j then [] else (if twoPass j then [b, 1 - b] else [b]).drop j.stage

/-! ## Interlocks -/

/-- The table or slot set of the first pass is complete (R47, R143). -/
def EngUnit.setReady (u : EngUnit) (j : Job) : Bool :=
  !tileRuns j || !(u.exec.any fun b => isBuild b && decide (b.uid < j.uid) && (pendingBufs b).contains (tileBuf j.cmd))

/-- DRAIN `d` holds the slot of a later TILE or STILE of unit `u`: it has entries of the slot to read, or to restore (R122). -/
def drainHolds (u : Nat) (j d : Job) : Bool :=
  isDrain d && engUnit d.cmd == u && slotOf d.cmd == slotOf j.cmd && decide (d.uid < j.uid) && !drainNoop d && d.stage == 0

/-- No DRAIN issued earlier has still to read or restore an entry of the slot (R122). -/
def Core.slotFree (k : Core) (u : Nat) (j : Job) : Bool :=
  tileNoop j || !(((k.unit 9).queue ++ (k.unit 9).exec).any (drainHolds u j))

/-- A TILE or STILE may start: its first set is complete, the slot is free, the preceding one has read its last plane, an
evaluation is over (R47, R64, R122, R143, R145, R258). -/
def Core.canStart (k : Core) (u : Nat) (j : Job) : Bool :=
  (k.unit u).setReady j && k.slotFree u j && !((k.unit u).exec.any reading) && j.guard != .waiting

/-- No TILE issued before the TBUILD still reads a buffer (R47). -/
def EngUnit.bufFree (u : EngUnit) (j : Job) (b : Nat) : Bool :=
  !(u.exec.any fun t => reading t && decide (t.uid < j.uid) && (tileBufs t).contains b)

/-- Every TILE and STILE issued earlier that writes the slot of a DRAIN has completed (R122). -/
def Core.drainReady (k : Core) (j : Job) : Bool :=
  let u := k.unit (engUnit j.cmd)
  drainNoop j ||
    !((u.queue ++ u.exec).any fun t => isTile t && !tileNoop t && slotOf t.cmd == slotOf j.cmd && decide (t.uid < j.uid))

/-- The next pass of a TILE in execution may run: its first has started with its set complete; before the second no TBUILD issued
earlier has still to write the other buffer (R47). -/
def EngUnit.passReady (u : EngUnit) (j : Job) : Bool :=
  j.stage == 0 || !twoPass j ||
    !(u.exec.any fun b => isBuild b && decide (b.uid < j.uid) && (pendingBufs b).contains (1 - tileBuf j.cmd))

/-! ## Moving jobs -/

/-- The head of a unit's queue enters execution as `j`. -/
def State.startHead (s : State) (c : CoreId) (u : Nat) (j : Job) : State :=
  s.modCore c fun k => k.modUnit u fun t => { queue := t.queue.tail, exec := t.exec ++ [j] }

/-- A job in execution is replaced. -/
def State.replaceJob (s : State) (c : CoreId) (u : Nat) (j : Job) : State :=
  let sub := fun (t : Job) => if t.uid = j.uid then j else t
  s.modCore c fun k => k.modUnit u fun t => { queue := t.queue.map sub, exec := t.exec.map sub }

/-- A job leaves its unit and completes; what it held goes on (R186). -/
def State.finishJob (s : State) (c : CoreId) (u : Nat) (j : Job) : State :=
  ((s.modCore c fun k => k.modUnit u fun t => { t with exec := t.exec.filter fun e => e.uid != j.uid }).complete c j).settle c

/-- The poisoned word that a job's unit would consume, if any (R421). -/
def State.jobPoison (s : State) (c : CoreId) (j : Job) : Option Nat :=
  s.firstPoison (s.unitReads c j.cmd j.desc j.m j.n j.k j.cnt)

/-- Run `f`, or take the core fault of the poison that the job would consume (R220, R421). -/
def State.consume (s : State) (c : CoreId) (unit port : Nat) (j : Job) (f : State) : State :=
  match s.jobPoison c j with
  | some w => s.coreFault c unit (poisonRec (opcode j.cmd) j.ctx unit port w false)
  | none => f

/-- A unit acts: its core runs and no core fault stands (R220). Under a core reset the commands in execution go on (R426). -/
def State.unitUp (s : State) (c : CoreId) : Bool := s.coreUp c && !(s.core c).fault

/-! ## TILE and STILE -/

/-- Engines of the skipped blocks of a guarded TILE: block A engines 0 to 3, block B engines 4 to 7 (R245, R257). -/
def skippedEngines (g : Guard) (e : Nat) : Bool :=
  match g with
  | .done a b => if e < 4 then a else b
  | _ => false

/-- The entry that a skipped block's engines hold in overwrite mode (R257). -/
def skipEntry : Entry := { s := 0xFF7F_0000, c := 0 }

/-- Pass `p` of a TILE that runs, on the buffer it reads: the loft, the flags and the gating counter (R49 to R62, R163, R257). In
pass 0 an overwriting TILE replaces entries, the skipped engines' included (R61). The flag tells that a pair saturated. -/
def State.runPass (s : State) (c : CoreId) (g : Nat) (j : Job) (p : Nat) : State × Bool :=
  let o := cmdOperand c j.cmd
  let b := tileBuf j.cmd
  let tab := ((s.core c).tables[Fin.ofNat 8 g])[Fin.ofNat 2 (if p = 0 then b else 1 - b)]
  let vecs := (List.range j.m).map fun v => tileVec s.mem o v (cf j.cmd 3 0 16)
  let act := activeEngines j.n
  let run := act.filter fun e => !skippedEngines j.guard e
  let skip := act.filter fun e => skippedEngines j.guard e
  let slot := slotOf j.cmd
  let ovr := !tileAcc j.cmd && p == 0
  let gated := run.length * (vecs.map fun v => gatedReads o.fmt.bits v.codes).sum
  let (s, sat) := s.deliverPairs c g j.slots slot run vecs ovr fun e v n => tablePairs tab o.fmt o.g p v e n
  let s := if ovr then s.fillEntries c g j.slots slot skip j.m skipEntry else s
  ((if sat then s.setSlotSat c g slot true else s).bump (unitPage c g) 4 gated, sat)

/-- SE_LAST_STILE (R152). Where a tile is dense-stored the field v still shows V of R139 for S, 4 for an S of 0: DESIGN CHOICE,
log entry 37. -/
def lastStile (t : SlotSet) : W32 :=
  w32 (t.s + vectorsPerPass t.s <<< 8 + bn (t.dtiles != 0) <<< 11 + t.dtiles <<< 12)

/-- The slot set that an STILE runs. -/
def Core.stileSet (k : Core) (j : Job) : SlotSet := k.slotSets[Fin.ofNat 2 (tileBuf j.cmd)]

/-- The passes of an STILE that runs (R140 to R149). What R147 and R152 count and show of them comes with its completion. -/
def State.runStile (s : State) (c : CoreId) (j : Job) : State × Bool :=
  let o := cmdOperand c j.cmd
  let n := cdiv (tileW j.cmd) 8
  let t := (s.core c).stileSet j
  let vecs := (List.range j.m).map fun v => tileVec s.mem o v (cf j.cmd 3 0 16)
  let slot := slotOf j.cmd
  let pairs (e : Nat) (v : Vec) (col : Nat) : List Pair :=
    (List.range n).flatMap fun p => slotPairs t o.fmt o.g n p v e col
  let (s, sat) := s.deliverPairs c 8 j.slots slot (activeEngines j.n) vecs (!tileAcc j.cmd) pairs
  (if sat then s.setSlotSat c 8 slot true else s, sat)

/-- What the next pass of a TILE or STILE does: nothing for a no-op; an empty step in overwrite mode sets its entries to +0 (R162);
the flag tells that a pair saturated. -/
def State.passWork (s : State) (c : CoreId) (u : Nat) (j : Job) : State × Bool :=
  if tileNoop j then (s, false)
  else if j.k = 0 then
    (if tileAcc j.cmd then s else s.fillEntries c u j.slots (slotOf j.cmd) (activeEngines j.n) j.m { s := 0, c := 0 }, false)
  else if u = 8 then s.runStile c j
  else s.runPass c u j j.stage

/-- The next pass of a TILE or STILE in execution ends: its last plane is read and its pairs are in the loft (R47, R61). -/
def State.endPass (s : State) (c : CoreId) (u : Nat) (j : Job) : State :=
  let r := s.passWork c u j
  let packing := if u = 8 ∧ tileRuns j then some (lastStile ((s.core c).stileSet j)) else j.packing
  s.consume c u 0 j (r.1.replaceJob c u { j with stage := j.stage + 1, sat := j.sat || r.2, packing := packing })

/-- The TILE in execution that reads planes ends its next pass, if that pass may run. -/
def State.stepPass (s : State) (c : CoreId) (u : Nat) : State :=
  let t := (s.core c).unit u
  match t.exec.find? reading with
  | some j => if t.passReady j && s.unitUp c then s.endPass c u j else s
  | none => s

/-- The TILEs and STILEs issued before job `j` give up buffer `b`: as long as one still reads it, passes end (R47). -/
def State.freeBuf (s : State) (c : CoreId) (u : Nat) (j : Job) (b : Nat) : State :=
  let one (s : State) : State := if ((s.core c).unit u).bufFree j b then s else s.stepPass c u
  one (one s)

/-- An STILE that ran a slot set completes: SE_LAST_STILE shows the set's packing, and its dense-stored tiles count (R147, R151,
R152). R147 names no moment for the count; spec/95_what_each_step_holds.md lists the rule under STILE_COMPLETE. -/
def State.showPacking (s : State) (c : CoreId) (j : Job) : State :=
  match j.packing with
  | some v => (s.bump (.se c) 1 (bits v 12 4)).setPg (.se c) SE_LAST_STILE v
  | none => s

/-- A TILE or STILE completes: it is counted, and once more if a pair of it saturated (R118, R416). -/
def State.tileOver (s : State) (c : CoreId) (u : Nat) (j : Job) : State :=
  (((s.showPacking c j).bump (unitPage c u) 0 1).bump (unitPage c u) (if u = 8 then 3 else 2) (bn j.sat)).finishJob c u j

/-- The oldest TILE or STILE in execution ends its next pass, if one is left. -/
def State.stepOldest (s : State) (c : CoreId) (u : Nat) : State :=
  if (((s.core c).unit u).exec.find? isTile).any reading then s.stepPass c u else s

/-- The oldest TILE or STILE in execution completes once its last pair is in the loft (R61, R63, R144, R162): passes that have not
ended end now. -/
def State.tileDone (s : State) (c : CoreId) (u : Nat) : State :=
  let s := (s.stepOldest c u).stepOldest c u
  match ((s.core c).unit u).exec.find? isTile with
  | some j => if s.unitUp c && !reading j then s.tileOver c u j else s
  | none => s

/-! ## TBUILD (R45, R142, R249) -/

def State.setTable (s : State) (c : CoreId) (g b : Nat) (t : TableSet) : State :=
  s.modCore c fun k => { k with tables := vmod k.tables (Fin.ofNat 8 g) fun v => v.set (Fin.ofNat 2 b) t }

/-- The set that a sweep builds. -/
def State.sweepTable (s : State) (c : CoreId) (j : Job) (sl : Slice) : TableSet :=
  buildTable s.mem c (cf j.cmd 1 0 21) (cf j.cmd 2 0 16) (buildW j.cmd) sl

/-- The high-slice sweep of a TBUILD starts once its buffer is free (R45, R47). -/
def State.highSweep (s : State) (c : CoreId) (u : Nat) (j : Job) : State :=
  let s := s.freeBuf c u j (1 - buildBuf j.cmd)
  if !s.unitUp c then s
  else s.replaceJob c u { j with stage := if ((s.core c).unit u).bufFree j (1 - buildBuf j.cmd) then 3 else 2 }

/-- The TBUILD at the head of a unit's queue starts its first sweep once its buffer is free (R45, R47, R142). -/
def State.firstSweep (s : State) (c : CoreId) (u : Nat) (j : Job) : State :=
  let s := s.freeBuf c u j (buildBuf j.cmd)
  if s.unitUp c && ((s.core c).unit u).bufFree j (buildBuf j.cmd) then s.startHead c u { j with stage := if twoSweeps j then 1 else 3 }
  else s

/-- Start of a sweep, and the end of a low sweep. -/
def State.sweepStart (s : State) (c : CoreId) (u : Nat) : State :=
  match ((s.core c).unit u).exec.find? isBuild with
  | some j =>
    if j.stage = 1 then s.consume c u 1 j ((s.setTable c u (buildBuf j.cmd) (s.sweepTable c j .low)).highSweep c u j)
    else if j.stage = 2 then s.highSweep c u j
    else s
  | none =>
    match ((s.core c).unit u).queue with
    | j :: _ => if isBuild j then s.firstSweep c u j else s
    | [] => s

/-- A TBUILD completes. -/
def State.buildDone (s : State) (c : CoreId) (u : Nat) : State :=
  match ((s.core c).unit u).exec.find? isBuild with
  | some j =>
    if j.stage = 3 then
      s.consume c u 1 j <|
        if u = 8 then
          let t := buildSlotSet s.mem c (cf j.cmd 1 0 21) (cf j.cmd 2 0 16) (buildW j.cmd)
          (s.modCore c fun k => { k with slotSets := k.slotSets.set (Fin.ofNat 2 (buildBuf j.cmd)) t }).finishJob c u j
        else
          let t := if twoSweeps j then s.setTable c u (1 - buildBuf j.cmd) (s.sweepTable c j .high)
            else s.setTable c u (buildBuf j.cmd) (s.sweepTable c j .whole)
          ((t.captureSummaries c u j).bump (unitPage c u) 1 1).finishJob c u j
    else s
  | none => s

/-! ## Guarded TILEs (R253 to R258, R264) -/

/-- The power state at an evaluation (R264). -/
def State.skipPower (s : State) (c : CoreId) : SkipPower :=
  let sense := s.pg (.fu c) FU_SKIP_SENSE
  { var := (s.core c).island.var.val, thr := bit (s.pg .pwr PWR_STAT) 12, mode := s.skipMode c, tb := bits sense 0 3, vb := bits sense 3 3 }

/-- Bytes of the key pair's summaries; none when the pair has none (R249, R253). -/
def summaryAt (c : CoreId) (j : Job) : Option Nat :=
  match j.key with
  | some (_, a) => if stoBase c + 768 ≤ a then some (a - 768) else none
  | none => none

/-- What an evaluation reads (R255, R421). -/
def State.evalReads (s : State) (c : CoreId) (j : Job) : List Range :=
  s.unitReads c j.cmd j.desc j.m j.n j.k j.cnt ++ s.guardRanges c j.cmd j.m ++
    (match summaryAt c j with
     | some a => [⟨.own, a, if 128 < j.n then 768 else 384⟩]
     | none => []) ++ s.tableRange c

/-- Verdict on key block b (R255, R256). -/
def State.skipVerdict (s : State) (c : CoreId) (j : Job) (b : Nat) : Bool :=
  let mode := s.skipMode c
  let t := s.skipT c
  let sigma := s.pg (.fu c) FU_SKIP_SIGMA
  let bf := bit (s.pg (.fu c) FU_SKIP_CTL) 2
  let o := cmdOperand c j.cmd
  let a := stoBase c + recordOff j.cmd - 64
  let ast := stoBase c + 64 * (s.mem.le a 4 % 0x20_0000)
  let crt := w32 (s.mem.le (a + 4) 4)
  match summaryAt c j with
  | none => false
  | some sa =>
    let sm := s.mem.summary (sa + 384 * b)
    (mode == MODE_NORMAL || mode == MODE_TABLE) && sm.valid && sigmaOk sigma && thresholdOk t &&
      (List.range j.m).all fun r =>
        let slots := if bit crt 31 then s.mem.crateSlots (stoBase c + 64 * bits crt 0 21 + 16 * r) else []
        rowSkips (w32 (s.mem.le (ast + 16 * r) 4))
          (boundP bf sigma (boundSum o.fmt o.g sm (tileVec s.mem o r (cf j.cmd 3 0 16)) slots)) t

/-- The record of one evaluation is updated as one operation (R264). -/
def State.updateRecord (s : State) (c : CoreId) (j : Job) (nEval nSkip : Nat) : State :=
  let off := recordOff j.cmd - 64
  let a := stoBase c + off
  let (ev, sk, tmin, tl, pw) := skipRecord (s.mem.le (a + 8) 4) (s.mem.le (a + 12) 4) (w32 (s.mem.le (a + 16) 4))
    (s.mem.le (a + 24) 2) nEval nSkip (s.skipT c) (s.skipPower c)
  s.stoPut c (off + 8) (toLe 4 ev ++ toLe 4 sk ++ toLe 4 tmin.toNat ++ toLe 4 tl.toNat ++ toLe 2 pw)

/-- The evaluation of the oldest guarded TILE of a group that waits for one (R258); none in mode OFF (R262). -/
def State.evaluate (s : State) (c : CoreId) (g : Nat) : State :=
  match ((s.core c).unit g).queue.find? fun j => j.guard == .waiting with
  | none => s
  | some j =>
    let built := match j.key with
      | some (u, _) => !((s.core c).live.any fun e => e.1 == u)
      | none => true
    if !built || s.skipMode c == MODE_OFF then s
    else
      match s.firstPoison (s.evalReads c j) with
      | some w => s.coreFault c g (poisonRec (opcode j.cmd) j.ctx g 0 w false)
      | none =>
        let two := decide (128 < j.n)
        let va := s.skipVerdict c j 0
        let vb := two && s.skipVerdict c j 1
        let nEval := 1 + bn two
        let nSkip := bn va + bn vb
        (((s.updateRecord c j nEval nSkip).bump (.fu c) 2 nEval).bump (.fu c) 3 nSkip).replaceJob c g { j with guard := .done va vb }

/-! ## The finishing unit -/

/-- Clips count on a tag (R104). -/
def State.countClips (s : State) (c : CoreId) (tag n : Nat) : State :=
  if n = 0 then s else s.setPg (.fu c) (FU_QSAT_CNT tag) (w32 (sat32 ((s.pg (.fu c) (FU_QSAT_CNT tag)).toNat + n)))

/-- Crate overflow is recorded in the page of the issuing context (R103). -/
def State.crateFull (s : State) (c : CoreId) (j : Job) (o : OutSet) : State :=
  match o.first with
  | some a => s.record (.ctx c j.ctx) (mkRec 0x0107 (j.desc.tag + opcode j.cmd <<< 8) a (a >>> 32) (sat32 o.excess))
  | none => s

/-- A result is written: its bytes, its clips, its crate overflow. -/
def State.writeOut (s : State) (c : CoreId) (j : Job) (o : OutSet) : State :=
  ((s.writeSegs c o.segs).countClips c j.desc.tag o.clips).crateFull c j o

/-- A finishing-unit command completes (R222). -/
def State.finDone (s : State) (c : CoreId) (j : Job) : State := (s.bump (.fu c) 0 1).finishJob c 9 j

/-- A DRAIN starts: its first read clears the slot's saturation bit and latches ACC_SAT (R122, R123, R125, R127). -/
def State.drainBegin (s : State) (c : CoreId) : State :=
  let k := s.core c
  let f := k.unit 9
  match f.exec, f.queue with
  | [], j :: _ =>
    if isDrain j && k.drainReady j then
      let u := engUnit j.cmd
      let slot := slotOf j.cmd
      let s := s.startHead c 9 j
      if drainNoop j ∨ cf j.cmd 1 9 2 = 2 then s
      else if s.slotSat c u slot then (s.setSlotSat c u slot false).event (.ctx c j.ctx) EVT_ACCSAT
      else s
    else s
  | _, _ => s

/-- Pairs are loaded by a restore-form DRAIN (R127). -/
def State.restoreSlot (s : State) (c : CoreId) (j : Job) : State :=
  let r := drainRestore s (drainOp c j.cmd j.desc j.m j.n j.slots) (cb j.cmd 1 11)
  if r.2 then r.1.setSlotSat c (engUnit j.cmd) (slotOf j.cmd) true else r.1

/-- The DRAIN in execution reads its last entry, or restores it (R122). -/
def State.drainRead (s : State) (c : CoreId) : State :=
  match ((s.core c).unit 9).exec with
  | j :: _ =>
    if isDrain j && j.stage == 0 then
      let past (t : State) : State := t.replaceJob c 9 { j with stage := 1 }
      if drainNoop j then past s
      else if cf j.cmd 1 9 2 = 2 then s.consume c 9 2 j (past (s.restoreSlot c j))
      else past (s.modCore c fun k => { k with drained := s.unitLoft c (engUnit j.cmd) })
    else s
  | [] => s

/-- A DRAIN completes (R125 to R129). -/
def State.drainEnd (s : State) (c : CoreId) : State :=
  let s := s.drainRead c
  match ((s.core c).unit 9).exec with
  | j :: _ =>
    if isDrain j && s.unitUp c then
      let t := ((s.writeOut c j (s.drainOut c j)).modCore c fun k => { k with drained := [] }).finDone c j
      if cf j.cmd 1 9 2 = 2 then t else s.consume c 9 2 j t
    else s
  | [] => s

/-! ## A TILE or STILE starts -/

/-- What still holds the TILE or STILE at the head of a queue gives way: the preceding one reads its last plane, the DRAIN in
execution its last entry (R64, R122). -/
def State.clearWay (s : State) (c : CoreId) (u : Nat) (j : Job) : State :=
  let s := (s.stepPass c u).stepPass c u
  if s.unitUp c && !tileNoop j && ((s.core c).unit 9).exec.any (drainHolds u j) then s.drainRead c else s

/-- In mode OFF a TILE's guard is ignored: it waits for no evaluation (R262). -/
def State.guardOf (s : State) (c : CoreId) (j : Job) : Job :=
  if j.guard = .waiting ∧ s.skipMode c = MODE_OFF then { j with guard := .free } else j

/-- The head of a group's or the sparse unit's queue starts, when it is a TILE or STILE that may (R64, R122, R145). -/
def State.tileBegin (s : State) (c : CoreId) (u : Nat) : State :=
  match ((s.core c).unit u).queue with
  | j :: _ =>
    let j := s.guardOf c j
    if isTile j && j.guard != .waiting && ((s.core c).unit u).setReady j then
      let s := s.clearWay c u j
      if s.unitUp c && (s.core c).canStart u j then s.startHead c u j else s
    else s
  | [] => s

/-- A FIN completes. -/
def State.finEnd (s : State) (c : CoreId) : State :=
  match ((s.core c).unit 9).exec with
  | j :: _ =>
    if opcode j.cmd = OP_FIN then
      s.consume c 9 2 j <|
        if j.cnt = 0 ∨ j.desc.len = 0 then s.finDone c j
        else ((s.writeOut c j (finOut s.mem c j)).writeSegs c (finRecs s.mem c j)).finDone c j
    else s
  | [] => s

/-- What monitor n holds before an OPT updates it is kept for the reads of this ac; what a STAT read has latched is now older than
the monitor (R244). -/
def Core.keepMonitor (k : Core) (n : Nat) (usq wsq ratio stat : W32) : Core :=
  let latched := k.monLatch.any fun e => e.n == n && e.fresh
  { k with monLatch := k.monLatch.map fun e => if e.n = n then { e with fresh := false } else e
           monAc := if k.monAc.any (·.n == n) then k.monAc
             else { n := n, usq := usq, wsq := wsq, ratio := ratio, stat := stat, latched := latched } :: k.monAc }

/-- The monitor of an OPT, and UPD_RATIO (R241 to R244). -/
def State.optMonitor (s : State) (c : CoreId) (j : Job) (p : OptPar) (outs : List OptOut) : State :=
  let n := cf j.cmd 2 24 6
  let old := s.pg (.fu c) (FU_MON_STAT n)
  let us := rowsum (outs.map fun o => fmul o.dd o.dd)
  let ws := rowsum (outs.map fun o => fmul o.mm o.mm)
  let usq := if p.macc then fadd (s.pg (.fu c) (FU_MON_USQ n)) us else us
  let wsq := if p.macc then fadd (s.pg (.fu c) (FU_MON_WSQ n)) ws else ws
  let skip := min ((if p.macc then bits old 0 16 else 0) + (outs.filter (·.skip)).length) 0xFFFF
  let clip := min ((if p.macc then bits old 16 12 else 0) + (outs.filter (·.clip)).length) 0xFFF
  let ratio := monRatio usq wsq
  let out := if p.mchk then ratioOut ratio p.lo p.hi else bit old 30
  let s := s.modCore c fun k => k.keepMonitor n (s.pg (.fu c) (FU_MON_USQ n)) (s.pg (.fu c) (FU_MON_WSQ n)) (s.pg (.fu c) (FU_MON_RATIO n)) old
  let s := s.setPg (.fu c) (FU_MON_USQ n) usq
  let s := s.setPg (.fu c) (FU_MON_WSQ n) wsq
  let s := s.setPg (.fu c) (FU_MON_RATIO n) ratio
  let s := s.setPg (.fu c) (FU_MON_STAT n) (w32 (skip + clip <<< 16 + bn out <<< 30 + 1 <<< 31))
  if p.mchk && out then s.record (.ctx c j.ctx) { code := 0x0109, i0 := w32 n, i1 := ratio, i2 := p.lo, i3 := p.hi } else s

/-- An OPT completes (R236 to R243). -/
def State.optEnd (s : State) (c : CoreId) : State :=
  match ((s.core c).unit 9).exec with
  | j :: _ =>
    if opcode j.cmd = OP_OPT then
      s.consume c 9 2 j <|
        if j.cnt = 0 then s.finDone c j
        else
          let t := (s.writeSegs c (optSegs s.mem c j)).optMonitor c j (optPar s.mem c j) (optRun s.mem c j)
          (t.writeOut c j (optCopy s.mem c j)).finDone c j
    else s
  | [] => s

/-! ## The commands -/

/-- The sequencer acts: no core reset is under way either (R426). -/
def State.seqUp (s : State) (c : CoreId) : Bool := s.unitUp c && !(s.core c).resetting

/-- A unit's command: nothing happens while the core does not run or a core fault stands; in the ac of the fault, poison that a
lower unit than the one recorded consumes is told in its place (R428); the row of one unit can make another consume it. -/
def State.unitAct (s : State) (c : CoreId) (u : Nat) (f : State → State) : Host.Outcome State Fault Refusal :=
  .next <|
    if s.unitUp c then f s
    else if s.coreUp c && !(s.core c).resetting && (s.core c).acFault.any (u < ·) then
      let t := f (s.modCore c fun k => { k with fault := false, acFault := none })
      let p := Page.seq c
      match (t.core c).acFault with
      | some v => s.coreFault c v { code := 0x0303, i0 := t.pg p PG_ERR_INFO0, i1 := t.pg p (PG_ERR_INFO0 + 4),
                                    i2 := t.pg p (PG_ERR_INFO0 + 8), i3 := t.pg p (PG_ERR_INFO0 + 12) }
      | none => s
    else s

/-- TBUILD_SWEEP_START (R45, R47, R142). -/
def execTbuildSweepStart (c : CoreId) (u : UnitId) (s : State) : Host.Outcome State Fault Refusal :=
  s.unitAct c u.val fun s => s.sweepStart c u.val

/-- TBUILD_COMPLETE (R45, R142, R249). -/
def execTbuildComplete (c : CoreId) (u : UnitId) (s : State) : Host.Outcome State Fault Refusal :=
  s.unitAct c u.val fun s => s.buildDone c u.val

/-- TILE_START (R47, R63, R122). -/
def execTileStart (c : CoreId) (g : GrpId) (s : State) : Host.Outcome State Fault Refusal := s.unitAct c g.val fun s => s.tileBegin c g.val

/-- GUARDED_TILE_EVALUATION (R253 to R258, R264). -/
def execGuardedTileEvaluation (c : CoreId) (g : GrpId) (s : State) : Host.Outcome State Fault Refusal :=
  s.unitAct c g.val fun s => s.evaluate c g.val

/-- TILE_COMPLETE (R61, R63, R120). -/
def execTileComplete (c : CoreId) (g : GrpId) (s : State) : Host.Outcome State Fault Refusal := s.unitAct c g.val fun s => s.tileDone c g.val

/-- STILE_START (R143, R144). -/
def execStileStart (c : CoreId) (s : State) : Host.Outcome State Fault Refusal := s.unitAct c 8 fun s => s.tileBegin c 8

/-- STILE_COMPLETE (R140 to R152). -/
def execStileComplete (c : CoreId) (s : State) : Host.Outcome State Fault Refusal := s.unitAct c 8 fun s => s.tileDone c 8

/-- DRAIN_START (R122, R125 step 1). -/
def execDrainStart (c : CoreId) (s : State) : Host.Outcome State Fault Refusal := s.unitAct c 9 fun s => s.drainBegin c

/-- DRAIN_COMPLETE (R125 to R129). -/
def execDrainComplete (c : CoreId) (s : State) : Host.Outcome State Fault Refusal := s.unitAct c 9 fun s => s.drainEnd c

/-- FIN_COMPLETE (R226 to R233). -/
def execFinComplete (c : CoreId) (s : State) : Host.Outcome State Fault Refusal := s.unitAct c 9 fun s => s.finEnd c

/-- OPT_COMPLETE (R234 to R243). -/
def execOptComplete (c : CoreId) (s : State) : Host.Outcome State Fault Refusal := s.unitAct c 9 fun s => s.optEnd c

end Sys2Proof.Machine
end

