-- ==== Sys2Proof/Machine/Sequencer.lean ====
section
/-! DEFINITION. The sequencer: fetch, one ac of arbitration, the commands of a stream, faults recorded (08).

A sequencer command given as a row goes through the same checks and the same issue as the head of the stream (log entry 26). -/

namespace Sys2Proof.Machine
open Sys2Proof

/-! ## Fetch (R179 to R181) -/

/-- What stands at the head of a stream: a command, perhaps with a poisoned word; its end; a command with a byte out of reach. -/
inductive Fetched where
  | cmd (w : Cmd) (bad : Option Nat)
  | theEnd
  | outside (a : Nat)
  deriving DecidableEq, Repr

/-- Package address of command i of a stream. -/
def State.streamAt (s : State) (c : CoreId) (x : CtxId) (i : Nat) : Nat :=
  (s.pg (.ctx c x) CTX_BASE_LO).toNat + (s.pg (.ctx c x) CTX_BASE_HI).toNat <<< 32 + 32 * i

/-- A byte that a stream may lie in: attic, cellar, the issuing core's storeroom (R179). -/
def State.inReach (s : State) (c : CoreId) (a : Nat) : Bool :=
  match s.place a with
  | .attic | .cellar _ => true
  | .sto k => k == c
  | _ => false

/-- The read of a command in the cellar has timed out: every word arrives poisoned, its data free values (R333; log entry 30). -/
def State.fetchLate (s : State) (c : CoreId) (a : Nat) : Bool := (s.core c).lateRead.any fun l => decide (a / 64 ≤ l ∧ l ≤ (a + 31) / 64)

/-- The head of a context's stream: as its one read found it, else as it stands (R180). -/
def State.fetch (s : State) (c : CoreId) (x : CtxId) : Fetched :=
  match (s.ctx c x).head with
  | some w => .cmd w ((s.ctx c x).bad.map (·.1))
  | none =>
    let pc := (s.pg (.ctx c x) CTX_PC).toNat
    if (s.pg (.ctx c x) CTX_LEN).toNat ≤ pc then .theEnd
    else
      let a := s.streamAt c x pc
      match (List.range 32).find? fun i => !s.inReach c (a + i) with
      | some i => .outside (a + i)
      | none =>
        let late := s.fetchLate c a
        let bs := if late then (List.range 32).map fun i => Config.unmappedByte (a + i) else (s.mem.read (s.keyOf (s.owner c)) a 32).map (·.1)
        .cmd (Vector.ofFn fun i => w32 (leNat ((bs.drop (4 * i.val)).take 4))) (if late then some (a / 8) else s.firstPoison [⟨.any, a, 32⟩])

/-- A context that may issue: READY, or held only at its head; not under a save, a restore or a reset. -/
def State.mayIssue (s : State) (c : CoreId) (x : CtxId) : Bool :=
  let t := s.ctx c x
  s.seqUp c && (t.run == .ready || (t.run == .hold && t.hold == .head)) && !t.resetting && t.saveOp == .none

/-- The stream's end acts as a HALT with code 0xFFFF; CTX_PC keeps CTX_LEN (R181). -/
def State.streamEnd (s : State) (c : CoreId) (x : CtxId) : State :=
  let w : Cmd := withOpcode Cmd.zero OP_HALT
  let j := s.mkJob c x w Desc.zero (s.pg (.ctx c x) CTX_PC).toNat
  ((s.countIssue c x U_SEQ).holdCtx c x (.halt j 0xFFFF)).settle c

/-- A command with a byte out of reach has reached the head (R179). -/
def State.fetchFault (s : State) (c : CoreId) (x : CtxId) (a : Nat) : State :=
  s.foundFault c x (mkRec 0x0106 0 a (a >>> 32 % 0x1_0000) 0) (s.pg (.ctx c x) CTX_PC).toNat none

/-- The read of a command at the head is counted where it comes from the attic or the cellar (R347). -/
def State.countFetch (s : State) (c : CoreId) (x : CtxId) : State :=
  if (s.ctx c x).head.isSome then s
  else
    let a := s.streamAt c x (s.pg (.ctx c x) CTX_PC).toNat
    (s.countAccess a 32 0).countPoison a 32

/-- The head of a context's stream takes the issue slot; a poisoned one is read at this point. -/
def State.issueFetched (s : State) (c : CoreId) (x : CtxId) : State :=
  match s.fetch c x with
  | .cmd w bad => (s.countFetch c x).issueHead c x w bad
  | .theEnd => s.streamEnd c x
  | .outside a => s.fetchFault c x a

/-! ## One ac (R187 to R189, R304, R309, R416) -/

/-- The conditions of R309 hold in this ac. -/
def State.stuck (s : State) (c : CoreId) : Bool :=
  let k := s.core c
  let live := k.ctxs.toList.filter fun t => t.run == .ready || t.run == .wait || t.run == .hold
  !live.isEmpty && live.all (fun t => t.run == .wait) && k.units.toList.all (fun u => u.queue.isEmpty && u.exec.isEmpty) &&
    k.dmaq.toList.all (fun q => q.queue.isEmpty && q.run.isEmpty) && !k.touched

/-- Waits lose one ac, unless their context is FROZEN; the deadlock count; the arbitration's clock. -/
def State.acClock (s : State) (c : CoreId) : State :=
  let st := s.stuck c
  s.modCore c fun k =>
    { k with
      waits := k.waits.map fun w => if (k.ctx w.ctx).run = .frozen then w else { w with remain := w.remain.map (· - 1) }
      dlk := if st then k.dlk + 1 else 0
      dlkFired := k.dlkFired && st
      acFault := none
      monAc := []
      touched := false
      arb := { k.arb with since := k.arb.since + 1 } }

/-- A TILE or STILE waits for a table or slot set: at the head of the queue for its first, between its passes for the second
(R47, R65). -/
def EngUnit.waitsSet (u : EngUnit) : Bool :=
  (match u.queue with
   | j :: _ => isTile j && !u.setReady j
   | [] => false) || (match u.exec.find? reading with
   | some j => !u.passReady j
   | none => false)

/-- The counters that count ac. -/
def State.acCounters (s : State) (c : CoreId) : State :=
  let k := s.core c
  let s := (List.finRange 4).foldl (fun s x =>
    let r := (k.ctx x).run
    (s.bump (.ctx c x) 1 (bn (r == .wait))).bump (.ctx c x) 2 (bn (r == .hold))) s
  let s := s.bump (.fu c) 1 (bn !(k.unit 9).exec.isEmpty)
  let s := (List.finRange 8).foldl (fun s g => s.bump (.eg c g) 3 (bn (k.unit g.val).waitsSet)) s
  s.bump (.se c) 2 (bn (k.unit 8).waitsSet)

/-- The standing grant of another context, which waits for its switch, takes the last free entry of the queue that this head needs: the
head stays in HOLD (R189, R191). -/
def State.shutOut (s : State) (c : CoreId) (x : CtxId) (w : Cmd) : Bool :=
  let k := s.core c
  match k.arb.grant, unitOf w with
  | some y, some u => y != x && s.mayIssue c y && (k.ctx y).run == .ready && ((k.ctx y).head.bind unitOf) == some u && decide (k.freeSlots u ≤ 1)
  | _, _ => false

/-- Heads are fetched; a head whose queue is full or whose ord flag waits puts its context in HOLD, and out of it (R187). Of the
times that R180 leaves open for the one read of a command, the model reads it in the first ac in which it is the head and its
context may issue: DESIGN CHOICE, log entry 36. -/
def State.fetchHead (s : State) (c : CoreId) (x : CtxId) : State :=
  if s.mayIssue c x then
    match s.fetch c x with
    | .cmd w bad =>
      let held := (s.core c).holdsHead x w || s.shutOut c x w
      (s.countFetch c x).modCtx c x fun t =>
        { t with run := if held then .hold else .ready, hold := if held then .head else .free, head := some w
                 bad := if t.head.isSome then t.bad else bad.map fun p => (p, (s.core c).eccRead.contains p) }
    | _ => s.modCtx c x fun t => { t with run := .ready, hold := .free }
  else s

/-- A context is eligible once its head is fetched (R187). -/
def State.eligible (s : State) (c : CoreId) (x : CtxId) : Bool := s.mayIssue c x && (s.ctx c x).run == .ready

/-- Ages: 0 not eligible, n + 1 eligible for n ac (R188). -/
def State.countAges (s : State) (c : CoreId) : State :=
  let e := s.eligible c
  s.modCore c fun k => { k with arb := { k.arb with age := Vector.ofFn fun x => if e x then k.arb.age[x] + 1 else 0 } }

/-- The oldest of the aged contexts, the lower number first between equals (step 1 of R188). -/
def State.agedCtx (s : State) (c : CoreId) : Option CtxId :=
  let limit := (s.pg (.seq c) SEQ_AGE_LIMIT).toNat
  let age (x : CtxId) := (s.core c).arb.age[x]
  let l := (List.finRange 4).filter fun x => limit != 0 && decide (limit + 1 ≤ age x)
  l.foldl (fun b x => match b with
    | some y => if age y < age x then some x else b
    | none => some x) none

/-- Steps 2 and 3 of R188. -/
def State.turnCtx (s : State) (c : CoreId) : Option CtxId :=
  let a := (s.core c).arb
  let el := (List.finRange 4).filter fun x => s.eligible c x
  let prio (x : CtxId) := bits (s.pg (.ctx c x) CTX_CFG) 0 2
  let least := (el.map prio).foldl min 3
  let cls := el.filter fun x => prio x == least
  let q := (s.pg (.seq c) SEQ_QUANTUM).toNat
  let keep := a.last.filter fun x => cls.contains x && decide (a.streak < (if q = 0 then 1 else q))
  keep.orElse fun _ =>
    let from_ := (a.last.getD 3).val
    ((List.range 4).map fun i => (Fin.ofNat 4 (from_ + 1 + i) : CtxId)).find? fun x => cls.contains x

/-- The context granted in this ac, and whether by age; a grant that waits for its switch stands (R189). -/
def State.granted (s : State) (c : CoreId) : Option (CtxId × Bool) :=
  match (s.core c).arb.grant with
  | some x => if s.eligible c x then some (x, false) else (s.agedCtx c).map (·, true) <|> (s.turnCtx c).map (·, false)
  | none => (s.agedCtx c).map (·, true) <|> (s.turnCtx c).map (·, false)

/-- The grant of an ac, and the issue (R187 to R189). -/
def State.acGrant (s : State) (c : CoreId) : State :=
  match s.granted c with
  | none => s
  | some (x, aged) =>
    let s := s.bump (.seq c) 2 (bn aged)
    let a := (s.core c).arb
    if a.last = none ∨ a.last = some x ∨ 8 ≤ a.since then
      (s.modCore c fun k => { k with arb := { k.arb with grant := none } }).issueFetched c x
    else s.modCore c fun k => { k with arb := { k.arb with grant := some x } }

/-- A READY context whose head another context's issue, or its standing grant, has shut out of its queue stays in HOLD (R191). -/
def State.holdLoser (s : State) (c : CoreId) (x : CtxId) : State :=
  match (s.ctx c x).head with
  | some w => if s.eligible c x && ((s.core c).holdsHead x w || s.shutOut c x w) then s.holdCtx c x .head else s
  | none => s

/-- The ac is over: what reads have found in it is no longer of the same read. -/
def State.acEnd (s : State) (c : CoreId) : State := s.modCore c fun k => { k with eccRead := [], lateRead := [] }

/-- One ac of a sequencer: time passes, heads are fetched, ages counted, and the slot is granted. -/
def State.acStep (s : State) (c : CoreId) : State :=
  let s := (((List.finRange 4).foldl (fun s x => s.fetchHead c x) ((s.acCounters c).acClock c)).countAges c).acGrant c
  ((List.finRange 4).foldl (fun s x => s.holdLoser c x) s).acEnd c

/-! ## Faults recorded (R219) -/

/-- The fault of a context is recorded once its earlier commands have completed; a pending doorbell is discarded (R182). -/
def State.recordCtxFault (s : State) (c : CoreId) (x : CtxId) : State :=
  match (s.ctx c x).hold with
  | .fault r off =>
    if (s.core c).busy x then s
    else
      ((s.modCtx c x fun t => { (t.go .faulted) with hold := .free, pend := false, late := false, pre := false }).setPc c x off).recordFault
        (.ctx c x) r
  | _ => s

/-! ## The commands -/

/-- A sequencer command is issued by a context. -/
def State.command (s : State) (c : CoreId) (x : CtxId) (w : Cmd) (op : Nat) : Host.Outcome State Fault Refusal :=
  .next (if s.mayIssue c x then s.issueHead c x (withOpcode w op) none else s)

/-- NOP (R198). -/
def execNop (c : CoreId) (x : CtxId) (w : Cmd) (s : State) : Host.Outcome State Fault Refusal := s.command c x w OP_NOP
/-- TBUILD (R199). -/
def execTbuild (c : CoreId) (x : CtxId) (w : Cmd) (s : State) : Host.Outcome State Fault Refusal := s.command c x w OP_TBUILD
/-- TILE (R200). -/
def execTile (c : CoreId) (x : CtxId) (w : Cmd) (s : State) : Host.Outcome State Fault Refusal := s.command c x w OP_TILE
/-- STILE (R201). -/
def execStile (c : CoreId) (x : CtxId) (w : Cmd) (s : State) : Host.Outcome State Fault Refusal := s.command c x w OP_STILE
/-- DRAIN (R202). -/
def execDrain (c : CoreId) (x : CtxId) (w : Cmd) (s : State) : Host.Outcome State Fault Refusal := s.command c x w OP_DRAIN
/-- MOVE (R204). -/
def execMove (c : CoreId) (x : CtxId) (w : Cmd) (s : State) : Host.Outcome State Fault Refusal := s.command c x w OP_MOVE
/-- FILL (R205). -/
def execFill (c : CoreId) (x : CtxId) (w : Cmd) (s : State) : Host.Outcome State Fault Refusal := s.command c x w OP_FILL
/-- COPY (R205). -/
def execCopy (c : CoreId) (x : CtxId) (w : Cmd) (s : State) : Host.Outcome State Fault Refusal := s.command c x w OP_COPY
/-- XPOSE (R206). -/
def execXpose (c : CoreId) (x : CtxId) (w : Cmd) (s : State) : Host.Outcome State Fault Refusal := s.command c x w OP_XPOSE
/-- FIN (R207). -/
def execFin (c : CoreId) (x : CtxId) (w : Cmd) (s : State) : Host.Outcome State Fault Refusal := s.command c x w OP_FIN
/-- OPT (R207). -/
def execOpt (c : CoreId) (x : CtxId) (w : Cmd) (s : State) : Host.Outcome State Fault Refusal := s.command c x w OP_OPT
/-- SIGNAL (R208). -/
def execSignal (c : CoreId) (x : CtxId) (w : Cmd) (s : State) : Host.Outcome State Fault Refusal := s.command c x w OP_SIGNAL
/-- WAIT (R208, R300). -/
def execWait (c : CoreId) (x : CtxId) (w : Cmd) (s : State) : Host.Outcome State Fault Refusal := s.command c x w OP_WAIT
/-- BARRIER (R208, R312). -/
def execBarrier (c : CoreId) (x : CtxId) (w : Cmd) (s : State) : Host.Outcome State Fault Refusal := s.command c x w OP_BARRIER
/-- FENCE (R209). -/
def execFence (c : CoreId) (x : CtxId) (w : Cmd) (s : State) : Host.Outcome State Fault Refusal := s.command c x w OP_FENCE
/-- RSIGNAL (R210). -/
def execRsignal (c : CoreId) (x : CtxId) (w : Cmd) (s : State) : Host.Outcome State Fault Refusal := s.command c x w OP_RSIGNAL
/-- PHASE (R167, R168, R211). -/
def execPhase (c : CoreId) (x : CtxId) (w : Cmd) (s : State) : Host.Outcome State Fault Refusal := s.command c x w OP_PHASE
/-- RERUN (R108 to R112). -/
def execRerun (c : CoreId) (x : CtxId) (w : Cmd) (s : State) : Host.Outcome State Fault Refusal := s.command c x w OP_RERUN
/-- LOOP (R212, R213). -/
def execLoop (c : CoreId) (x : CtxId) (w : Cmd) (s : State) : Host.Outcome State Fault Refusal := s.command c x w OP_LOOP
/-- JUMP (R211, R213). -/
def execJump (c : CoreId) (x : CtxId) (w : Cmd) (s : State) : Host.Outcome State Fault Refusal := s.command c x w OP_JUMP
/-- HALT (R211). -/
def execHalt (c : CoreId) (x : CtxId) (w : Cmd) (s : State) : Host.Outcome State Fault Refusal := s.command c x w OP_HALT

/-- IMPLICIT_HALT: the stream of a context that may issue has ended (R181). -/
def execImplicitHalt (c : CoreId) (x : CtxId) (s : State) : Host.Outcome State Fault Refusal :=
  .next (if s.mayIssue c x && s.fetch c x == .theEnd then s.streamEnd c x else s)

/-- COMMAND_FETCH_RANGE_FAULT (R179). -/
def execCommandFetchRangeFault (c : CoreId) (x : CtxId) (s : State) : Host.Outcome State Fault Refusal :=
  .next (if s.mayIssue c x then
      (match s.fetch c x with
       | .outside a => s.fetchFault c x a
       | _ => s)
    else s)

/-- ISSUE_ARBITRATION: one ac of a core (R186 to R189). -/
def execIssueArbitration (c : CoreId) (s : State) : Host.Outcome State Fault Refusal := .next (if s.coreUp c then s.acStep c else s)

/-- FAULT_RECORD (R219). -/
def execFaultRecord (c : CoreId) (x : CtxId) (s : State) : Host.Outcome State Fault Refusal :=
  .next (if s.coreUp c && !(s.core c).resetting then s.recordCtxFault c x else s)

end Sys2Proof.Machine
end

