-- ==== Sys2Proof/Machine/LinkCore.lean ====
section
/-! DEFINITION. Messages and flits of a link port: their bytes, sending, credits (14 R352 to R374). -/

namespace Sys2Proof.Machine
open Sys2Proof

/-! ## Messages (R356, R357) -/

def MSG_WR : Byte := 1
def MSG_SIG : Byte := 2
def MSG_RD : Byte := 3
def MSG_RDR : Byte := 4
def MSG_ACK : Byte := 5

def VC_REQ : BitVec 2 := 0
def VC_RSP : BitVec 2 := 1
def VC_PWS : BitVec 2 := 2
def VC_CTL : BitVec 2 := 3

def Msg.zero : Msg :=
  { kind := 0, vc := 0, pm := false, last := false, status := 0, gcid := 0, rid := 0, tag := 0, hid := 0, off := 0, len := 0, sw := 0,
    n := 0, bad := false, payload := [], poison := [] }

/-- A message that carries a payload. -/
def hasPayload (kind : Byte) : Bool := kind == MSG_WR || kind == MSG_RDR

/-- Bytes of a message (R357); a message of an unknown type is taken as a header alone (log entry 29). -/
def msgSize (kind : Byte) (len : Nat) (pm : Bool) : Nat := if hasPayload kind then 32 + 64 * len + (if pm then 32 else 0) else 32

/-- Credits that a message occupies (R359). -/
def Msg.credits (m : Msg) : Nat := cdiv (msgSize m.kind m.len.toNat m.pm) 64

/-- Poison bits of the payload's words as the 32 bytes of a trailer. -/
def trailerBytes (p : List Bool) : List Byte := toLe 32 (p.zipIdx.map fun (b, i) => bn b <<< i).sum

/-- A message as bytes (R356). -/
def Msg.bytes (m : Msg) : List Byte :=
  [m.kind, BitVec.ofNat 8 (m.vc.toNat + bn m.pm <<< 2 + bn m.last <<< 3 + m.status.toNat <<< 4)] ++ toLe 2 m.gcid.toNat ++
    toLe 2 m.rid.toNat ++ toLe 2 m.tag.toNat ++ [m.hid, 0, 0, 0] ++ toLe 4 m.off.toNat ++ [BitVec.ofNat 8 m.len.toNat, 0, 0, 0] ++
    toLe 4 m.sw.toNat ++ toLe 4 m.n.toNat ++ [0, 0, 0, 0] ++ m.payload ++ (if m.pm then trailerBytes m.poison else [])

/-- The first message of a byte stream and the bytes after it; none while it is not complete. -/
def parseMsg (bs : List Byte) : Option (Msg × List Byte) :=
  if bs.length < 32 then none
  else
    let f (i n : Nat) : Nat := leNat ((bs.drop i).take n)
    let kind : Byte := BitVec.ofNat 8 (f 0 1)
    let b1 := f 1 1
    let pm := b1.testBit 2
    let len := f 16 1
    let size := msgSize kind (len % 64) pm
    if bs.length < size then none
    else
      let known := kind == MSG_WR || kind == MSG_SIG || kind == MSG_RD || kind == MSG_RDR || kind == MSG_ACK
      let status := b1 / 16
      let rsp := kind == MSG_RDR || kind == MSG_ACK
      let bad := !known || f 9 3 != 0 || 32 < len || f 17 3 != 0 || f 28 4 != 0 || (if rsp then decide (1 < status) else status != 0) ||
        f 2 2 / 0x2000 != 0
      let body := (bs.drop 32).take (if hasPayload kind then 64 * (len % 64) else 0)
      let tr := f (32 + 64 * (len % 64)) 32
      some ({ kind := kind, vc := BitVec.ofNat 2 b1, pm := pm, last := b1.testBit 3, status := BitVec.ofNat 4 status,
              gcid := BitVec.ofNat 16 (f 2 2), rid := BitVec.ofNat 16 (f 4 2), tag := BitVec.ofNat 16 (f 6 2),
              hid := BitVec.ofNat 8 (f 8 1), off := w32 (f 12 4), len := BitVec.ofNat 6 len, sw := w32 (f 20 4), n := w32 (f 24 4),
              bad := bad, payload := body,
              poison := (List.range (body.length / 8)).map fun i => pm && tr.testBit i }, bs.drop size)

/-! ## Flits (R352, R353, R355, R359) -/

/-- The channel whose credits the next flit returns, and how many. DESIGN CHOICE, safe (log 29): of several channels with credits owed
REQ comes first, then PWS, then CTL; R359 sets no order. -/
def Port.creditsDue (p : Port) : BitVec 2 × Nat :=
  match [VC_REQ, VC_PWS, VC_CTL].find? fun v => p.owed[v.toFin] != 0 with
  | some v => (v, min 4095 p.owed[v.toFin])
  | none => (0, 0)

/-- The next flit leaves: it is numbered, kept for replay and driven on the lanes. -/
def Port.sendFlit (p : Port) (body : List Byte) (idle : Bool) : Port :=
  let (v, n) := p.creditsDue
  let f : Flit :=
    { good := true, seq := p.txSeq, ack := p.rxSeq - 1, nak := p.sendNak, idle := idle, cvc := v, ccnt := BitVec.ofNat 12 n, fecCorr := 0, fecUncorr := 0,
      body := body }
  { p with txSeq := p.txSeq + 1, replay := p.replay ++ [f], wire := p.wire ++ [f], owed := p.owed.set v.toFin (p.owed[v.toFin] - n) }

/-- Message bytes go out in flits while the replay buffer has room (R353); the fuel is its size. -/
def Port.pump : Nat → Port → Port
  | 0, p => p
  | n + 1, p =>
    if p.txBytes.isEmpty ∨ 512 ≤ p.replay.length then p
    else Port.pump n (({ p with txBytes := p.txBytes.drop 496 } : Port).sendFlit (p.txBytes.take 496) false)

/-- A message is handed to the port. -/
def Port.sendMsg (p : Port) (m : Msg) : Port := Port.pump 512 { p with txBytes := p.txBytes ++ m.bytes }

/-- The port holds the credits of a message of its channel (R359). -/
def Port.canSend (p : Port) (m : Msg) : Bool := m.vc == VC_RSP || decide (m.credits ≤ p.credit[m.vc.toFin])

/-- A credited message spends its credits and is sent. -/
def Port.spend (p : Port) (m : Msg) : Port :=
  let p := if m.vc = VC_RSP then p else { p with credit := p.credit.set m.vc.toFin (p.credit[m.vc.toFin] - m.credits) }
  p.sendMsg m

/-! ## Port state (R349, R377) -/

/-- LNK_STAT.state changes; the page latches the state event. -/
def State.setLnkState (s : State) (i : PortId) (v : Nat) : State :=
  if s.lnkState i = v then s else (s.setField (.lnk i) LNK_STAT 0 2 v).event (.lnk i) EVT_STATE

/-- A message leaves a port: payload of WR and RDR is counted (R378). -/
def State.sendLink (s : State) (i : PortId) (m : Msg) : State :=
  (s.modPort i fun p => p.spend m).bump (.lnk i) 0 m.payload.length

/-! ## The channel of an RSIGNAL (R361) -/

/-- Channel of an RSIGNAL (R361). -/
def State.rsChannel (s : State) (w : Cmd) : BitVec 2 :=
  let p : Page := .lnk (rsPort w)
  let h := rsHid w
  if h < 32 ∧ bit (s.pg p LNK_CTL_HIDS_LO) h then VC_CTL
  else if 32 ≤ h ∧ h < 64 ∧ bit (s.pg p LNK_CTL_HIDS_HI) (h - 32) then VC_CTL
  else VC_PWS

end Sys2Proof.Machine
end

