-- ==== Sys2Proof/Machine/Dma.lean ====
section
/-! DEFINITION. The DMA queues: transactions, tags, order, completion (13 R333 to R339, 08 R204 to R206, R210). -/

namespace Sys2Proof.Machine
open Sys2Proof

/-! ## The next transaction of a command (R335) -/

/-- Bytes up to the next 2 KiB boundary. -/
def to2k (a : Nat) : Nat := 2048 - a % 2048

/-- A MOVE that compresses or quantises. -/
def converts (w : Cmd) : Bool := opcode w == OP_MOVE && (cb w 2 19 || cb w 2 20)

/-- Element size of an XPOSE. -/
def xposeEs (w : Cmd) : Nat := 1 <<< cf w 2 10 2

/-- Words of a FILL or a COPY. -/
def wordLen (w : Cmd) : Nat := if opcode w = OP_FILL then cf w 2 0 24 else cf w 3 0 24

/-- A DMA command without transactions (R217). -/
def dmaNoop (j : Job) : Bool :=
  let w := j.cmd
  let op := opcode w
  if op = OP_MOVE then j.cnt == 0 || moveRow w j.desc == 0
  else if op = OP_FILL ∨ op = OP_COPY then wordLen w == 0
  else if op = OP_XPOSE then cf w 4 0 16 == 0 || cf w 4 16 16 == 0
  else rsBytes w == 0

/-- A command as its queue starts it; a COPY finds its source as it stands (R205; log entry 14). -/
def State.freshRun (s : State) (c : CoreId) (j : Job) : DmaRun :=
  { job := j, row := 0, off := 0,
    snap := if opcode j.cmd = OP_COPY then (List.range (wordLen j.cmd)).map fun i => s.stoWordAt c (cf j.cmd 1 0 24 + i) else [],
    out := none, got := [], full := none, rid := none, chan := none, miss := none, started := dmaNoop j, withheld := false }

/-- The cursor after n bytes of a row of `l` bytes, of `rows` rows. -/
def DmaRun.step (r : DmaRun) (n l rows : Nat) (last : Bool) : DmaRun :=
  if r.off + n = l then { r with row := r.row + 1, off := 0, started := last && r.row + 1 == rows } else { r with off := r.off + n }

/-- A run of bytes as parts that cross no 2 KiB boundary. -/
def parts2k (a n : Nat) : List (Nat × Nat) := if to2k a < n then [(a, to2k a), (a + to2k a, n - to2k a)] else [(a, n)]

/-- Rows of the destination of an XPOSE and elements of each; the source of element j of row i (R206). -/
def xposeRows (w : Cmd) : Nat := if cb w 2 12 then cf w 4 16 16 else cf w 4 0 16
def xposeCols (w : Cmd) : Nat := if cb w 2 12 then cf w 4 0 16 else cf w 4 16 16
def xposeAt (w : Cmd) (i j : Nat) : Nat := if cb w 2 12 then xposeSrc w j i else xposeSrc w i j

/-- The runs of source bytes that an XPOSE brings to n bytes of a row of its destination from an offset on. -/
def xposeGather (w : Cmd) (i off n : Nat) : List (Nat × Nat) :=
  let es := xposeEs w
  (List.range (cdiv (off + n) es - off / es)).flatMap fun k =>
    let j := off / es + k
    let lo := max off (j * es)
    let hi := min (off + n) ((j + 1) * es)
    parts2k (xposeAt w i j + (lo - j * es)) (hi - lo)

/-- The source of one transaction of an XPOSE: of the runs to come those that lie in the 2 KiB of the first (R335). -/
def sameGranule : List (Nat × Nat) → List (Nat × Nat)
  | [] => []
  | e :: r => e :: r.takeWhile fun p => p.1 / 2048 == e.1 / 2048

/-- The next transaction of a command that its queue has started, and the cursor after it; none while it has to wait. -/
def nextTxn (c : CoreId) (r : DmaRun) : Option (TxnBody × DmaRun) :=
  let w := r.job.cmd
  let op := opcode w
  if op = OP_MOVE ∧ !converts w then
    let l := moveRow w r.job.desc
    let a := moveSrc w r.row + r.off
    let b := moveDst w r.row + r.off
    let n := min (min (to2k a) (to2k b)) (l - r.off)
    some (.move a b n, r.step n l r.job.cnt true)
  else if op = OP_MOVE then
    match r.out with
    | none =>
      let l := moveRow w r.job.desc
      if r.job.cnt ≤ r.row then none
      else
        let a := moveSrc w r.row + r.off
        let n := min (to2k a) (l - r.off)
        some (.get (r.row * l + r.off) a n, r.step n l r.job.cnt false)
    | some segs =>
      match segs[r.row]? with
      | none => none
      | some g =>
        let a := g.addr + r.off
        let n := min (to2k a) (g.data.length - r.off)
        some (.put a ((g.data.drop r.off).take n), r.step n g.data.length segs.length true)
  else if op = OP_FILL then
    let d := cf w 1 0 24 + r.off
    let n := min (to2k (8 * d) / 8) (wordLen w - r.off)
    some (.fill d n (w[4].append w[3]) (cb w 5 0), r.step n (wordLen w) 1 true)
  else if op = OP_COPY then
    let a := cf w 1 0 24 + r.off
    let d := cf w 2 0 24 + r.off
    let n := min (min (to2k (8 * a) / 8) (to2k (8 * d) / 8)) (wordLen w - r.off)
    some (.copy d ((r.snap.drop r.off).take n), r.step n (wordLen w) 1 true)
  else if op = OP_XPOSE then
    let l := xposeEs w * xposeCols w
    let b := stoBase c + 64 * cf w 3 0 21 + r.row * w[7].toNat + r.off
    let srcs := sameGranule (xposeGather w r.row r.off (min (to2k b) (l - r.off)))
    some (.gather srcs b, r.step (srcs.map (·.2)).sum l (xposeRows w) true)
  else
    let total := rsBytes w
    let hoff := w[4].toNat
    if r.row = 0 then
      let a := stoBase c + 64 * cf w 2 0 21 + r.off
      let n := min (min (to2k a) (to2k (64 * hoff + r.off))) (total - r.off)
      let t := if r.off + n = total then { r with row := 1, off := n, started := !rsSigs w } else { r with off := r.off + n }
      some (.wr (rsPort w) (w32 (hoff + r.off / 64)), t)
    else some (.sg (rsPort w), { r with started := true })

/-- Bytes of a WR of an RSIGNAL that starts with the cursor at `r` (its next cursor `t`). -/
def wrLen (r t : DmaRun) : Nat := (if t.row = 1 then rsBytes r.job.cmd else t.off) - r.off

/-- The message of a WR or SIG transaction (R210, R356). -/
def State.rsMsg (s : State) (c : CoreId) (r t : DmaRun) (b : TxnBody) (rid : W16) (tag : Nat) : Option Msg :=
  let w := r.job.cmd
  let m : Msg :=
    { Msg.zero with vc := r.chan.getD (s.rsChannel w), gcid := gcidOf c r.job.ctx, rid := rid, tag := BitVec.ofNat 16 (c.val * 512 + tag),
                    hid := BitVec.ofNat 8 (rsHid w), off := w[4] }
  match b with
  | .wr _ off =>
    let n := wrLen r t
    let data := s.stoRead c (64 * cf w 2 0 21 + r.off) n
    let ps := (List.range (n / 8)).map fun i => (data.getD (8 * i) (0, false)).2
    some { m with kind := MSG_WR, off := off, len := BitVec.ofNat 6 (n / 64), last := t.started, payload := data.map (·.1),
                  pm := ps.any id, poison := if ps.any id then ps else [] }
  | .sg _ => some { m with kind := MSG_SIG, last := true, sw := w[5], n := w[6], off := 0 }
  | _ => none

/-! ## Starting transactions (R336, R337) -/

/-- The last command started of a queue that has transactions left. -/
def DmaQueue.current (d : DmaQueue) : Option DmaRun :=
  match d.run.getLast? with
  | some r => if r.started then none else some r
  | none => none

/-- No-op commands and RSIGNALs whose port is not UP leave the queue without a transaction (R217, R372). -/
def State.skipIdle : Nat → State → CoreId → QId → State
  | 0, s, _, _ => s
  | f + 1, s, c, q =>
    let d := (s.core c).dmaq[q]
    if d.halted ∨ d.current.isSome then s
    else
      match d.queue with
      | [] => s
      | j :: rest =>
        let r := s.freshRun c j
        let s' := s.modCore c fun k => k.modQueue q fun d => { d with queue := rest, run := d.run ++ [r] }
        if dmaNoop j then State.skipIdle f s' c q
        else if opcode j.cmd = OP_RSIGNAL ∧ !s.linkUp (rsPort j.cmd) then s'.endRsignal c q r (rsEndRec 0x0401 j.cmd false 0 none)
        else s

/-- The command whose transaction a queue would start next: its run, and whether it comes from the queue's head. -/
def State.candidate (s : State) (c : CoreId) (q : QId) : Option (DmaRun × Bool) :=
  let d := (s.core c).dmaq[q]
  if d.halted then none
  else
    match d.current with
    | some r => some (r, false)
    | none => d.queue.head?.map fun j => (s.freshRun c j, true)

/-- A transaction that is ready: its run, whether from the queue's head, its body and the cursor after it. A WR or SIG is ready
when its port holds the credits (R359). -/
def State.ready (s : State) (c : CoreId) (q : QId) : Option (DmaRun × Bool × TxnBody × DmaRun) :=
  match s.candidate c q with
  | none => none
  | some (r, fresh) =>
    match nextTxn c r with
    | none => none
    | some (b, t) =>
      match s.rsMsg c r t b 0 0 with
      | some m => if (s.ports[rsPort r.job.cmd]).canSend m then some (r, fresh, b, t) else none
      | none => some (r, fresh, b, t)

/-- Tags of a queue at most (R344). -/
def State.qMax (s : State) (c : CoreId) (q : QId) : Nat :=
  let v := bits (s.pg (.sto c) (DMA_QMAX q.val)) 0 10
  if v = 0 then 1 else min v 512

def Core.tagsOf (k : Core) (q : QId) : Nat := (k.txns.filter fun t => t.q == q).length

/-- The queue may take a tag (R336). -/
def State.mayTag (s : State) (c : CoreId) (q : QId) : Bool :=
  decide ((s.core c).txns.length < 512 ∧ (s.core c).tagsOf q < s.qMax c q)

/-- The lowest free tag. -/
def Core.freeTag (k : Core) : Nat := ((List.range 512).find? fun t => !(k.txns.any fun x => x.tag == t)).getD 0

/-- The cellar port at a package address (R329). -/
def State.celPort (s : State) (a : Nat) : Option CelId :=
  match s.place a with
  | .cellar p => some p
  | _ => none

/-- The runs of package bytes that a transaction reads, the words that a COPY has read already apart. -/
def TxnBody.reads : TxnBody → List (Nat × Nat)
  | .move src _ n => [(src, n)]
  | .get _ src n => [(src, n)]
  | .gather srcs _ => srcs
  | _ => []

/-- Where a transaction writes, and how many bytes. -/
def TxnBody.writes (c : CoreId) : TxnBody → Option (Nat × Nat)
  | .move _ dst n => some (dst, n)
  | .gather srcs dst => some (dst, (srcs.map (·.2)).sum)
  | .put dst d => some (dst, d.length)
  | .fill w n _ _ => some (stoBase c + 8 * w, 8 * n)
  | .copy w ws => some (stoBase c + 8 * w, 8 * ws.length)
  | _ => none

/-- The cellar port that a transaction reads from, and the one it writes to (R329). -/
def State.readPort (s : State) (b : TxnBody) : Option CelId := b.reads.findSome? fun e => s.celPort e.1
def State.writePort (s : State) (c : CoreId) (b : TxnBody) : Option CelId := (b.writes c).bind fun e => s.celPort e.1

/-- The cellar port whose answer a transaction waits for first (R332): of its source, else of its destination. -/
def State.firstPort (s : State) (c : CoreId) (b : TxnBody) : Option CelId := (s.readPort b).orElse fun _ => s.writePort c b

/-- Another core's storeroom that a transaction writes to: its write is posted over the mesh (R209). -/
def State.remoteDst (s : State) (c : CoreId) (b : TxnBody) : Option CoreId :=
  match (b.writes c).map fun e => s.place e.1 with
  | some (.sto d) => if d = c then none else some d
  | _ => none

/-! ## The mesh (R19, R24) -/

/-- Bay where the memory at a package address meets the mesh. -/
def State.homeBay (s : State) (a : Nat) : Option BayId :=
  match s.place a with
  | .attic => some (stackBay (s.atticStack a))
  | .cellar p => some (celBay p)
  | .sto c => some (bayOf c)
  | .regs | .unmapped => none

/-- A message whose effect its own row holds crosses to the memory at an address (R24). -/
def State.carryTo (s : State) (src : BayId) (a : Nat) (answered : Bool) : State :=
  match s.homeBay a with
  | some b => s.carry src b answered
  | none => s

/-- A message of several bytes crosses in one part for each 2 KiB granule it touches (R21, R327). -/
def State.carrySpan (s : State) (src : BayId) (a n : Nat) (answered : Bool) : State :=
  (splitAtBounds 2048 n a (List.range n)).foldl (fun (s : State) e => s.carryTo src e.1 answered) s

/-- A flit of a transaction: reads and posted writes are requests, read data and completions responses (R24). -/
def State.sendLeg (s : State) (c : CoreId) (tag : Nat) (leg : Leg) (home : BayId) : State :=
  match leg with
  | .read | .write => s.inject (bayOf c) { resp := false, dst := home, msg := .txn c tag leg home, waited := 0 }
  | .data | .done => s.inject home { resp := true, dst := bayOf c, msg := .txn c tag leg home, waited := 0 }

/-- Memory outside the core's own storeroom. -/
def State.outside (s : State) (c : CoreId) (a : Nat) : Option BayId := if s.place a = .sto c then none else s.homeBay a

/-- A transaction in flight is changed. -/
def State.modTxn (s : State) (c : CoreId) (tag : Nat) (f : Txn → Txn) : State :=
  s.modCore c fun k => { k with txns := k.txns.map fun t => if t.tag = tag then f t else t }

/-- The write of a transaction is presented: outside the core's own storeroom it enters the mesh as a posted write, behind what the core
has posted before (R24, R25). -/
def State.sendWrite (s : State) (c : CoreId) (x : Txn) : State :=
  let s := s.modTxn c x.tag fun t => { t with sent := t.sent.orElse fun _ => some (s.core c).nextPost }
  match x.body with
  | .wr p _ | .sg p => s.sendLeg c x.tag .write (linkBay p)
  | b => match (b.writes c).bind fun e => s.outside c e.1 with
    | some h => s.sendLeg c x.tag .write h
    | none => s

/-- The first flit of a transaction enters the mesh: its read, or, with its source in the core's own storeroom, its write. -/
def State.sendFirst (s : State) (c : CoreId) (x : Txn) : State :=
  match x.body.reads.findSome? fun e => s.outside c e.1 with
  | some h => s.sendLeg c x.tag .read h
  | none => s.sendWrite c x

/-- A transaction that is over has no flit left. -/
def Mesh.dropTxn (m : Mesh) (c : CoreId) (tag : Nat) : Mesh :=
  { m with bufs := m.bufs.map fun l => l.filter fun f => match f.msg with
      | .txn d t _ _ => !(d == c && t == tag)
      | _ => true }

/-- A flit of a transaction has reached the end of its route: data come back for a read, the write follows its data, a completion
comes back for a write. A cellar request is answered by its port instead. -/
def State.legArrives (s : State) (c : CoreId) (tag : Nat) (leg : Leg) (home : BayId) : State :=
  match (s.core c).txns.find? fun t => t.tag == tag with
  | none => s
  | some x =>
    match leg with
    | .read => if x.cel.isSome then s else s.sendLeg c tag .data home
    | .data => if x.wrote then s else s.sendWrite c x
    | .write => match x.body with
      | .wr .. | .sg _ => s
      | _ => if x.cel.isSome then s else s.sendLeg c tag .done home
    | .done => s

/-! ## A transaction starts (R337) -/

/-- One transaction starts. An RSIGNAL takes its rid and its channel with its first message (R356, R361). -/
def State.startTxn (s : State) (c : CoreId) (q : QId) (r : DmaRun) (fresh : Bool) (b : TxnBody) (t : DmaRun) : State :=
  let k := s.core c
  let tag := k.freeTag
  let isRs := match b with
    | .wr .. | .sg _ => true
    | _ => false
  let p := rsPort r.job.cmd
  let rid := if isRs then r.rid.orElse (fun _ => some s.ports[p].nextRid) else none
  let num := if (s.remoteDst c b).isSome then some k.nextPost else none
  let x : Txn :=
    { tag := tag, q := q, uid := r.job.uid, ctx := r.job.ctx, body := b, cel := s.firstPort c b, key := s.keyOf (s.owner c), got := none,
      wrote := false, num := num }
  let t := { t with rid := rid, chan := if isRs then some (r.chan.getD (s.rsChannel r.job.cmd)) else none }
  let s1 := s.modCore c fun k =>
    { k with
      txns := k.txns ++ [x]
      lastQ := q
      nextPost := k.nextPost + bn num.isSome
      dmaq := vmod k.dmaq q fun d =>
        { d with queue := if fresh then d.queue.tail else d.queue, run := if fresh then d.run ++ [t] else d.run.dropLast ++ [t] } }
  let s1 := (s1.bump (.sto c) 5 1).sendFirst c x
  if isRs then
    let s1 := if r.rid.isNone then s1.modPort p fun u => { u with nextRid := u.nextRid + 1 } else s1
    match s.rsMsg c r t b (rid.getD 0) tag with
    | some m => ((s1.sendLink p m).bump (.sto c) 6 m.payload.length).bump (.sto c) 7 m.payload.length
    | none => s1
  else s1

/-- The queue whose transaction starts next, in turn among those that are ready and have a tag. -/
def State.dmaNext (s : State) (c : CoreId) : Option QId :=
  ((List.range 8).map fun i => (Fin.ofNat 8 ((s.core c).lastQ.val + 1 + i) : QId)).find? fun q => (s.ready c q).isSome && s.mayTag c q

/-- The transaction of a queue starts, if one is ready. -/
def State.startFrom (s : State) (c : CoreId) (q : QId) (o : Option (DmaRun × Bool × TxnBody × DmaRun)) : State :=
  match o with
  | some (r, fresh, b, t) => s.startTxn c q r fresh b t
  | none => s

/-- One bc of a DMA engine, once the commands without a transaction have left the queues. -/
def State.dmaIssue (s : State) (c : CoreId) : State :=
  let s' := s.bump (.sto c) 8 (((List.finRange 8).filter fun q => (s.ready c q).isSome && !s.mayTag c q).length)
  match s.dmaNext c with
  | none => s'
  | some q => s'.startFrom c q (s.ready c q)

/-- One bc of a DMA engine. -/
def State.dmaStart (s : State) (c : CoreId) : State :=
  ((List.finRange 8).foldl (fun s q => State.skipIdle 17 s c q) s).dmaIssue c

/-! ## What transactions do -/

/-- 64-byte lines that a transaction writes, first and last. -/
def TxnBody.lines (c : CoreId) (b : TxnBody) : Option (Nat × Nat) :=
  (b.writes c).bind fun (a, n) => if n = 0 then none else some (a / 64, (a + n - 1) / 64)

/-- No transaction of the queue started earlier still has to write a line that this one writes (R339). -/
def orderFree (c : CoreId) (x : Txn) : List Txn → Bool
  | [] => true
  | t :: r =>
    if t.tag = x.tag then true
    else
      (match t.q == x.q && !t.wrote, t.body.lines c, x.body.lines c with
       | true, some (a, b), some (d, e) => decide (b < d) || decide (e < a)
       | _, _, _ => true) && orderFree c x r

/-- A signal that the core posted to core d before its number `num` has not been applied: a write to that core's storeroom which the
core sent then does not overtake it (R25). -/
def State.signalAhead (s : State) (c d : CoreId) (num : Nat) : Bool :=
  let before (m : SyncMsg) : Bool := m.src == c && decide (m.post < num)
  (s.core d).inbox.any before || s.mesh.bufs.toList.any fun l => l.any fun f => match f.msg with
    | .signal e m => e == d && before m
    | _ => false

/-- A transaction may write now. -/
def State.mayWrite1 (s : State) (c : CoreId) (x : Txn) : Bool :=
  orderFree c x (s.core c).txns &&
    (match s.remoteDst c x.body with
     | some d => !s.signalAhead c d (x.sent.getD (s.core c).nextPost)
     | none => true)

/-- A posted write of core c to core d's storeroom, sent before its number `post` and with nothing of its own queue to wait for, has not
been made: a signal posted then does not overtake it (R25, R307). -/
def State.writeAhead (s : State) (c d : CoreId) (post : Nat) : Bool :=
  (s.core c).txns.any fun t => !t.wrote && (t.sent.any fun n => decide (n ≤ post)) && s.remoteDst c t.body == some d &&
    orderFree c t (s.core c).txns

/-- Bytes that never arrived: poisoned, their data free values (R333; log entries 13 and 30). -/
def lostBytes (a n : Nat) : List (Byte × Bool) := (List.range n).map fun i => (Config.unmappedByte (a + i), true)

/-- Bytes that a transaction reads; from a window that is no longer mapped none arrive (R323). -/
def State.txnRead (s : State) (x : Txn) (a n : Nat) : List (Byte × Bool) :=
  if s.mapped a n then s.mem.read x.key a n else lostBytes a n

/-- A MOVE's values written to the core's skip registers, 4 bytes at a time, ascending (R252). -/
def State.writeSkip (s : State) (c : CoreId) (a : Nat) (data : List Byte) : State :=
  (List.range (data.length / 4)).foldl (fun s i =>
    let o := a - (REG_BASE + (Page.fu c).base) + 4 * i
    let v := w32 (leNat ((data.drop (4 * i)).take 4))
    let m := blockMask (.fu c) o
    if 0x800 ≤ o ∧ o < 0x840 then s.setPg (.fu c) o ((s.pg (.fu c) o &&& ~~~m) ||| (v &&& m)) else s) s

/-- Bytes written by a transaction, and counted (R347); those no longer mapped are dropped (log entry 13). -/
def State.txnWrite (s : State) (c : CoreId) (key a : Nat) (l : List (Byte × Bool)) : State :=
  let counted := s.bump (.sto c) 7 l.length
  if skipBase c ≤ a ∧ a < skipBase c + 0x40 then counted.writeSkip c a (l.map (·.1))
  else if s.mapped a l.length then counted.coreWrite c key a l
  else s

/-- A read that a transaction makes is counted. -/
def State.txnCount (s : State) (c : CoreId) (a n : Nat) : State := (s.bump (.sto c) 6 n).countAccess a n 0

/-- Storeroom words set one by one. -/
def State.setWords (s : State) (c : CoreId) (w : Nat) (ws : List StoWord) : State :=
  ws.zipIdx.foldl (fun s (x, i) => s.setStoWord c (w + i) x) s

/-- The data of a transaction: those it has received, else those it reads now. -/
def State.txnData (s : State) (x : Txn) : List (Byte × Bool) := x.got.getD (x.body.reads.flatMap fun e => s.txnRead x e.1 e.2)

/-- The reads of a transaction that has received nothing yet are counted. -/
def State.countReads (s : State) (c : CoreId) (x : Txn) : State :=
  if x.got.isSome then s else x.body.reads.foldl (fun s e => s.txnCount c e.1 e.2) s

/-- The data of a transaction arrive: at its grant, its answer or its completion. -/
def State.receive (s : State) (c : CoreId) (x : Txn) (data : List (Byte × Bool)) : State :=
  (s.countReads c x).modTxn c x.tag fun t => { t with got := some data }

/-- The write of a transaction with data `d`, unless it has been made. -/
def State.landTxn (s : State) (c : CoreId) (x : Txn) (d : List (Byte × Bool)) : State :=
  if x.wrote then s
  else
    match x.body with
    | .move _ dst _ | .gather _ dst => s.txnWrite c x.key dst d
    | .put dst d => s.txnWrite c x.key dst d
    | .fill w n v fe => (s.bump (.sto c) 7 (8 * n)).setWords c w (List.replicate n { data := v, fe := fe, poison := false })
    | .copy w ws => ((s.bump (.sto c) 6 (8 * ws.length)).bump (.sto c) 7 (8 * ws.length)).setWords c w ws
    | .get .. | .wr .. | .sg _ => s

/-- The effect of a transaction when its write is acknowledged or its data have arrived. -/
def State.applyTxn (s : State) (c : CoreId) (x : Txn) : State := (s.countReads c x).landTxn c x (s.txnData x)

/-- The write of a transaction is made before its completion: at its grant or its answer. -/
def State.writeNow (s : State) (c : CoreId) (x : Txn) : State :=
  (s.applyTxn c x).modTxn c x.tag fun t => { t with got := some (s.txnData x), wrote := true }

/-! ## Converting MOVEs (R137, R204, R420) -/

/-- A source row as its read transactions delivered it, each byte with its poison (R335). -/
def DmaRun.srcRow (r : DmaRun) (i : Nat) : List (Byte × Bool) :=
  let l := moveRow r.job.cmd r.job.desc
  ((r.got.flatMap (·.2)).drop (i * l)).take l

/-- A byte of a source tile that the compressor takes a value from: width and gsize, the exponents in use, the dense body (R137). -/
def tileByteUsed (w gsize i : Nat) : Bool :=
  i == 0 || decide (64 ≤ i ∧ i < 64 + (if gsize = 1 then 64 else if gsize = 2 then 32 else 128)) ||
    decide (192 ≤ i ∧ i < 192 + 512 * w)

/-- The elements of a source row in sfmt. -/
def rowFloats (f : Fmt) (bs : List Byte) : List W32 :=
  let es := f.bits / 8
  (List.range (bs.length / es)).map fun i =>
    let v := leNat ((bs.drop (es * i)).take es)
    match f with
    | .bf16 => bfToF (BitVec.ofNat 16 v)
    | _ => w32 v

/-- What a converting MOVE writes, once its data have arrived. -/
def DmaRun.convert (r : DmaRun) : OutSet :=
  let w := r.job.cmd
  let rows := (List.range r.job.cnt).map fun i => (i, r.srcRow i)
  if cb w 2 20 then
    let f := fmtField (cf w 2 21 6)
    outRows r.job.desc (cb w 2 19) (rows.map fun (i, l) =>
      let n := f.bits / 8
      { row := i, col := 0, vals := rowFloats f (l.map (·.1)), pad := 0,
        bad := (List.range (l.length / n)).map fun k => ((l.drop (n * k)).take n).any (·.2) })
  else
    { segs := rows.map fun (i, l) =>
        let m := Mem.reset.setBytes 0 (l.map (·.1))
        let h := m.tileHdr 0
        let codes := denseCodes h.width (m.le 192 (512 * h.width))
        mkSeg (moveDst w i) (l.zipIdx.any fun ((_, p), k) => p && tileByteUsed h.width h.gsize k) (compressTile h.width h.gsize h.ew codes),
      clips := 0, excess := 0, first := none }

/-- The data of a converting MOVE have all arrived: its write transactions can be formed. -/
def State.convertRun (s : State) (c : CoreId) (q : QId) (uid : Nat) : State :=
  let k := s.core c
  match k.dmaq[q].run.find? fun r => r.job.uid == uid with
  | none => s
  | some r =>
    if converts r.job.cmd && r.out.isNone && decide (r.job.cnt ≤ r.row) && !(k.txns.any fun t => t.uid == uid) then
      let o := r.convert
      let s := s.modCore c fun k => k.modQueue q fun d =>
        { d with run := d.run.map fun t =>
            if t.job.uid = uid then
              { t with out := some o.segs, full := some (o.excess, o.first), got := [], row := 0, off := 0, started := o.segs.isEmpty }
            else t }
      s.countClips c r.job.desc.tag o.clips
    else s

/-- The data of a read transaction of a converting MOVE stay with their command, in the order of its source. -/
def State.keepData (s : State) (c : CoreId) (x : Txn) (data : List (Byte × Bool)) : State :=
  match x.body with
  | .get pos _ _ =>
    s.modCore c fun k => k.modQueue x.q fun d =>
      { d with run := d.run.map fun r => if r.job.uid = x.uid then { r with got := smIns pos data r.got } else r }
  | _ => s

/-- A transaction frees its tag (R335). -/
def State.dropTxn (s : State) (c : CoreId) (tag : Nat) : State :=
  let s := s.modCore c fun k => { k with txns := k.txns.filter fun t => t.tag != tag }
  { s with mesh := s.mesh.dropTxn c tag }

/-- A transaction completes: its write is acknowledged, or its data have arrived. -/
def State.txnDone (s : State) (c : CoreId) (tag : Nat) : State :=
  match (s.core c).txns.find? fun t => t.tag == tag with
  | none => s
  | some x =>
    let remote := match x.body with
      | .wr .. | .sg _ => true
      | _ => false
    if remote || x.cel.isSome || !s.mayWrite1 c x then s
    else (((s.applyTxn c x).keepData c x (s.txnData x)).dropTxn c tag).convertRun c x.q x.uid

/-! ## Completion of commands (R338, R333) -/

/-- The crates of a quantising MOVE could not hold every outlier: recorded as the command completes (R103). -/
def State.moveFull (s : State) (c : CoreId) (r : DmaRun) : State :=
  match r.full with
  | some (n, first) => s.crateFull c r.job { segs := [], clips := 0, excess := n, first := first }
  | none => s

/-- The oldest command of a queue completes and posts its signal. -/
def State.dmaDone (s : State) (c : CoreId) (q : QId) : State :=
  let k := s.core c
  match k.dmaq[q].run with
  | r :: rest =>
    if r.started && !r.withheld && !(k.txns.any fun t => t.uid == r.job.uid) then
      (((s.modCore c fun k => k.modQueue q fun d => { d with run := rest }).moveFull c r).complete c r.job).settle c
    else s
  | [] => s

/-- Commands of a queue count as completed, without a signal (R333). -/
def State.discardRuns (s : State) (c : CoreId) (q : QId) (p : DmaRun → Bool) : State :=
  let gone := ((s.core c).dmaq[q].run.filter p).map (·.job.uid)
  s.modCore c fun k =>
    { (k.modQueue q fun d => { d with run := d.run.filter fun r => !p r }) with live := k.live.filter fun e => !gone.contains e.1 }

/-- Software clears DMA_QSTATq.halted. -/
def State.resumeQueue (s : State) (c : CoreId) (q : QId) : State :=
  if ((s.core c).dmaq[q]).halted then
    ((s.discardRuns c q (·.withheld)).modCore c fun k => k.modQueue q fun d => { d with halted := false }).settle c
  else s

/-- A function reaches the pages of a core: it owns it, or it is function 0 (R403, R7). -/
def State.reaches (s : State) (f : FnId) (c : CoreId) : Bool :=
  s.pkgUp && s.hostUp f && s.enabled c && (f == 0 || s.owner c == f.val)

/-- DMA_TRANSACTION_START: one bc of a DMA engine (R337). -/
def execDmaTransactionStart (c : CoreId) (s : State) : Host.Outcome State Fault Refusal :=
  .next (if s.seqUp c then (s.dmaStart c).settle c else s)

/-- DMA_TRANSACTION_COMPLETE (R335, R339); transactions in flight complete under a core fault too (R422). -/
def execDmaTransactionComplete (c : CoreId) (tag : TagId) (s : State) : Host.Outcome State Fault Refusal :=
  .next (if s.coreUp c then (s.txnDone c tag.val).settle c else s)

/-- DMA_COMMAND_COMPLETE (R338). -/
def execDmaCommandComplete (c : CoreId) (q : QId) (s : State) : Host.Outcome State Fault Refusal :=
  .next (if s.unitUp c then s.dmaDone c q else s)

/-- DMA_QUEUE_RESUME (R333, R344). -/
def execDmaQueueResume (fn : FnId) (c : CoreId) (q : QId) (s : State) : Host.Outcome State Fault Refusal :=
  .next (if s.reaches fn c then s.resumeQueue c q else s)

end Sys2Proof.Machine
end

