-- ==== Sys2Proof/Machine/SyncOps.lean ====
section
/-! DEFINITION. The sync unit, rafter lines and the mesh as the rows of the table drive them (01, 12). -/

namespace Sys2Proof.Machine
open Sys2Proof

/-! ## The mesh (R23 to R26) -/

/-- Output of a router towards a bay: along the row first, then along the column (R18, R23). -/
def route (b dst : BayId) : Dir :=
  let (r, c) := (b.val / 4, b.val % 4)
  let (r', c') := (dst.val / 4, dst.val % 4)
  if c < c' then .east else if c' < c then .west else if r < r' then .south else if r' < r then .north else .loc

/-- Numbers of the directions, in the fixed order of R26. -/
def dirNum : Dir → Nat
  | .north => 0
  | .east => 1
  | .south => 2
  | .west => 3
  | .loc => 4

/-- Index of a buffer, or of an output's turn, of class k. -/
def meshIndex (b : BayId) (d k : Nat) : Fin 160 := Fin.ofNat 160 (10 * b.val + 2 * d + k)

/-- The flit that input d of class k presents for an output. -/
def Mesh.head (m : Mesh) (b : BayId) (d k : Nat) (out : Dir) : Option MeshFlit :=
  match m.bufs[meshIndex b d k] with
  | f :: _ => if route b f.dst = out then some f else none
  | [] => none

/-- The first of some inputs after the last granted of an output (R26). -/
def Mesh.turn (m : Mesh) (b : BayId) (out : Dir) (k : Nat) (p : Nat → Bool) : Option Nat :=
  let last := m.last[meshIndex b (dirNum out) k]
  ((List.range 5).map fun i => (last + 1 + i) % 5).find? p

/-- The input and class granted: a request that has waited 16 cycles, else a response, else a request (R26). -/
def Mesh.grant (m : Mesh) (b : BayId) (out : Dir) : Option (Nat × Nat) :=
  let has (k d : Nat) := (m.head b d k out).isSome
  let aged (d : Nat) := match m.head b d 0 out with
    | some f => decide (16 ≤ f.waited)
    | none => false
  ((m.turn b out 0 aged).map (·, 0)).orElse fun _ => ((m.turn b out 1 (has 1)).map (·, 1)).orElse fun _ =>
    (m.turn b out 0 (has 0)).map (·, 0)

/-- The neighbour beyond an output, and the input at which a flit reaches it. -/
def neighbour (b : BayId) (out : Dir) : BayId × Nat :=
  match out with
  | .north => (Fin.ofNat 16 (b.val - 4), 2)
  | .south => (Fin.ofNat 16 (b.val + 4), 0)
  | .east => (Fin.ofNat 16 (b.val + 1), 3)
  | .west => (Fin.ofNat 16 (b.val - 1), 1)
  | .loc => (b, 4)

/-- Every flit that waits for an output has waited one cycle more, wherever it stands in its buffer (R26). -/
def Mesh.wait1 (m : Mesh) (b : BayId) (out : Dir) : Mesh :=
  { m with bufs := (List.range 10).foldl (fun v i =>
      let ix := meshIndex b (i / 2) (i % 2)
      vmod v ix fun l => l.map fun f => if route b f.dst = out then { f with waited := f.waited + 1 } else f) m.bufs }

/-- A flit leaves the mesh at its bay (R307). The spec gives a crossing at least 8 entries and no depth (R30): the crossing into a core is
a list without a bound, which is never full, so that no sender stalls. DESIGN CHOICE, log entry 10. -/
def State.arriveFlit (s : State) (f : MeshFlit) : State :=
  match f.msg with
  | .signal c m => s.modCore c fun k => { k with inbox := k.inbox ++ [m] }
  | .ack c a => s.modCore c fun k => { k with acks := k.acks ++ [a] }
  | .txn c tag leg home => s.legArrives c tag leg home
  | .carried (some b) => s.inject f.dst { resp := true, dst := b, msg := .carried none, waited := 0 }
  | .carried none => s

/-- One mesh cycle of a router output. The spec gives the router buffers no size (R24): they are lists without a bound, so that a router
never holds back its neighbour. DESIGN CHOICE, log entry 10. -/
def State.routerStep (s : State) (b : BayId) (out : Dir) : State :=
  match s.mesh.grant b out with
  | none => { s with mesh := s.mesh.wait1 b out }
  | some (d, k) =>
    match s.mesh.bufs[meshIndex b d k] with
    | [] => s
    | f :: rest =>
      let m := { s.mesh with bufs := s.mesh.bufs.set (meshIndex b d k) rest, last := s.mesh.last.set (meshIndex b (dirNum out) k) d }
      let m := m.wait1 b out
      if out = .loc then ({ s with mesh := m } : State).arriveFlit f
      else
        let (nb, inp) := neighbour b out
        { s with mesh := { m with bufs := vmod m.bufs (meshIndex nb inp k) fun l => l ++ [{ f with waited := 0 }] } }

/-! ## Signals from other cores (R296 to R298, R307) -/

/-- The acknowledgement of a posted signal goes back in the response class. -/
def State.sendAck (s : State) (c : CoreId) (m : SyncMsg) (o : Outcome) : State :=
  s.inject (bayOf c) { resp := true, dst := bayOf m.src, msg := .ack m.src { ctx := m.ctx, post := m.post, out := o }, waited := 0 }

/-- The signal that a core takes next: the oldest that has reached it over the mesh and has no posted write of its own core, sent
before it, still to be made ahead of it (R25, R307). -/
def State.nextSignal (s : State) (c : CoreId) : Option SyncMsg := (s.core c).inbox.find? fun m => !s.writeAhead m.src c m.post

/-- The next signal of a core is applied, or refused under SYNC_PEERS. -/
def State.takeSignal (s : State) (c : CoreId) (dec : Bool) : State :=
  match s.nextSignal c with
  | none => s
  | some m =>
    if m.dec != dec then s
    else
      let s := (s.modCore c fun k => { k with inbox := k.inbox.erase m }).touch c
      if !s.peer c m.src then (s.bump (.sync c) 3 1).sendAck c m .refused
      else if dec then
        let (s, r) := s.applyDecrement c m.word m.n m.gcid
        s.sendAck c m (match r with
          | none => .applied
          | some cnt => .underflow (w32 cnt) m.word c)
      else ((s.applySignal c m.word m.n m.gcid).sendAck c m .applied).settle c

/-- An acknowledgement reaches the core that posted (R208, R209, R220). -/
def State.takeAck (s : State) (c : CoreId) : State :=
  match (s.core c).acks with
  | [] => s
  | a :: rest =>
    let p := (s.core c).posts.find? fun p => p.num == a.post
    let s := s.modCore c fun k => { k with acks := rest, posts := k.posts.filter fun p => p.num != a.post }
    match p.bind (·.job) with
    | none => s.settle c
    | some j =>
      let held := match (s.ctx c j.ctx).hold with
        | .decrement _ n => n == a.post
        | _ => false
      let m := 0x1_0000_0000 - j.cmd[2].toNat
      let s := match held, a.out with
        | true, .underflow cnt word core => (s.retire c j.uid).foundFault c j.ctx (underflowRec j.cmd word core cnt.toNat m) j.off (some j.cmd)
        | true, .refused => (s.retire c j.uid).foundFault c j.ctx (refusedRec j.cmd) j.off (some j.cmd)
        | true, .applied => (s.unholdCtx c j.ctx).complete c j
        | false, _ => s.complete c j
      s.settle c

/-! ## Waits (R302, R304, R305) -/

/-- A released context becomes READY (R302). -/
def State.waiterReady (s : State) (c : CoreId) (x : CtxId) : State :=
  if (s.ctx c x).hold = .released ∧ (s.ctx c x).cur = .wait then s.unholdCtx c x else s

/-- Number of cores of a line's mask that have not arrived. -/
def State.missing (s : State) (l : LineId) : Nat :=
  ((List.range 64).filter fun i => (s.rafMask l).testBit i && !(s.rafArr l).testBit i).length

/-- A wait's timeout expires (R304, R305). DESIGN CHOICE, safe (log 29): a pooled RERUN that ends so leaves FU_RERUN_STAT and
FU_RERUN_SUM as they were, since R105, R110 and R111 give no update of them for this fault. -/
def State.waitTimeout (s : State) (c : CoreId) (x : CtxId) : State :=
  match (s.core c).waitOf x with
  | none => s
  | some w =>
    if w.remain != some 0 || (s.ctx c x).run == .frozen then s
    else
      let isLine := w.kind == .barrier || w.kind == .rerun
      let cnt := if isLine then s.missing w.line else (s.syncAt c w.word).count
      let r := mkRec 0x0202 (opcode w.job.cmd + w.vid.toNat <<< 8 + w.kind.code <<< 16 + w.line.val <<< 19 + w.tclass.val <<< 23)
        (w.word + c.val <<< 24) cnt w.n
      let s := (s.dropWaits c [w]).bump (.sync c) 4 1
      let s := if isLine then s.leaveLine c w.line else s.rerunQueue c w.word true
      let s := if w.kind = .preWait then s else s.retire c w.job.uid
      (s.foundFault c x r w.job.off (some w.job.cmd)).settle c

/-- DEADLOCK (R309, R310). -/
def State.deadlock (s : State) (c : CoreId) : State :=
  let win := (s.pg (.sync c) SYNC_DLK_WINDOW).toNat
  let k := s.core c
  if win = 0 ∨ k.dlk < win ∨ k.dlkFired then s
  else
    let info (x : CtxId) : W32 := match k.waitOf x with
      | some w => w32 ((if w.kind = .barrier ∨ w.kind = .rerun then w.line.val else w.word) + w.kind.code <<< 24)
      | none => 0
    ((s.modCore c fun k => { k with dlkFired := true }).bump (.sync c) 6 1).record (.sync c)
      { code := 0x0203, i0 := info 0, i1 := info 1, i2 := info 2, i3 := info 3 }

/-! ## Rafters (R311 to R318) -/

/-- One entry of a realign list (R317): the count found when it differed from plan. -/
def State.realign (s : State) (c : CoreId) (word : Nat) (plan : W32) : State × Option Nat :=
  let old := s.syncAt c word
  let differs := old.count != plan.toNat
  let (s, rel, k) := s.releaseLoop c word plan.toNat
  let s := (s.putSync c word { old with count := k, drift := old.drift || differs }).countSync c
  let s := s.bump (.sync c) 5 (bn differs)
  (rel.foldl (fun s w => s.released (fun s x t => s.signal c x t 1 none) c w) s, if differs then some old.count else none)

/-- Count found minus plan, saturated to 32 bits signed (R318). -/
def driftDelta (count plan : Nat) : W32 :=
  BitVec.ofInt 32 (max (-2147483648) (min 2147483647 ((count : Int) - (plan : Int))))

/-- The realign list of a BARRIER, and the entries that differed from plan, with the counts found (R317). -/
def State.realignPlan (s : State) (c : CoreId) (w : Wait) : State × List (Byte × Nat × Nat × W32) :=
  w.plan.foldl (fun a e =>
    let r := a.1.realign c e.2.1 e.2.2
    (r.1, a.2 ++ (r.2.map fun cnt => (e.1, e.2.1, cnt, e.2.2)).toList)) (s, [])

/-- SYNC_DRIFT names the first entry that differed, and how many did (R318). -/
def State.recordDrift (s : State) (c : CoreId) (w : Wait) (ds : List (Byte × Nat × Nat × W32)) : State :=
  match ds with
  | [] => s
  | (v, word, cnt, plan) :: _ =>
    s.record (.ctx c w.ctx)
      { code := 0x0204, i0 := w32 (v.toNat + ds.length <<< 8), i1 := w32 word, i2 := w32 cnt, i3 := driftDelta cnt plan.toNat }

/-- A BARRIER realigns (R317, R318). -/
def State.realignAll (s : State) (c : CoreId) (w : Wait) : State :=
  (s.realignPlan c w).1.recordDrift c w (s.realignPlan c w).2

/-- The sum that a pooled RERUN compares (R109). -/
def State.pooledSum (s : State) (l : LineId) (tag : Nat) : Nat :=
  (List.finRange 64).foldl (fun n c =>
    if (s.rafMask l).testBit c.val then sat32 (n + (s.pg (.fu c) (FU_QSAT_SNAP tag)).toNat) else n) 0

/-- A line wait is released (R312, R313, R317). -/
def State.releaseLine (s : State) (c : CoreId) (w : Wait) : State :=
  let free (s : State) : State := s.modCtx c w.ctx fun x => { x with hold := .released }
  if w.kind = .rerun then s.rerunOutcome c w.job (s.pooledSum w.line (satTag w.job.cmd)) true free
  else ((free s).realignAll c w).complete c w.job

/-- A line asserts when every masked bit is set: those bits clear, every wait of the mask's cores is released (R312). A core with
a core fault keeps its waits (R423). -/
def State.lineAssert (s : State) (l : LineId) : State :=
  let mask := s.rafMask l
  if mask = 0 ∨ s.missing l ≠ 0 then s
  else
    let s := (s.setArr l (s.rafArr l - mask)).bump .pkg 0 1
    (List.finRange 64).foldl (fun s c =>
      if mask.testBit c.val && !(s.core c).fault then
        let ws := (s.core c).waits.filter fun w => w.onLine l
        (ws.foldl (fun s w => s.releaseLine c w) (s.dropWaits c ws)).settle c
      else s) s

/-! ## Registers with an effect (R308, R319) -/

/-- SYNC_DBG_WAIT of a queue and a word. -/
def dbgWait (q : List Wait) (x : StoWord) : W32 :=
  w32 (q.length + (q.zipIdx.map fun (w, i) => w.ctx.val <<< (4 + 2 * i)).sum + bn x.fe <<< 12 + bn x.poison <<< 13 + 1 <<< 31)

/-- A write of SYNC_DBG_ADDR latches its word and its queue; a sync operation that changes nothing (R319). -/
def State.dbgLatch (s : State) (c : CoreId) (v : W32) : State :=
  let word := bits v 0 24
  let x := s.stoWordAt c word
  let s := (s.setPg (.sync c) SYNC_DBG_ADDR (w32 word)).countSync c
  let s := s.setPg (.sync c) SYNC_DBG_LO (x.data.setWidth 32)
  let s := s.setPg (.sync c) SYNC_DBG_HI ((x.data >>> 32).setWidth 32)
  s.setPg (.sync c) SYNC_DBG_WAIT (dbgWait ((s.core c).queueOn word) x)

/-- A host signal (R308). -/
def State.hostSignal (s : State) (c : CoreId) (n : W32) : State :=
  if n = 0 then s
  else (((s.carry hostBay (bayOf c) false).touch c).applySignal c (bits (s.pg (.sync c) SYNC_HOST_ADDR) 0 24) n.toNat gcidHost).settle c

/-! ## The commands -/

/-- SYNC_SIGNAL_ARRIVAL (R296, R298). -/
def execSyncSignalArrival (c : CoreId) (s : State) : Host.Outcome State Fault Refusal :=
  .next (if s.coreUp c then s.takeSignal c false else s)

/-- SYNC_DECREMENT (R297, R298). -/
def execSyncDecrement (c : CoreId) (s : State) : Host.Outcome State Fault Refusal :=
  .next (if s.coreUp c then s.takeSignal c true else s)

/-- MESH_ACKNOWLEDGEMENT (R208, R209). -/
def execMeshAcknowledgement (c : CoreId) (s : State) : Host.Outcome State Fault Refusal :=
  .next (if s.coreUp c then s.takeAck c else s)

/-- ROUTER_GRANT: one mesh cycle of a router output (R26). -/
def execRouterGrant (b : BayId) (out : Dir) (s : State) : Host.Outcome State Fault Refusal :=
  .next (if s.pkgUp then s.routerStep b out else s)

/-- WAITER_READY (R302, R313). -/
def execWaiterReady (c : CoreId) (x : CtxId) (s : State) : Host.Outcome State Fault Refusal :=
  .next (if s.coreUp c then s.waiterReady c x else s)

/-- SYNC_TIMEOUT (R304, R305, R315). -/
def execSyncTimeout (c : CoreId) (x : CtxId) (s : State) : Host.Outcome State Fault Refusal :=
  .next (if s.coreUp c then s.waitTimeout c x else s)

/-- DEADLOCK (R309, R310). -/
def execDeadlock (c : CoreId) (s : State) : Host.Outcome State Fault Refusal := .next (if s.coreUp c then s.deadlock c else s)

/-- RAFTER_LINE_ASSERT (R312 to R318). -/
def execRafterLineAssert (l : LineId) (s : State) : Host.Outcome State Fault Refusal := .next (if s.pkgUp then s.lineAssert l else s)

/-- SYNC_DBG_ADDR_WRITE (R319). -/
def execSyncDbgAddrWrite (fn : FnId) (c : CoreId) (value : W32) (s : State) : Host.Outcome State Fault Refusal :=
  .next (if s.reaches fn c then s.dbgLatch c value else s)

/-- SYNC_HOST_SIG_WRITE (R308). -/
def execSyncHostSigWrite (fn : FnId) (c : CoreId) (n : W32) (s : State) : Host.Outcome State Fault Refusal :=
  .next (if s.reaches fn c then s.hostSignal c n else s)

end Sys2Proof.Machine
end

