-- ==== Sys2Proof/Machine/Arrays.lean ====
section
/-! DEFINITION. The memory arrays as the rows of the table drive them: shelves, ECC and scrubbing (11), attic channels, arbiters
and cellar ports (13).

A shelf's arbitration moves time only (R40, R279): what an access reads or writes comes about in the row of its command. Its queues, its
grants and its counters are held. -/

namespace Sys2Proof.Machine
open Sys2Proof

/-! ## Shelves (R270, R273, R277) -/

/-- Shelf of a storeroom word: 4q + offset[7:6], q offset[26:24] (R270). -/
def shelfOf (word : Nat) : Nat := 4 * (word / 0x20_0000 % 8) + word / 8 % 4

/-- Lanes of a port (R273). -/
def portLanes (p : Nat) : Nat := if p ≤ 1 then 9 else 2

/-- Two accesses of one lane. -/
def sameLane (a b : ShelfAcc) : Bool := a.port == b.port && a.lane == b.lane

/-- The oldest access of each lane, the only ones that a shelf may grant: a lane's accesses keep their order (R275). -/
def laneHeads : List (ShelfAcc × Nat) → List ShelfAcc → List (ShelfAcc × Nat)
  | [], _ => []
  | e :: r, seen => if seen.any (sameLane e.1) then laneHeads r seen else e :: laneHeads r (e.1 :: seen)

def Shelf.heads (f : Shelf) : List (ShelfAcc × Nat) := laneHeads f.waiting []

/-- A port requests the shelf. -/
def Shelf.asks (f : Shelf) (p : Fin 5) : Bool := f.heads.any fun e => e.1.port == p

/-- A port is bound to a shelf (R276). -/
def State.bound (s : State) (c : CoreId) (h : ShelfId) (p : Fin 5) : Bool := bit (s.pg (.sto c) (STO_PORTMAP p.val)) h.val

/-- The bc that the oldest request of a port has waited. -/
def Shelf.age (f : Shelf) (p : Fin 5) : Nat := f.heads.foldl (fun n e => if e.1.port = p then max n e.2 else n) 0

/-- What a shelf grants: a port, by age or not, or the scrubber. -/
inductive ShelfGrant where
  | port (p : Fin 5) (aged : Bool)
  | scrubber (aged : Bool)
  deriving DecidableEq, Repr

/-- Step 1 of R277: the oldest aged request, the lower port first, the scrubber last. -/
def Shelf.agedGrant (f : Shelf) (bound : Fin 5 → Bool) : Option ShelfGrant :=
  let ports := (List.finRange 5).filter fun p => f.asks p && !bound p && decide (16 ≤ f.age p)
  let best := ports.foldl (fun (b : Option (Fin 5)) p => match b with
    | some q => if f.age q < f.age p then some p else some q
    | none => some p) none
  match best, f.scrubWait with
  | some p, some n => if 256 ≤ n ∧ f.age p < n then some (.scrubber true) else some (.port p true)
  | some p, none => some (.port p true)
  | none, some n => if 256 ≤ n then some (.scrubber true) else none
  | none, none => none

/-- The first of some ports after the port granted last. -/
def Shelf.turn (f : Shelf) (ok : Fin 5 → Bool) : Option (Fin 5) :=
  ((List.range 5).map fun i => (Fin.ofNat 5 (f.last + 1 + i) : Fin 5)).find? ok

/-- The grant of R277. -/
def Shelf.grant (f : Shelf) (bound : Fin 5 → Bool) : Option ShelfGrant :=
  (f.agedGrant bound).orElse fun _ =>
    ((f.turn fun p => f.asks p && bound p).map (.port · false)).orElse fun _ =>
      ((f.turn fun p => f.asks p && !bound p).map (.port · false)).orElse fun _ =>
        if f.scrubWait.isSome then some (.scrubber false) else none

/-- The access granted within a port: that of the first requesting lane after the port's last. -/
def Shelf.laneTurn (f : Shelf) (p : Fin 5) : Option ShelfAcc :=
  (((List.range 9).map fun i => (f.lane[p] + 1 + i) % 9).findSome? fun l => f.heads.find? fun e => e.1.port == p && e.1.lane.val == l).map
    (·.1)

/-- A read of the ACT or WT port takes with it the reads of the port's other lanes of the same line (R274). -/
def joinsLine (a b : ShelfAcc) : Bool :=
  decide (a.port.val ≤ 1) && a.port == b.port && !a.write && !b.write && a.word.toNat / 8 == b.word.toNat / 8

/-- The accesses that one grant serves. -/
def Shelf.servedBy (f : Shelf) (a : ShelfAcc) : List ShelfAcc := (f.heads.map (·.1)).filter fun b => b == a || joinsLine a b

/-- One bc more for every access that still waits. -/
def Shelf.wait1 (f : Shelf) : Shelf := { f with waiting := f.waiting.map fun e => (e.1, e.2 + 1), scrubWait := f.scrubWait.map (· + 1) }

/-- The oldest access of the lane of each access served leaves the list. -/
def dropServed (l : List ShelfAcc) : List (ShelfAcc × Nat) → List ShelfAcc → List (ShelfAcc × Nat)
  | [], _ => []
  | e :: r, gone =>
    if (l.any (sameLane e.1)) && !(gone.any (sameLane e.1)) then dropServed l r (e.1 :: gone) else e :: dropServed l r gone

/-- A shelf after the bc of a grant: a read-modify-write holds it for its second access (R269). -/
def Shelf.after (f : Shelf) (g : Option ShelfGrant) : Shelf :=
  match g with
  | some (.port p _) =>
    match f.laneTurn p with
    | some a =>
      let l := f.servedBy a
      { (({ f with waiting := dropServed l f.waiting [] } : Shelf).wait1) with
        last := p.val, lane := f.lane.set p a.lane.val, lock := if a.rmw then some a else none, served := l }
    | none => { f.wait1 with served := [] }
  | some (.scrubber _) => { f.wait1 with scrubWait := none, served := [] }
  | none => { f.wait1 with served := [] }

/-- The bc of the second access of a read-modify-write: it is granted without arbitration, and nothing else (R269, R277). -/
def Shelf.second (f : Shelf) (a : ShelfAcc) : Shelf := { f.wait1 with lock := none, served := [a] }

/-- Accesses enter a shelf: those of its words, from lanes that exist. -/
def Shelf.present (f : Shelf) (h : ShelfId) (l : List ShelfAcc) : Shelf :=
  { f with waiting := f.waiting ++
      (l.filter fun a => decide (a.lane.val < portLanes a.port.val) && shelfOf a.word.toNat == h.val).map fun a => (a, 0) }

/-- The counters of one bc of a shelf (R278): `asking` its ports, whether the access granted strays, whether it aged. -/
def State.shelfCount (s : State) (c : CoreId) (asking : Nat) (stray aged : Bool) : State :=
  ((s.bump (.sto c) 0 (bn (decide (2 ≤ asking)))).bump (.sto c) 1 (bn stray)).bump (.sto c) 2 (bn aged)

/-- Ports that request a shelf, the one with a second access due among them. -/
def Shelf.asking (f : Shelf) : Nat := ((List.finRange 5).filter fun p => f.asks p || f.lock.any fun a => a.port == p).length

/-- One bc of one shelf, and its counters (R277, R278). -/
def State.shelfStep (s : State) (c : CoreId) (h : ShelfId) (l : List ShelfAcc) : State :=
  let f := (s.core c).shelves[h].present h l
  let put (g : Shelf) : State := s.modCore c fun k => { k with shelves := k.shelves.set h g }
  match f.lock with
  | some a => (put (f.second a)).shelfCount c f.asking (!s.bound c h a.port) false
  | none =>
    let g := f.grant (s.bound c h)
    let stray := match g with
      | some (.port p _) => !s.bound c h p
      | _ => false
    let aged := match g with
      | some (.port _ a) | some (.scrubber a) => a
      | none => false
    (put (f.after g)).shelfCount c f.asking stray aged

/-! ## ECC of the storeroom (R266, R267, R280 to R282)

A word of the array differs from what was written where bits have flipped; `Mem.flips` names them, the data and FE of `Mem` being those
written. A read decodes: one flipped bit is corrected, two or more are an uncorrectable error. -/

/-- A port number of R280 and R281: p of R273, or 7, the scrubber. -/
def eccPort (p : Nat) : Bool := decide (p < 5) || p == 7

/-- Flipped bits among the 74 stored ones. -/
def flipCount (f : BitVec 74) : Nat := ((List.range 74).filter fun i => f.getLsbD i).length

/-- What a read of a word decodes when the bits of `f` are flipped (R267). -/
inductive Decoded where
  | clean | corrected | uncorrectable
  deriving DecidableEq, Repr

def decodeWord (f : BitVec 74) : Decoded := if flipCount f = 0 then .clean else if flipCount f = 1 then .corrected else .uncorrectable

/-- The flipped bits that a read of a word finds: those that stood, and those that flipped since. -/
def State.flipsFound (s : State) (c : CoreId) (word : Nat) (f : BitVec 74) : BitVec 74 := s.mem.flipsAt (stoWord c word) ^^^ f

def Mem.setFlips (m : Mem) (w : Nat) (f : BitVec 74) : Mem := { m with flips := smSet noFlip m.flips w f }

/-- A corrected single-bit error: counted, recorded; the flipped bit stands until a write-back or another write (R280). -/
def State.eccCorrected (s : State) (c : CoreId) (word port : Nat) (f : BitVec 74) : State :=
  ((s.bump (.sto c) 3 1).setPg (.sto c) STO_CE_ADDR (w32 (word + port <<< 24 + 1 <<< 31))).modMem fun m => m.setFlips (stoWord c word) f

/-- A shelf has nothing to do in a bc. -/
def Shelf.idle (f : Shelf) : Bool := f.waiting.isEmpty && f.lock.isNone && f.scrubWait.isNone

/-- A word of a core's shelf. -/
def inShelf (c : CoreId) (h : ShelfId) (w : Nat) : Bool :=
  decide (stoWord c 0 ≤ w ∧ w < stoWord c 0x100_0000) && shelfOf (w - stoWord c 0) == h.val

/-- In an idle bc the correction of the lowest word of a shelf that waits is written back (R280, R287). -/
def State.writeBack (s : State) (c : CoreId) (h : ShelfId) : State :=
  if (s.core c).shelves[h].idle then
    match s.mem.flips.find? fun e => inShelf c h e.1 with
    | some e => s.modMem fun m => m.fixWord e.1
    | none => s
  else s

/-- The unit behind a lane of ports 0 to 2: an engine group, unit 8, the finishing unit. -/
def laneUnit (port lane : Nat) : Nat := if port = 2 then 9 else min lane 8

/-- The command whose read a unit makes by what the port carries (R273): through WT a TBUILD, through ACT a TILE or STILE that reads
planes, or one that an evaluation guards, through FU the finishing unit's. -/
def Core.readingJob (k : Core) (port u : Nat) : Option Job :=
  let t := k.unit u
  if port = 0 then (t.exec.find? reading).orElse fun _ => (t.queue.find? isTile).orElse fun _ => t.exec.find? isTile
  else if port = 1 then (t.exec.find? isBuild).orElse fun _ => t.queue.find? isBuild
  else t.exec.head?.orElse fun _ => t.queue.head?

/-- The port delivers an uncorrectable word: to an engine or the finishing unit, which is a core fault (R220, R421); through MESH it may
be the sequencer that has read it (R273; log entry 22). The read of a read-modify-write delivers nothing (R269). -/
def State.deliverBad (s : State) (c : CoreId) (word port lane : Nat) (rmw : Bool) : State :=
  if rmw ∨ port = 3 ∨ 4 < port then s
  else if port = 4 then s.modCore c fun k => { k with eccRead := stoWord c word :: k.eccRead }
  else
    let u := laneUnit port lane
    let (op, x) := match (s.core c).readingJob port u with
      | some j => (opcode j.cmd, j.ctx)
      | none => (0, 0)
    s.coreFault c u (poisonRec op x u port word true)

/-- An uncorrectable error: the word is rewritten with poison 1 and its data and FE as read, and recorded; ports 0 to 2 deliver it to an
engine or the finishing unit (R281). -/
def State.eccUncorrected (s : State) (c : CoreId) (word port lane : Nat) (rmw : Bool) (f : BitVec 74) : State :=
  let x := s.stoWordAt c word
  let s := (s.setStoWord c word { data := x.data ^^^ f.setWidth 64, fe := x.fe != f.getLsbD 64, poison := true }).bump (.sto c) 4 1
  (s.record (.sto c) (mkRec 0x0301 word (port + bn rmw <<< 3 + lane <<< 4 + shelfOf word <<< 8) 0 0)).deliverBad c word port lane rmw

/-- The scrubber of a shelf asks for its next line (R282). -/
def State.scrub (s : State) (c : CoreId) (h : ShelfId) : State :=
  if bits (s.pg (.sto c) STO_SCRUB) 0 16 = 0 then s
  else s.modCore c fun k => { k with shelves := vmod k.shelves h fun f =>
    { f with line := (f.line + 1) % 65536, scrubWait := f.scrubWait.orElse fun _ => some 0 } }

/-! ## The attic (R327, R328) -/

/-- 64-byte lines of one channel of a stack: 72 GiB over 32 channels. -/
def CHANNEL_LINES := 0x12_0000_0000 / 32 / 64

/-- Package address of line n of a channel of a stack, in ascending offset: the inverse of the folds of R324. -/
def State.channelLine (s : State) (t : StackId) (ch : Fin 32) (n : Nat) : Nat :=
  let q := n / 32
  let h := 32 * q + ch.val ^^^ foldXor 5 5 q
  let g := if s.stacks.length = 8 then 8 * h + t.val ^^^ foldXor 3 9 h else s.stacks.length * h + (s.stacks.idxOf? t).getD 0
  2048 * g + 64 * (n % 32)

def patrolIndex (t : StackId) (ch : Fin 32) : Fin 256 := Fin.ofNat 256 (32 * t.val + ch.val)

/-- The line that the patrol scrubber of a channel has read last; none while it is stopped (R328). -/
def State.patrolled (s : State) (t : StackId) (ch : Fin 32) : Option Nat :=
  if bits (s.pg (.att t) ATT_SCRUB) 0 16 = 0 then none
  else some (s.channelLine t ch ((s.patrol[patrolIndex t ch] + CHANNEL_LINES - 1) % CHANNEL_LINES) / 64)

/-- Words are rewritten with poison set and their data as read (R327). -/
def State.poisonWords (s : State) (ws : List (Nat × W64)) : State :=
  ws.foldl (fun (s : State) e => s.modMem fun m =>
    if m.poisonAt e.1 then m
    else (m.setBytes (8 * e.1) (toLe 8 ((m.word e.1).data ^^^ e.2).toNat)).setPoison e.1 true) s

/-- The data of a transaction's read with some words, of package word indexes `ws`, as memory now has them. -/
def State.freshen (s : State) (x : Txn) (ws : List Nat) (data : List (Byte × Bool)) : List (Byte × Bool) :=
  let now := x.body.reads.flatMap fun e => (s.txnRead x e.1 e.2).zipIdx.map fun b => (e.1 + b.2, b.1)
  List.zipWith (fun p o => if ws.contains (p.1 / 8) then p.2 else o) now data

/-- The read of a transaction that found an uncorrectable error in the words `ws` delivers what it found, also where its data have been
granted already; a read of the cellar is none (R327, R343). -/
def State.deliverRead (s : State) (ws : List Nat) (req : Nat) (tag : Option TagId) : State :=
  match tag with
  | none => s
  | some t =>
    if 64 ≤ req then s
    else
      let c : CoreId := Fin.ofNat 64 req
      match (s.core c).txns.find? fun x => x.tag == t.val with
      | some x =>
        match x.got with
        | none => if (s.readPort x.body).isNone then s.receive c x (s.txnData x) else s
        | some d => if x.wrote then s else s.modTxn c x.tag fun t => { t with got := some (s.freshen x ws d) }
      | none => s

/-- A read of the attic that stays uncorrectable: the words of `flips`, from an address on within one line, are rewritten with
poison and their data as read, counted and recorded; words that are all poisoned already raise no new error. A find of the scrubber lies
in the line it has read last (R327, R328, R343). -/
def State.atticUncorrected (s : State) (t : StackId) (a req : Nat) (tag : Option TagId) (scrub : Bool) (flips : List W64) : State :=
  let ws := flips.zipIdx.map fun (f, i) => (a / 8 + i, f)
  let ch := s.atticChannel a
  if a % 8 ≠ 0 ∨ 8 < a / 8 % 8 + flips.length ∨ s.place a ≠ .attic ∨ s.atticStack a ≠ t ∨ ws.all (fun e => s.mem.poisonAt e.1) ∨
      (scrub ∧ s.patrolled t ch ≠ some (a / 64)) then s
  else
    (((s.poisonWords ws).bump (.att t) 3 1).record (.att t)
      (mkRec 0x0302 a (a >>> 32 % 0x1_0000 + req <<< 16 + bn scrub <<< 23) (ch.val + atticPseudo a <<< 5) 0)).deliverRead (ws.map (·.1)) req
      (if scrub then none else tag)

/-- The patrol scrubber of a channel reads its next line, 64 bytes of the stack; a burst that ECC corrected is counted (R328, R347,
R416). -/
def State.patrolStep (s : State) (t : StackId) (ch : Fin 32) (corrected : Bool) : State :=
  if bits (s.pg (.att t) ATT_SCRUB) 0 16 = 0 then s
  else { (s.bump (.att t) 0 64).bump (.att t) 2 (bn corrected) with patrol := vmod s.patrol (patrolIndex t ch) fun n => (n + 1) % CHANNEL_LINES }

/-! ## Arbiters (R340, R341) -/

def arbIndex : ArbId → Fin 260
  | .attic t ch => Fin.ofNat 260 (32 * t.val + ch.val)
  | .cellar p => Fin.ofNat 260 (256 + p.val)

def arbPage : ArbId → Page
  | .attic t _ => .att t
  | .cellar p => .cel p

/-- A requester of an arbiter: an enabled core, a link port at the attic, the host. -/
def State.arbMay (s : State) (a : ArbId) (r : Fin 81) : Bool :=
  if r.val < 64 then s.enabled (Fin.ofNat 64 r.val)
  else if r.val < 80 then (match a with
    | .attic _ _ => true
    | .cellar _ => false)
  else true

/-- Weight of a requester: its nibble of ARB_WT, 0 acting as 1. -/
def State.arbWeight (s : State) (a : ArbId) (r : Nat) : Nat := max 1 (bits (s.pg (arbPage a) (ARB_WT (r / 8))) (4 * (r % 8)) 4)

/-- Aged transactions first, oldest first, the lower requester between equals (step 1). -/
def State.arbAged (s : State) (a : ArbId) (reqs : List ArbReq) : Option ArbReq :=
  let limit := bits (s.pg (arbPage a) ARB_AGE) 0 16
  (reqs.filter fun q => limit != 0 && decide (limit ≤ q.waited)).foldl (fun (b : Option ArbReq) q => match b with
    | some p => if p.waited < q.waited ∨ (p.waited = q.waited ∧ q.req < p.req) then some q else some p
    | none => some q) none

/-- The next requester after `r` that has a transaction waiting (step 3). -/
def nextReq (r : Nat) (reqs : List ArbReq) : Option Nat :=
  ((List.range 81).map fun i => (r + 1 + i) % 81).find? fun i => reqs.any fun q => q.req.val == i

/-- The oldest transaction of a requester: each requester's queue is served in order of arrival (R340). -/
def oldestOf (r : Nat) (reqs : List ArbReq) : Option ArbReq := reqs.find? fun q => q.req.val == r

/-- Transactions reach an arbiter; those that wait have waited `ns` more. -/
def State.arrivals (s : State) (a : ArbId) (b : Arbiter) (l : List ArbReq) (ns : Nat) : List ArbReq :=
  (b.waiting.map fun q => { q with waited := q.waited + ns }) ++ l.filter fun q => s.arbMay a q.req

/-- The turn after a grant to its requester: it ends after w grants or when the requester has nothing waiting (step 2). A weight that
has been lowered since ends it at the next grant (R343). -/
def Arbiter.granting (b : Arbiter) (r used w : Nat) (left : List ArbReq) : Arbiter :=
  { b with turn := r, used := used, ended := decide (w ≤ used) || !(left.any fun q => q.req.val == r) }

/-- One grant of an arbiter: the transaction granted, and the arbiter after it (R341). An aged grant moves no turn. -/
def State.arbGrant (s : State) (a : ArbId) (b : Arbiter) : Option (ArbReq × Bool × Arbiter) :=
  match s.arbAged a b.waiting with
  | some q =>
    let left := b.waiting.erase q
    some (q, true, { b with waiting := left, granted := some q, count := b.count + 1,
                            ended := b.ended || !(left.any fun p => p.req.val == b.turn) })
  | none =>
    let stays := !b.ended && decide (b.used < s.arbWeight a b.turn) && b.waiting.any fun q => q.req.val == b.turn
    match if stays then some (b.turn, b.used) else (nextReq b.turn b.waiting).map (·, 0) with
    | none => none
    | some (r, u) =>
      (oldestOf r b.waiting).map fun q =>
        let left := b.waiting.erase q
        (q, false, { (b.granting r (u + 1) (s.arbWeight a r) left) with waiting := left, granted := some q, count := b.count + 1 })

/-- The arbiter of a package address (R340). -/
def State.arbAt (s : State) (a : Nat) : Option ArbId :=
  match s.place a with
  | .attic => some (.attic (s.atticStack a) (s.atticChannel a))
  | .cellar p => some (.cellar p)
  | _ => none

/-- A transaction of a core is granted. At an attic channel it reads, or, its data there, it writes (R343); one that is never granted by
itself does both when it completes. At a cellar port the device answers (R332), and the grant fixes the request's place among those of its
lines. `n`: the grants of the arbiter before. -/
def State.grantTxn (s : State) (a : ArbId) (n : Nat) (c : CoreId) (tag : Nat) : State :=
  match (s.core c).txns.find? fun x => x.tag == tag with
  | none => s
  | some x =>
    match a with
    | .cellar p => if x.cel = some p ∧ x.turn = none then s.modTxn c tag fun t => { t with turn := some n } else s
    | .attic .. =>
      if x.got.isNone && (x.body.reads.any fun e => s.arbAt e.1 == some a) then s.receive c x (s.txnData x)
      else if x.cel.isNone && !x.wrote && ((x.body.writes c).bind fun e => s.arbAt e.1) == some a && s.mayWrite1 c x then s.writeNow c x
      else s

/-- What a grant, after `n` others, does: the transaction it names, and the counters (R347). -/
def State.arbActs (s : State) (a : ArbId) (n : Nat) (q : ArbReq) (aged : Bool) (ce : Nat) : State :=
  let s := s.bump (arbPage a) 4 (bn aged)
  let s := match a with
    | .attic t _ => s.bump (.att t) 2 ce
    | .cellar _ => s
  match q.tag with
  | some t => if q.req.val < 64 then s.grantTxn a n (Fin.ofNat 64 q.req.val) t.val else s
  | none => s

/-- One grant of an arbiter, a refresh that is due ahead of it (R328, R341). -/
def State.arbStep (s : State) (a : ArbId) (arrived : List ArbReq) (ns ce : Nat) : State :=
  let i := arbIndex a
  let b := s.arbs[i]
  let b := { b with waiting := s.arrivals a b arrived ns }
  let put (b : Arbiter) : State := { s with arbs := s.arbs.set i b }
  if b.refresh then put { b with refresh := false, granted := none }
  else
    match s.arbGrant a b with
    | none => put { b with granted := none }
    | some (q, aged, b') => (put b').arbActs a b.count q aged ce

/-! ## Cellar ports (R332, R333) -/

/-- Lines of a run of bytes. -/
def linesOf (a n : Nat) : List Nat := if n = 0 then [] else (List.range ((a + n - 1) / 64 - a / 64 + 1)).map (a / 64 + ·)

/-- The cellar access that a transaction waits for: its lines, each once, and whether it writes them. -/
def State.celAccess (s : State) (c : CoreId) (x : Txn) : List Nat × Bool :=
  if x.got.isNone && (s.readPort x.body).isSome then ((x.body.reads.flatMap fun e => linesOf e.1 e.2).eraseDups, false)
  else (((x.body.writes c).map fun e => linesOf e.1 e.2).getD [], true)

/-- A transaction goes on once its cellar read has its answer: to the port it writes to, if there is one and the write is to be made. -/
def State.afterRead (s : State) (c : CoreId) (x : Txn) : State :=
  s.modTxn c x.tag fun t => { t with cel := if x.wrote then none else s.writePort c x.body, turn := none }

/-- Another request at the port, granted before this one, has a line of it to itself: of the two one writes (R343). -/
def State.grantedAhead (s : State) (p : CelId) (c : CoreId) (x : Txn) : Bool :=
  let (ls, wr) := s.celAccess c x
  (List.finRange 64).any fun d => (s.core d).txns.any fun y =>
    (d != c || y.tag != x.tag) && y.cel == some p && (y.turn.any fun n => x.turn.all fun m => decide (n < m)) &&
      (let (ms, w) := s.celAccess d y
       (wr || w) && ms.any ls.contains)

/-- The lines that a device returns poisoned are poisoned there (R332). -/
def State.poisonLines (s : State) (ls : List Nat) : State := s.modMem fun m => ls.foldl (fun m l => m.poisonLine l true) m

/-- The response of a cellar port: a read delivers its data, the lines that arrive poisoned counted; a write is stored (R332, R347). The
device answers the requests of one line, of which one writes, in the order of their grants (R343): an answer out of it does not come. -/
def State.celResponse (s : State) (c : CoreId) (tag : Nat) (bad : List Nat) : State :=
  match (s.core c).txns.find? fun t => t.tag == tag with
  | none => s
  | some x =>
    if x.cel.any fun p => s.grantedAhead p c x then s
    else
    match x.cel, s.celAccess c x with
    | some p, (ls, false) =>
      let s := s.poisonLines (ls.filter bad.contains)
      let s := (s.receive c x (s.txnData x)).bump (.cel p) 2 (ls.filter fun l => s.mem.poisonAt (8 * l)).length
      (s.afterRead c x).sendLeg c tag .data (celBay p)
    | some p, (_, true) =>
      if s.mayWrite1 c x then ((s.writeNow c x).modTxn c tag fun t => { t with cel := none }).sendLeg c tag .done (celBay p) else s
    | none, _ => s

/-- A write of which some lines have timed out: whether the device stored those is open (R333, log entry 30); the others it stored. -/
def State.lateWrite (s : State) (late : List Nat) (key a : Nat) (l : List (Byte × Bool)) : State :=
  (splitAtBounds 64 l.length a l).foldl (fun (s : State) e =>
    let write (t : State) : State := t.modMem fun m => m.writeLine key e.1 e.2
    if late.contains (e.1 / 64) then
      let s' : State := { s with free := s.free + 1 }
      if Config.lateWrite s.free then write s' else s'
    else write s) s

/-- CELLAR_TIMEOUT of the request of one line, `req` the requester and `q` its DMA queue (R333). -/
def State.recordTmo (s : State) (p : CelId) (req q : Nat) (wr down : Bool) (line : Nat) : State :=
  let a := 64 * line
  (s.bump (.cel p) 3 1).record (.cel p)
    (mkRec 0x0304 a (a >>> 32 % 0x1_0000 + req <<< 16 + q <<< 23 + bn wr <<< 26 + bn down <<< 27) 0 0)

/-- Requests of a transaction time out, `ls` their lines: a read delivers every word poisoned, a write halts its queue and withholds the
signal of its command; each is counted and recorded (R333). A write that still has an earlier one of its queue to wait for, or a signal,
has not left the queue: none of its lines is stored (R25, R339). -/
def State.timeoutTxn (s : State) (p : CelId) (c : CoreId) (x : Txn) (down : Bool) (ls : List Nat) : State :=
  let wr := (s.celAccess c x).2
  let s1 :=
    if wr then
      let a := ((x.body.writes c).map (·.1)).getD 0
      let d := match x.body with
        | .put _ d => d
        | _ => s.txnData x
      let t := if s.mayWrite1 c x then (s.countReads c x).lateWrite ls x.key a d else s.countReads c x
      (t.dropTxn c x.tag).modCore c fun k => k.modQueue x.q fun d =>
        { d with halted := true, run := d.run.map fun r => if r.job.uid = x.uid then { r with withheld := true } else r }
    else ((s.receive c x (x.body.reads.flatMap fun e => lostBytes e.1 e.2)).afterRead c x)
  ls.foldl (fun s l => s.recordTmo p c.val x.q.val wr down l) s1

/-- The core's sequencer waits for a command that lies in a line of the cellar (R179, R180). -/
def State.awaitsLine (s : State) (c : CoreId) (p : CelId) (l : Nat) : Bool :=
  s.celPort (64 * l) == some p && (List.finRange 4).any fun x =>
    let a := s.streamAt c x (s.pg (.ctx c x) CTX_PC).toNat
    s.mayIssue c x && (s.ctx c x).head.isNone && decide (a / 64 ≤ l ∧ l ≤ (a + 31) / 64)

/-- The sequencer's read of a command in the cellar has timed out: recorded, and it arrives poisoned in this ac. A core's request that no
DMA queue makes shows queue 0: DESIGN CHOICE, log entry 30. -/
def State.fetchTimeout (s : State) (c : CoreId) (lines : List Nat) : State :=
  (List.finRange 4).foldl (fun s p =>
    if bits (s.pg (.cel p) CEL_TIMEOUT) 0 16 = 0 then s
    else
      let ls := lines.filter (s.awaitsLine c p)
      (ls.foldl (fun s l => s.recordTmo p c.val 0 false false l) s).modCore c fun k => { k with lateRead := ls ++ k.lateRead }) s

/-- Requests of a transaction have waited CEL_TIMEOUT µs; with a tag that no transaction holds, the fetch of a command has. -/
def State.celTimeout (s : State) (c : CoreId) (tag : Nat) (lines : List Nat) : State :=
  match (s.core c).txns.find? fun t => t.tag == tag with
  | none => s.fetchTimeout c lines
  | some x =>
    match x.cel with
    | some p =>
      let ls := (s.celAccess c x).1.filter lines.contains
      if bits (s.pg (.cel p) CEL_TIMEOUT) 0 16 = 0 ∨ ls = [] then s else s.timeoutTxn p c x false ls
    | none => s

/-- The link of a port goes down: every request outstanding on it times out, the window becomes unmapped. A MOVE within the port has
then no port to write to: its write finds nothing mapped. -/
def State.celDown (s : State) (p : CelId) : State :=
  if !bit (s.pg (.cel p) CEL_STAT) 0 then s
  else
    let s := (List.finRange 64).foldl (fun (s : State) c =>
      (((s.core c).txns.filter fun t => t.cel == some p).foldl (fun s x => s.timeoutTxn p c x true (s.celAccess c x).1) s).settle c) s
    let s : State := { s with cores := s.cores.map fun k =>
      { k with txns := k.txns.map fun t => if t.cel = some p then { t with cel := none, turn := none } else t } }
    (s.setField (.cel p) CEL_STAT 0 1 0).event (.cel p) EVT_STATE

/-! ## The commands -/

/-- STOREROOM_ECC_CORRECTED (R280). -/
def execStoreroomEccCorrected (c : CoreId) (word : BitVec 24) (port : BitVec 3) (flips : BitVec 74) (s : State) :
    Host.Outcome State Fault Refusal :=
  .next (if s.coreUp c && eccPort port.toNat && decodeWord (s.flipsFound c word.toNat flips) == .corrected then
      s.eccCorrected c word.toNat port.toNat (s.flipsFound c word.toNat flips)
    else s)

/-- CORRECTION_WRITEBACK (R280). -/
def execCorrectionWriteback (c : CoreId) (h : ShelfId) (s : State) : Host.Outcome State Fault Refusal :=
  .next (if s.coreUp c then s.writeBack c h else s)

/-- STO_ECC_UNCORR (R281). -/
def execStoEccUncorr (c : CoreId) (word : BitVec 24) (port : BitVec 3) (lane : BitVec 4) (rmw : Bool) (flips : BitVec 74) (s : State) :
    Host.Outcome State Fault Refusal :=
  .next (if s.coreUp c && eccPort port.toNat && decodeWord (s.flipsFound c word.toNat flips) == .uncorrectable then
      s.eccUncorrected c word.toNat port.toNat lane.toNat rmw (s.flipsFound c word.toNat flips)
    else s)

/-- STOREROOM_SCRUB (R282). -/
def execStoreroomScrub (c : CoreId) (h : ShelfId) (s : State) : Host.Outcome State Fault Refusal :=
  .next (if s.coreUp c then s.scrub c h else s)

/-- SHELF_GRANT: one bc of a shelf (R277). -/
def execShelfGrant (c : CoreId) (h : ShelfId) (accs : List ShelfAcc) (s : State) : Host.Outcome State Fault Refusal :=
  .next (if s.coreUp c then s.shelfStep c h accs else s)

/-- A stack is enabled and the package runs. -/
def State.stackUp (s : State) (t : StackId) : Bool := s.pkgUp && s.mgmt.fuses.attic.getLsbD t.val

/-- ATTIC_ECC_UNCORR (R327). -/
def execAtticEccUncorr (t : StackId) (addr : BitVec 48) (req : BitVec 7) (tag : Option TagId) (scrub : Bool) (flips : List W64)
    (s : State) : Host.Outcome State Fault Refusal :=
  .next (if s.stackUp t then s.atticUncorrected t addr.toNat req.toNat tag scrub flips else s)

/-- ATTIC_REFRESH: a refresh falls due, and is serviced ahead of the next grant (R328). -/
def execAtticRefresh (t : StackId) (ch : Fin 32) (s : State) : Host.Outcome State Fault Refusal :=
  .next (if s.stackUp t then { s with arbs := vmod s.arbs (arbIndex (.attic t ch)) fun b => { b with refresh := true } } else s)

/-- ATTIC_PATROL_SCRUB (R328). -/
def execAtticPatrolScrub (t : StackId) (ch : Fin 32) (corrected : Bool) (s : State) : Host.Outcome State Fault Refusal :=
  .next (if s.stackUp t then s.patrolStep t ch corrected else s)

/-- ARBITER_GRANT (R341). -/
def execArbiterGrant (a : ArbId) (arrived : List ArbReq) (ns ce : Nat) (s : State) : Host.Outcome State Fault Refusal :=
  .next (if (match a with
    | .attic t _ => s.stackUp t
    | .cellar p => s.pkgUp && bit (s.pg (.cel p) CEL_STAT) 0) then s.arbStep a arrived ns ce else s)

/-- CELLAR_RESPONSE (R332). -/
def execCellarResponse (c : CoreId) (tag : TagId) (poisonLines : List Nat) (s : State) : Host.Outcome State Fault Refusal :=
  .next (if s.coreUp c then s.celResponse c tag.val poisonLines else s)

/-- CELLAR_TIMEOUT (R333). -/
def execCellarTimeout (c : CoreId) (tag : TagId) (lines : List Nat) (s : State) : Host.Outcome State Fault Refusal :=
  .next (if s.coreUp c then (s.celTimeout c tag.val lines).settle c else s)

/-- CELLAR_LINK_DOWN (R333). -/
def execCellarLinkDown (p : CelId) (s : State) : Host.Outcome State Fault Refusal := .next (if s.pkgUp then s.celDown p else s)

end Sys2Proof.Machine
end

