-- ==== Sys2Proof/Machine/Contexts.lean ====
section
/-! DEFINITION. Contexts from outside: doorbells, start, freeze, save and restore, context reset, core reset (08 R177 to R185, 12
R306, 16 R404, R407, 17 R423 to R428). -/

namespace Sys2Proof.Machine
open Sys2Proof

/-! ## What the context page shows (R178) -/

/-- States as numbers (R177). -/
def CtxState.code : CtxState → Nat
  | .halted => 0
  | .ready => 1
  | .wait => 2
  | .hold => 3
  | .faulted => 4
  | .frozen => 5

/-- The wait of a context: its table entry, or a restored one that has not arrived again. -/
def State.savedWait (s : State) (c : CoreId) (x : CtxId) : Option Wait := ((s.core c).waitOf x).orElse fun _ => (s.ctx c x).again

/-- CTX_STATE. -/
def State.ctxState (s : State) (c : CoreId) (x : CtxId) : W32 :=
  let t := s.ctx c x
  let vid := if t.run = .wait then (match s.savedWait c x with
    | some w => w.vid.toNat
    | none => 0) else 0
  w32 (t.run.code + bn t.pend <<< 3 + vid <<< 8)

/-! ## Doorbells (R182, R407, R423) -/

/-- A doorbell reaches a context. -/
def State.ring (s : State) (c : CoreId) (x : CtxId) : State :=
  if (s.core c).fault then s
  else if (s.ctx c x).pend then s.record (.ctx c x) (mkRec 0x0701 0 0 0 0)
  else ((s.modCtx c x fun t => { t with pend := true, late := !(t.run == .halted || t.run == .faulted) }).bump (.ctx c x) 3 1).bump .pkg 2 1

/-! ## A restored wait arrives again (R184, R306) -/

/-- The command of a restored wait is live again. -/
def State.relive (s : State) (c : CoreId) (x : CtxId) (j : Job) : State × Job :=
  let n := (s.core c).nextUid
  (s.modCore c fun k => { k with nextUid := n + 1, live := k.live ++ [(n, x, U_SEQ)] }, { j with uid := n })

/-- A restored wait joins as the youngest. -/
def State.arriveAgain (s : State) (c : CoreId) (x : CtxId) : State :=
  match (s.ctx c x).again with
  | none => s
  | some w =>
    let s := s.modCtx c x fun t => { t with again := none, run := .wait, hold := .free }
    let t := match w.kind with
      | .preWait =>
        let (s, ok) := s.waitWord c w
        if ok then s.modCtx c x fun t => { t with run := .ready, pre := true } else s
      | .wait =>
        let (s, j) := s.relive c x w.job
        let (s, ok) := s.waitWord c { w with job := j }
        if ok then (s.unholdCtx c x).complete c j else s
      | .barrier =>
        let (s, j) := s.relive c x w.job
        if s.inMask c w.line then (s.enqueueWait c { w with job := j }).arrive w.line c true
        else ((s.bump .pkg 1 1).unholdCtx c x).complete c j
      | .rerun =>
        let (s, j) := s.relive c x w.job
        if s.inMask c w.line then (s.enqueueWait c { w with job := j }).arrive w.line c true
        else (s.bump .pkg 1 1).rerunOutcome c j (s.pg (.fu c) (FU_QSAT_SNAP (satTag j.cmd))).toNat false fun s => s.unholdCtx c x
    t.settle c

/-- A context with a pending doorbell starts: from HALTED, and from FAULTED where the doorbell was rung there (R182). A restored
context in WAIT starts by arriving at its word or line again (R184). -/
def State.startCtx (s : State) (c : CoreId) (x : CtxId) : State :=
  let t := s.ctx c x
  if !t.pend || t.saveOp != .none || t.resetting then s
  else if t.run = .halted ∨ (t.run = .faulted ∧ t.late = false) then
    s.modCtx c x fun t =>
      { t with run := .ready, pend := false, late := false, hold := .free, head := none, pre := false, desc := none, bad := none }
  else if t.run = .wait ∧ t.again.isSome then (s.modCtx c x fun t => { t with pend := false, late := false }).arriveAgain c x
  else s

/-! ## Freeze (R183, R423) -/

def State.setFreeze (s : State) (c : CoreId) (x : CtxId) (on : Bool) : State :=
  if on then s.modCtx c x fun t => if t.run = .frozen then { t with frz := true } else { t with frz := true, under := t.run, run := .frozen }
  else if (s.core c).fault then s.modCtx c x fun t => { t with frz := false }
  else
    let s := s.modCtx c x fun t => if t.run = .frozen then { t with frz := false, run := t.under } else { t with frz := false }
    if (s.ctx c x).run = .wait then s.arriveAgain c x else s

/-! ## Removal of a context's wait (R306) -/

/-- The context's wait-table entry is removed and the release loop runs; a WAIT, BARRIER or RERUN that waited ends without a
signal. -/
def State.removeWait (s : State) (c : CoreId) (x : CtxId) : State :=
  match (s.core c).waitOf x with
  | none => s
  | some w =>
    let s := s.dropWaits c [w]
    let s := if w.kind = .preWait then s else s.retire c w.job.uid
    if w.kind = .barrier ∨ w.kind = .rerun then s.leaveLine c w.line else s.rerunQueue c w.word false

/-! ## Save (R184, R185) -/

def SAVE_BYTES := 1280

/-- Loop level k, 16 bytes. -/
def loopBytes (l : List Loop) (k : Nat) : List Byte :=
  match l.find? fun e => e.lvl == k with
  | some e => toLe 4 (e.start % 0x100_0000) ++ toLe 4 (e.stop % 0x100_0000) ++ toLe 4 e.count ++ toLe 4 1
  | none => toLe 16 0

/-- The wait record, 16 bytes. -/
def waitBytes (w : Option Wait) : List Byte :=
  match w with
  | none => toLe 16 0
  | some w =>
    let isLine := w.kind == .barrier || w.kind == .rerun
    toLe 1 w.kind.code ++ toLe 1 (if isLine then 0 else w.vid.toNat) ++ toLe 1 w.tclass.val ++ toLe 1 (if isLine then w.line.val else 0) ++
      toLe 4 (if isLine then 0 else w.n) ++ toLe 4 (w.remain.getD 0xFFFF_FFFF) ++ toLe 4 (if isLine then 0 else w.word)

def cmdBytes (w : Cmd) : List Byte := w.toList.flatMap fun v => toLe 4 v.toNat

/-- The head command of a stream as fetched: the command that waits, a RERUN or PHASE that holds at its offset, or the next one
(R185). One that was read poisoned shows as none, so that it is read again. -/
def State.headCmd (s : State) (c : CoreId) (x : CtxId) : Cmd :=
  match s.savedWait c x, (s.ctx c x).hold with
  | some w, _ => w.job.cmd
  | none, .rerun j => j.cmd
  | none, .phase j _ _ => j.cmd
  | none, _ => if (s.ctx c x).bad.isSome then Cmd.zero else (s.ctx c x).head.getD Cmd.zero

/-- The save area of a context. -/
def State.saveArea (s : State) (c : CoreId) (x : CtxId) : List Byte :=
  let p : Page := .ctx c x
  let r (o : Nat) : List Byte := toLe 4 (s.pg p o).toNat
  let t := s.ctx c x
  let w := s.savedWait c x
  r CTX_PC ++ toLe 4 (s.ctxState c x).toNat ++ r CTX_CFG ++ r CTX_HALT ++ (List.range 8).flatMap (fun i => r (CTX_SHAPE i)) ++
    (List.range 8).flatMap (loopBytes t.loops) ++ waitBytes w ++ cmdBytes (s.headCmd c x) ++ toLe 32 0 ++ (List.range 256).flatMap (fun i => r (CTX_MAP i))

/-- Offset of the save area; the bytes of it that lie in the storeroom. -/
def State.saveOff (s : State) (c : CoreId) (x : CtxId) : Nat := 64 * bits (s.pg (.ctx c x) CTX_SAVE_ADDR) 0 21
def State.saveLen (s : State) (c : CoreId) (x : CtxId) : Nat := min SAVE_BYTES (0x800_0000 - s.saveOff c x)

def State.saveDone (s : State) (c : CoreId) (x : CtxId) : State :=
  (s.stoPut c (s.saveOff c x) ((s.saveArea c x).take (s.saveLen c x))).modCtx c x fun t => { t with saveOp := .none }

/-! ## Restore (R184, R185, R306, R421) -/

/-- A 32-bit value of a save area. -/
def area32 (bs : List Byte) (o : Nat) : W32 := w32 (leNat ((bs.drop o).take 4))

/-- A loop level goes before the levels that start earlier: the inner loop was entered later (log entry 17). -/
def insLoop (l : Loop) : List Loop → List Loop
  | [] => [l]
  | a :: r => if a.start ≤ l.start then l :: a :: r else a :: insLoop l r

def areaLoops (bs : List Byte) : List Loop :=
  (List.range 8).foldl (fun ls k =>
    let o := 0x30 + 16 * k
    if bit (area32 bs (o + 12)) 0 then
      insLoop { lvl := k, start := bits (area32 bs o) 0 24, stop := bits (area32 bs (o + 4)) 0 24, count := (area32 bs (o + 8)).toNat } ls
    else ls) []

def areaKind (bs : List Byte) : Option WaitKind :=
  match leNat ((bs.drop 0xB0).take 1) with
  | 1 => some .preWait
  | 2 => some .wait
  | 3 => some .barrier
  | 4 => some .rerun
  | _ => none

def areaCmd (bs : List Byte) : Cmd := Vector.ofFn fun i => area32 bs (0xC0 + 4 * i.val)

/-- The wait of a save area, with the command that waits. The area does not hold the realign list of a BARRIER (R185), which R316 has the
sequencer read once at issue: it is read again as it stands, with no check of IDs or range. DESIGN CHOICE, log entry 31. -/
def State.areaWait (s : State) (c : CoreId) (x : CtxId) (bs : List Byte) : Option Wait :=
  (areaKind bs).map fun k =>
    let isLine := k == .barrier || k == .rerun
    let w0 := area32 bs 0xB0
    let cmd := areaCmd bs
    let pc := (area32 bs 0).toNat
    let j := s.mkJob c x cmd Desc.zero (if k = .wait ∨ k = .barrier then pc - 1 else pc)
    let remain := (area32 bs 0xB8).toNat
    { ctx := x, kind := k, vid := if isLine then 0 else BitVec.ofNat 8 (bits w0 8 8), word := if isLine then 0 else bits (area32 bs 0xBC) 0 24,
      line := if isLine then Fin.ofNat 16 (bits w0 24 4) else 0, n := if isLine then 0 else (area32 bs 0xB4).toNat,
      tclass := Fin.ofNat 8 (bits w0 16 3), remain := if remain = 0xFFFF_FFFF then none else some remain, job := j,
      plan := if k = .barrier ∧ cb cmd 1 4 then
          (s.realignList c (cf cmd 2 0 21)).map fun (v, p) => (v, mapWord (s.mapEntry c x v.toNat), p)
        else [] }

/-- The state recorded in a save area. FROZEN returns to WAIT with a wait record, to READY without one (log entry 31). -/
def areaState (v : Nat) (waits : Bool) : CtxState :=
  match v with
  | 0 => .halted
  | 1 => .ready
  | 2 | 5 => if waits then .wait else .ready
  | 3 => .hold
  | 4 => .faulted
  | _ => .halted

/-- Registers of a save area; only function 0 makes a context privileged (R403). -/
def State.areaRegs (s : State) (c : CoreId) (x : CtxId) (bs : List Byte) (pf : Bool) : State :=
  let p : Page := .ctx c x
  let oldPriv := bit (s.pg p CTX_CFG) 2
  let cfg := area32 bs 8
  let s := s.setPg p CTX_PC (area32 bs 0)
  let s := s.setPg p CTX_CFG (w32 (bits cfg 0 2 + bn (bit cfg 2 && (pf || oldPriv)) <<< 2))
  let s := s.setPg p CTX_HALT (w32 (bits (area32 bs 0xC) 0 16))
  let s := forRange 8 (fun i s => s.setPg p (CTX_SHAPE i) (area32 bs (0x10 + 4 * i))) s
  forRange 256 (fun i s => s.setPg p (CTX_MAP i) (area32 bs (0x100 + 4 * i) &&& blockMask p (CTX_MAP i))) s

/-- What held the context of a restore is no more: a FENCE, PHASE, RERUN or HALT that held it ends without a signal; a PHASE that waited
for its decision leaves the island its decided variant. -/
def State.dropHold (s : State) (c : CoreId) (x : CtxId) : State :=
  match (s.ctx c x).hold with
  | .phase j _ none => (s.restoreVar c).retire c j.uid
  | .fence j _ _ | .phase j _ _ | .rerun j | .halt j _ => s.retire c j.uid
  | _ => s

/-- A restore ends: the context takes the state recorded, none of what the old stream had read stays, and a poisoned area faults it
(R184, R185, R195, R421). A restored WAIT joins
no queue before the context leaves FROZEN or starts. The area has no place for a pre-wait that had passed: a command restored at
the head performs its pre-wait again; DESIGN CHOICE, log entry 31. -/
def State.restoreDone (s : State) (c : CoreId) (x : CtxId) (pf : Bool) : State :=
  let s := s.modCtx c x fun t => { t with saveOp := .none }
  match s.firstPoison [⟨.own, stoBase c + s.saveOff c x, s.saveLen c x⟩] with
  | some w => s.foundFault c x (poisonRec 0 x 10 4 w (s.eccFound c x w)) (s.pg (.ctx c x) CTX_PC).toNat (s.ctx c x).head
  | none =>
    let s := (s.removeWait c x).dropHold c x
    let n := s.saveLen c x
    let bs := s.stoBytes c (s.saveOff c x) n ++ (List.range (SAVE_BYTES - n)).map fun i => Config.unmappedByte (stoBase c + 0x800_0000 + i)
    let s := s.areaRegs c x bs pf
    let w := s.areaWait c x bs
    let st := (area32 bs 4).toNat
    let inner := areaState (st % 8) w.isSome
    let frozen := st % 8 == 5 || (s.ctx c x).frz || (s.core c).fault
    let cmd := areaCmd bs
    let pre := w.all fun w => w.kind == .preWait
    let s := s.modCtx c x fun t =>
      { t with run := if frozen then .frozen else inner
               under := inner
               pend := st.testBit 3
               late := false
               head := if pre && cmd != Cmd.zero then some cmd else none
               pre := false
               desc := none
               bad := none
               loops := areaLoops bs
               hold := if inner = .hold then .head else .free
               again := if inner = .wait then w else none }
    s.settle c

/-- CTX_SAVECTL is written: a save or a restore starts in HALTED, FAULTED or FROZEN (R184). -/
def State.startSave (s : State) (c : CoreId) (x : CtxId) (op : SaveOp) : State :=
  let t := s.ctx c x
  if (t.run == .halted || t.run == .faulted || t.run == .frozen) && t.saveOp == .none then s.modCtx c x fun t => { t with saveOp := op } else s

/-! ## Resets (R425, R426) -/

/-- A context reset begins; it ends when the context's commands have completed. -/
def State.resetCtx (s : State) (c : CoreId) (x : CtxId) : State :=
  if (s.core c).fault ∨ (s.core c).resetting then s
  else (((s.modCtx c x fun t => { t with resetting := true, head := none, bad := none, again := none }).removeWait c x)).settle c

/-- A core reset begins: nothing issues, commands not yet started are discarded without signals; it ends when the DMA transactions in
flight have ended, and commands that the units have in execution go on until then. -/
def State.resetCore (s : State) (c : CoreId) : State :=
  if (s.core c).resetting then s
  else
    (s.modCore c fun k =>
      { k with resetting := true
               units := k.units.map fun u => { u with queue := [] }
               dmaq := Vector.replicate 8 { queue := [], run := [], halted := false }
               waits := []
               live := [] }).settle c

/-- The MSI-X state of a function is cleared. -/
def State.clearMsix (s : State) (f : FnId) : State :=
  s.modHost fun h =>
    { h with fns := vmod h.fns f fun t => { t with msixEn := false, msixMask := false }
             msix := h.msix.filter fun e => e.1 / 512 != f.val
             pba := h.pba.filter fun e => e / 128 != f.val }

/-- The contexts of some cores are reset. -/
def State.resetCtxs (s : State) (cs : List CoreId) : State :=
  cs.foldl (fun s c => (List.finRange 4).foldl (fun s x => s.resetCtx c x) s) s

/-- Virtual functions are disabled or enabled: disabled ones lose their configuration (log entry 15). -/
def State.setVfEn (s : State) (on : Bool) : State :=
  if on then s.modHost fun h => { h with vfEn := true }
  else
    let s := s.modHost fun h => { h with vfEn := false, fns := Vector.ofFn fun f => if f.val = 0 then h.fns[f] else Fn.reset }
    (List.finRange 16).foldl (fun s f => if f = 0 then s else s.clearMsix f) s

/-- A Function Level Reset; that of function 0 first disables the virtual functions (R404). -/
def State.flr (s : State) (f : FnId) : State :=
  let cs := if s.recovery then [] else s.enabledCores
  if f = 0 then (((s.setVfEn false).modHost fun h => { h with numVFs := 0 }).resetCtxs cs).clearMsix 0
  else (s.resetCtxs (cs.filter fun c => s.owner c == f.val)).clearMsix f

/-! ## The commands -/

/-- A host request of function f reaches the package. -/
def State.hostAct (s : State) (f : FnId) (t : State) : Host.Outcome State Fault Refusal := .next (if s.hostUp f then t else s)

/-- A read of BAR4 returns zero; in recovery mode it completes with Unsupported Request (R407, R442). -/
def State.bar4Read (s : State) : State := s.reply (if s.recovery then urCpl else dataCpl (toLe 4 0))

/-- DOORBELL: an access to a doorbell page of BAR4 (R182, R407). -/
def execDoorbell (fn : FnId) (off : BitVec 20) (read : Bool) (s : State) : Host.Outcome State Fault Refusal :=
  let p := off.toNat / 0x1000
  let c : CoreId := Fin.ofNat 64 (p / 4)
  s.hostAct fn (if read then s.bar4Read else if s.reaches fn c && s.owner c == fn.val then s.ring c (Fin.ofNat 4 (p % 4)) else s)

/-- CONTEXT_START (R182). -/
def execContextStart (c : CoreId) (x : CtxId) (s : State) : Host.Outcome State Fault Refusal :=
  .next (if s.seqUp c then s.startCtx c x else s)

/-- FREEZE (R183). -/
def execFreeze (fn : FnId) (c : CoreId) (x : CtxId) (on : Bool) (s : State) : Host.Outcome State Fault Refusal :=
  .next (if s.reaches fn c then s.setFreeze c x on else s)

/-- CONTEXT_SAVE (R184). -/
def execContextSave (fn : FnId) (c : CoreId) (x : CtxId) (s : State) : Host.Outcome State Fault Refusal :=
  .next (if s.reaches fn c then s.startSave c x .save else s)

/-- CONTEXT_RESTORE (R184). -/
def execContextRestore (fn : FnId) (c : CoreId) (x : CtxId) (s : State) : Host.Outcome State Fault Refusal :=
  .next (if s.reaches fn c then s.startSave c x (.restore (fn == 0)) else s)

/-- SAVE_RESTORE_COMPLETE (R184). -/
def execSaveRestoreComplete (c : CoreId) (x : CtxId) (s : State) : Host.Outcome State Fault Refusal :=
  .next (if s.coreUp c then (match (s.ctx c x).saveOp with
    | .none => s
    | .save => s.saveDone c x
    | .restore pf => s.restoreDone c x pf) else s)

/-- CONTEXT_RESET (R412, R425). -/
def execContextReset (fn : FnId) (c : CoreId) (x : CtxId) (s : State) : Host.Outcome State Fault Refusal :=
  .next (if s.reaches fn c then s.resetCtx c x else s)

/-- CORE_RESET (R412, R426). -/
def execCoreReset (fn : FnId) (c : CoreId) (s : State) : Host.Outcome State Fault Refusal :=
  .next (if s.reaches fn c then s.resetCore c else s)

/-- FUNCTION_LEVEL_RESET (R404). -/
def execFunctionLevelReset (fn : FnId) (s : State) : Host.Outcome State Fault Refusal :=
  .next (if s.alive && s.devReady && s.host.linkUp && s.fnExists fn.val then s.flr fn else s)

/-- HOT_RESET (R433): configuration spaces are reset, then as a Function Level Reset of function 0. -/
def execHotReset (s : State) : Host.Outcome State Fault Refusal :=
  .next (if s.alive then
      let s := if s.devReady then s.flr 0 else s
      s.modHost fun h =>
        { h with linkUp := false, fns := Vector.replicate 16 Fn.reset, numVFs := 0, vfEn := false, bar2 := 0, vfBar2 := 0 }
    else s)

end Sys2Proof.Machine
end

