-- ==== Sys2Proof/WellFormed.lean ====
section
/-! DEFINITION. The operands a sender can give: ranges and lengths that the types of Syntax.lean leave open.

A command that is not well formed is no event of the package; `exec` leaves its cause unmet (log entry 26). -/

namespace Sys2Proof

/-- Management data fits the 2 KiB window of the mailbox (R450). -/
def MgtReq.wf : MgtReq → Bool
  | .mailbox => true
  | .i3c _ _ _ d => decide (d.length ≤ 2048)

/-- Message bytes of a flit (R352); one with a codeword that FEC could not correct is not good (R353). -/
def Flit.wf (f : Flit) : Bool := decide (f.body.length ≤ 496) && (f.fecUncorr == 0 || !f.good)

/-- Rate codes of R398: 1 to 7; lane counts 4, 8, 16. -/
def linkWf (rate lanes : Nat) : Bool := decide (1 ≤ rate ∧ rate ≤ 7) && (lanes == 4 || lanes == 8 || lanes == 16)

/-- The host at start-up. -/
def StartEnv.wf (e : StartEnv) : Bool := linkWf e.rate e.lanes

/-- The lane groups a port can train with, as masks, in the order of R349. -/
def laneGroups : List Byte := [0xFF, 0x0F, 0xF0, 0x03, 0x0C, 0x30, 0xC0]

/-- Well-formed commands. -/
def Instr.wf : Instr → Bool
  | .registerWrite _ _ size value => decide (1 ≤ size ∧ size ≤ 8) && decide (value.toNat < 1 <<< (8 * size))
  | .highHalfLatchRead _ _ size => decide (1 ≤ size ∧ size ≤ 8)
  | .bar2Read _ off len _ _ => decide (off + len ≤ 1 <<< 36)
  | .bar2Write _ off data _ _ => decide (data.length ≤ 512 ∧ off + data.length ≤ 1 <<< 36)
  | .startUp e => e.wf
  | .pcieLinkUp rate lanes => linkWf rate lanes
  | .atticEccUncorr _ _ _ _ _ flips => decide (1 ≤ flips.length ∧ flips.length ≤ 8)
  | .flitReceive _ f => f.wf
  | .linkTrainingComplete _ lanes _ _ => laneGroups.contains lanes
  | .recover r e => r.wf && e.wf
  | .info r | .stage r | .commit r _ | .svnAdvance r | .attest r | .cert r | .measure r | .unmeasure r
  | .celKey r | .log r | .dbgChallenge r | .dbgUnlock r | .dbgLock r => r.wf
  | .nop .. | .tbuild .. | .tile .. | .stile .. | .drain .. | .move .. | .fill .. | .copy .. | .xpose .. | .fin ..
  | .opt .. | .signal .. | .wait .. | .barrier .. | .fence .. | .rsignal .. | .phase .. | .rerun .. | .loop ..
  | .jump .. | .halt .. | .implicitHalt .. | .commandFetchRangeFault .. | .issueArbitration .. | .faultRecord ..
  | .tbuildSweepStart .. | .tbuildComplete .. | .tileStart .. | .guardedTileEvaluation .. | .tileComplete ..
  | .stileStart .. | .stileComplete .. | .drainStart .. | .drainComplete .. | .finComplete .. | .optComplete ..
  | .dmaTransactionStart .. | .dmaTransactionComplete .. | .dmaCommandComplete .. | .syncSignalArrival ..
  | .syncDecrement .. | .waiterReady .. | .syncTimeout .. | .deadlock .. | .rafterLineAssert .. | .syncDbgAddrWrite ..
  | .syncHostSigWrite .. | .doorbell .. | .contextStart .. | .freeze .. | .contextSave .. | .contextRestore ..
  | .contextReset .. | .coreReset .. | .pgEvtClear .. | .pgErrCodeRead .. | .fuMonStatRead ..
  | .stoCeAddrRead .. | .counterClear .. | .dmaQueueResume .. | .phaseTableLoad .. | .phaseTableLoadDone
  | .functionLevelReset .. | .hotReset | .packageReset | .storeroomInitDone .. | .vddMgtUndervoltage
  | .storeroomEccCorrected .. | .correctionWriteback .. | .stoEccUncorr .. | .storeroomScrub .. | .shelfGrant ..
  | .atticRefresh .. | .atticPatrolScrub .. | .arbiterGrant .. | .cellarResponse .. | .cellarTimeout .. | .cellarLinkDown ..
  | .nakReplay .. | .idleFlit .. | .wr .. | .sig .. | .rd .. | .rdr .. | .ack .. | .creditReturn .. | .lnkPullGo ..
  | .pullComplete .. | .lossOfSignal .. | .heartbeatTimeout .. | .retryLimit .. | .lnkCtrlWrite .. | .phaseDecision ..
  | .poolDecision .. | .variantChange .. | .currentSample .. | .junctionSensorSample .. | .avsbusRead ..
  | .powerCapOnset | .powerCapLift | .thermThrottle .. | .throttleLift | .thermalTrip .. | .droopStretch ..
  | .droopRestore .. | .telemetry | .setEndpointId .. | .getEndpointId | .getMctpVersionSupport ..
  | .getMessageTypeSupport | .logRecord .. | .watchdogRestart .. | .bypass | .idcode | .samplePreload .. | .extest
  | .clamp | .highz | .routerGrant .. | .meshAcknowledgement .. | .configurationRequest .. | .mailboxCommandComplete
  | .saveRestoreComplete .. | .privateTapInstruction .. | .trstNAssertion => true

end Sys2Proof
end

