-- ==== Sys2Proof/Machine/Links.lean ====
section
/-! DEFINITION. Yalek links: training, flits, hatches, messages applied, pulls, the loss of a partner (14). -/

namespace Sys2Proof.Machine
open Sys2Proof

/-! ## Hatches (R364 to R367) -/

/-- A range that lies wholly in the attic or wholly in one enabled core's storeroom. -/
def State.atticOrSto (s : State) (a n : Nat) : Bool :=
  n == 0 ||
  (match s.place a with
   | .attic => decide (a + n ≤ s.atticSize)
   | .sto c => decide (a + n ≤ stoBase c + 0x800_0000)
   | _ => false)

def State.hatchBase (s : State) (i : PortId) (h : Nat) : Nat := p42 (s.pg (.lnk i) (HT_BASE_LO h)) (s.pg (.lnk i) (HT_BASE_HI h))
def State.hatchSize (s : State) (i : PortId) (h : Nat) : Nat := (s.pg (.lnk i) (HT_SIZE h)).toNat

/-- Hatch h is open (R364). -/
def State.hatchOpen (s : State) (i : PortId) (h : Nat) : Bool :=
  decide (h < 64) && bit (s.pg (.lnk i) (HT_CFG h)) 0 && s.hatchSize i h != 0 &&
    s.atticOrSto (s.hatchBase i h) (64 * s.hatchSize i h)

/-- The core that owns a hatch in a storeroom. -/
def State.hatchCore (s : State) (i : PortId) (h : Nat) : Option CoreId :=
  match s.place (s.hatchBase i h) with
  | .sto c => some c
  | _ => none

/-- Why a WR, RD or SIG is dropped (R365, R367); none: it is applied. -/
def State.hatchDrop (s : State) (i : PortId) (m : Msg) : Option Nat :=
  let h := m.hid.toNat
  let sg := m.kind == MSG_SIG
  let f := s.ports[i].filter
  if !s.hatchOpen i h then some 0
  else if bits (s.pg (.lnk i) (HT_CFG h)) 16 16 != bits (s.pg (.lnk i) LNK_PEER_ID) 0 16 then some 1
  else if s.hatchSize i h < m.off.toNat + (if sg then 0 else m.len.toNat) then some 2
  else if sg && (!bit (s.pg (.lnk i) (HT_CFG h)) 1 || (s.hatchCore i h).isNone) then some 3
  else if sg && decide (8 * s.hatchSize i h ≤ m.sw.toNat) then some 2
  else if sg && (f.contains m.rid || decide (256 ≤ f.length)) then some 4
  else none

/-- The miss filter after a message (R367): a dropped WR that is not the last enters its rid; the last of a rid removes it. -/
def filterAfter (f : List W16) (m : Msg) (dropped : Bool) : List W16 :=
  if m.last then f.filter fun r => r != m.rid
  else if dropped && m.kind == MSG_WR && !f.contains m.rid && decide (f.length < 256) then f ++ [m.rid] else f

/-- The record of a drop (R367). -/
def missRec (m : Msg) (why : Nat) : Rec :=
  mkRec 0x0402 (m.hid.toNat + m.kind.toNat <<< 8 + why <<< 16) m.off.toNat (m.rid.toNat + m.gcid.toNat <<< 16) m.len.toNat

/-- The ID that a port puts into its own messages: that of its link logic, with src 0 (R291, R356). -/
def gcidSent (i : PortId) : W16 := BitVec.ofNat 16 ((gcidLink i).toNat % 256)

/-- The answer to a message: ACK, or RDR with data (R356, R366). -/
def answerMsg (i : PortId) (m : Msg) (kind : Byte) (miss : Bool) : Msg :=
  { Msg.zero with kind := kind, vc := VC_RSP, last := m.last, status := if miss then 1 else 0, gcid := gcidSent i, rid := m.rid, tag := m.tag,
                  hid := m.hid, off := m.off }

/-- A received message is dropped: recorded and counted (R367). -/
def State.dropMsg (s : State) (i : PortId) (m : Msg) (why : Nat) : State :=
  let full := m.kind == MSG_SIG && decide (256 ≤ s.ports[i].filter.length)
  (((s.bump (.lnk i) 6 1).bump (.lnk i) 7 (bn full)).record (.lnk i) (missRec m why))

/-- The credits of a message that has been passed on are owed to the sender (R359). -/
def State.oweCredits (s : State) (i : PortId) (m : Msg) : State :=
  if m.vc = VC_RSP then s else s.modPort i fun p => { p with owed := p.owed.set m.vc.toFin (p.owed[m.vc.toFin] + m.credits) }

/-- The core whose storeroom an address lies in is reached from the mesh (R309). -/
def State.touchAt (s : State) (a : Nat) : State :=
  match s.place a with
  | .sto c => s.touch c
  | _ => s

/-- Bytes with the poison of their words. -/
def withPoison (bs : List Byte) (p : List Bool) : List (Byte × Bool) := bs.zipIdx.map fun (b, i) => (b, p.getD (i / 8) false)

/-- A link writes to the attic or a storeroom. -/
def State.linkWrite (s : State) (i : PortId) (a : Nat) (l : List (Byte × Bool)) : State :=
  (((splitAtBounds 2048 l.length a l).foldl (fun s p => (s.carryTo (linkBay i) p.1 false).pkgWrite 0 p.1 p.2) s).touchAt a).bump
    (.lnk i) 1 l.length

/-- A WR is applied or dropped, and answered. -/
def State.applyWr (s : State) (i : PortId) (m : Msg) : State :=
  match s.hatchDrop i m with
  | some why => ((s.dropMsg i m why).modPort i fun p => { p with filter := filterAfter p.filter m true }).sendLink i (answerMsg i m MSG_ACK true)
  | none =>
    ((s.linkWrite i (s.hatchBase i m.hid.toNat + 64 * m.off.toNat)
      (withPoison (m.payload.take (64 * m.len.toNat)) m.poison)).modPort i fun p =>
        { p with filter := filterAfter p.filter m false }).sendLink i (answerMsg i m MSG_ACK false)

/-- Global context ID of a remote signaller: src becomes the port's (R291, R366). -/
def remoteGcid (i : PortId) (g : W16) : W16 := BitVec.ofNat 16 (g.toNat % 256 + (i.val + 1) <<< 8)

/-- A SIG is applied or dropped, and answered. -/
def State.applySig (s : State) (i : PortId) (m : Msg) : State :=
  let s' := s.modPort i fun p => { p with filter := filterAfter p.filter m false }
  match s.hatchDrop i m, s.hatchCore i m.hid.toNat with
  | none, some c =>
    let word := (s.hatchBase i m.hid.toNat - stoBase c) / 8 + m.sw.toNat
    ((((s'.carry (linkBay i) (bayOf c) false).touch c).applySignal c word m.n.toNat (remoteGcid i m.gcid)).sendLink i
      (answerMsg i m MSG_ACK false)).settle c
  | why, _ => (((s.dropMsg i m (why.getD 3)).modPort i fun p => { p with filter := filterAfter p.filter m false }).sendLink i
      (answerMsg i m MSG_ACK true))

/-- An RD is answered with an RDR. -/
def State.applyRd (s : State) (i : PortId) (m : Msg) : State :=
  match s.hatchDrop i m with
  | some why => (s.dropMsg i m why).sendLink i (answerMsg i m MSG_RDR true)
  | none =>
    let a := s.hatchBase i m.hid.toNat + 64 * m.off.toNat
    let n := 64 * m.len.toNat
    let d := s.mem.read 0 a n
    let ps := (List.range (n / 8)).map fun j => s.mem.poisonAt (a / 8 + j)
    ((s.countRun a n 0).carrySpan (linkBay i) a n true).sendLink i { answerMsg i m MSG_RDR false with
      len := m.len, payload := d.map (·.1), pm := ps.any id, poison := if ps.any id then ps else [] }

/-! ## Receiving (R353, R357) -/

/-- A message with a reserved field set or of an unknown type is discarded; a WR, SIG or RD is answered with MISS (R357). -/
def State.discardMsg (s : State) (i : PortId) (m : Msg) : State :=
  let s := (s.bump (.lnk i) 8 1).oweCredits i m
  if m.kind = MSG_WR ∨ m.kind = MSG_SIG then
    (s.modPort i fun p => { p with filter := filterAfter p.filter m true }).sendLink i (answerMsg i m MSG_ACK true)
  else if m.kind = MSG_RD then s.sendLink i (answerMsg i m MSG_RDR true)
  else s

/-- Messages are taken from the received bytes into the buffers of their channels; the fuel bounds their number. -/
def State.parseRx : Nat → State → PortId → State
  | 0, s, _ => s
  | f + 1, s, i =>
    match parseMsg s.ports[i].rxBytes with
    | none => s
    | some (m, rest) =>
      let s := s.modPort i fun p => { p with rxBytes := rest }
      let s := if m.bad then s.discardMsg i m else s.modPort i fun p => { p with rxq := vmod p.rxq m.vc.toFin fun l => l ++ [m] }
      State.parseRx f s i

/-- Flits up to and including the one acknowledged leave the replay buffer. -/
def dropAcked (a : BitVec 12) (l : List Flit) : List Flit :=
  if l.any fun f => f.seq == a then (l.dropWhile fun f => f.seq != a).drop 1 else l

/-- A flit in sequence: its acknowledgement, nak, credits and message bytes (R352 to R354). -/
def Port.accept (p : Port) (f : Flit) : Port :=
  let p := { p with rxSeq := p.rxSeq + 1, sendNak := false, replay := dropAcked f.ack p.replay, rxBytes := p.rxBytes ++ f.body }
  let p := if f.nak then
      { p with nak := some f.ack, nakRun := if p.nakRun != 0 && p.nakSeq == f.ack + 1 then p.nakRun + 1 else 1, nakSeq := f.ack + 1 }
    else { p with nakRun := 0 }
  let p := if f.ccnt != 0 && f.cvc != VC_RSP then { p with creditIn := p.creditIn ++ [(f.cvc, f.ccnt)] } else p
  Port.pump 512 p

/-- A flit arrives at an UP port. -/
def State.receiveFlit (s : State) (i : PortId) (f : Flit) : State :=
  let s := (s.bump (.lnk i) 3 f.fecCorr).bump (.lnk i) 4 f.fecUncorr
  let p := s.ports[i]
  if !f.good then s.modPort i fun p => { p with sendNak := true }
  else if f.seq != p.rxSeq then s
  else State.parseRx (f.body.length + 32) (s.modPort i fun p => p.accept f) i

/-- The oldest message of a channel, when it is of the kind named: passed on, its credits owed. -/
def State.takeMsg (s : State) (i : PortId) (vc : BitVec 2) (kind : Byte) : Option (Msg × State) :=
  match s.ports[i].rxq[vc.toFin] with
  | m :: rest =>
    if m.kind = kind then some (m, (s.modPort i fun p => { p with rxq := p.rxq.set vc.toFin rest }).oweCredits i m) else none
  | [] => none

/-! ## Pulls (R369) -/

/-- Units of 64 bytes of the next RD: up to 2 KiB, within 2 KiB boundaries of hatch offset and destination. -/
def pullLen (p : Pull) : Nat :=
  let a := 64 * (p.off.toNat + p.asked)
  let b := p.dst + 64 * p.asked
  min (min (to2k a / 64) (to2k b / 64)) (p.total - p.asked)

/-- RDs go out while tags, read buffer and credits last (R360); the fuel is the number of tags. -/
def State.pullPump : Nat → State → PortId → State
  | 0, s, _ => s
  | f + 1, s, i =>
    match s.ports[i].pull with
    | none => s
    | some p =>
      let n := pullLen p
      let used := (p.out.map fun e => e.2.2 + 1).sum
      let tag : W16 := 0x8000 ||| p.nextTag % 1024
      let m : Msg :=
        { Msg.zero with kind := MSG_RD, vc := VC_REQ, last := p.asked + n == p.total, gcid := gcidSent i, rid := p.rid, tag := tag,
                        hid := p.hid, off := p.off + w32 p.asked, len := BitVec.ofNat 6 n }
      if p.total ≤ p.asked ∨ 1024 ≤ p.out.length ∨ 2560 < used + n + 1 ∨ !s.ports[i].canSend m ∨ p.out.any (fun e => e.1 == tag) then s
      else
        let p' := { p with asked := p.asked + n, out := p.out ++ [(tag, p.dst + 64 * p.asked, n)], nextTag := p.nextTag + 1 }
        State.pullPump f ((s.modPort i fun u => { u with pull := some p' }).sendLink i m) i

/-- A pull ends: status, and the done event (R369, R410). -/
def State.pullEnds (s : State) (i : PortId) (status : Nat) : State :=
  ((s.setPg (.lnk i) LNK_PULL_STAT (w32 (status <<< 1))).modPort i fun p => { p with pull := none }).event (.lnk i) EVT_DONE

/-- A word named by LNK_PLk_W or LNK_PULL_SIG. -/
def sigWordCore (v : W32) : CoreId := Fin.ofNat 64 (bits v 24 6)

/-- A signal of the link logic to a word of an enabled core. -/
def State.linkSignal (s : State) (i : PortId) (v : W32) (n : W32) : State :=
  let c := sigWordCore v
  if s.enabled c ∧ n ≠ 0 then (((s.carry (linkBay i) (bayOf c) false).touch c).applySignal c (bits v 0 24) n.toNat (gcidLink i)).settle c else s

/-- LNK_PULL_GO.go is written. R369 and R377 do not say when the W1S bit clears: the model never stores it, so that it always reads 0;
DESIGN CHOICE, log entry 29. -/
def State.pullGo (s : State) (i : PortId) : State :=
  let p : Page := .lnk i
  let len := (s.pg p LNK_PULL_LEN).toNat
  let dst := p42 (s.pg p LNK_PULL_DST_LO) (s.pg p LNK_PULL_DST_HI)
  let sg := s.pg p LNK_PULL_SIG
  if bit (s.pg p LNK_PULL_STAT) 0 then s
  else if !s.atticOrSto dst (64 * len) || (bit sg 31 && !s.enabled (sigWordCore sg)) then s.pullEnds i 3
  else if !s.linkUp i then s.pullEnds i 2
  else
    let pl : Pull :=
      { asked := 0, total := len, hid := (s.pg p LNK_PULL_HID).setWidth 8, off := s.pg p LNK_PULL_OFF, dst := dst, sig := sg,
        rid := s.ports[i].nextRid, out := [], nextTag := 0, miss := false }
    State.pullPump 1024 ((s.setPg p LNK_PULL_STAT 1).modPort i fun u => { u with pull := some pl, nextRid := u.nextRid + 1 }) i

/-- The data of an RD arrive. -/
def State.applyRdr (s : State) (i : PortId) (m : Msg) : State :=
  match s.ports[i].pull with
  | none => s
  | some p =>
    match p.out.find? fun e => e.1 == m.tag with
    | none => s
    | some (_, a, n) =>
      let miss := m.status != 0
      let s := s.modPort i fun u => { u with pull := some { p with out := p.out.filter fun e => e.1 != m.tag, miss := p.miss || miss } }
      let s := if miss then s else s.linkWrite i a (withPoison (m.payload.take (64 * n)) m.poison)
      State.pullPump 1024 s i

/-- Every RDR of a pull has been written. -/
def State.pullFinish (s : State) (i : PortId) : State :=
  match s.ports[i].pull with
  | some p =>
    if p.total ≤ p.asked ∧ p.out = [] then
      let s := s.pullEnds i (if p.miss then 1 else 0)
      if bit p.sig 31 then s.linkSignal i p.sig 1 else s
    else s
  | none => s

/-! ## ACKs (R359, R366, R368) -/

/-- A WR or SIG on a port. -/
def Txn.onPort (i : PortId) (t : Txn) : Bool :=
  match t.body with
  | .wr p _ | .sg p => p == i
  | _ => false

/-- An ACK reaches the tag table of the core that sent the WR or SIG. -/
def State.applyAck (s : State) (i : PortId) (m : Msg) : State :=
  let c : CoreId := Fin.ofNat 64 (m.tag.toNat / 512)
  let tag := m.tag.toNat % 512
  match (s.core c).txns.find? fun t => t.tag == tag with
  | none => s
  | some x =>
    let miss : Option (Bool × W32) := match x.body with
      | .wr _ off => if m.status != 0 then some (false, off) else none
      | .sg _ => if m.status != 0 then some (true, 0) else none
      | _ => none
    if !x.onPort i then s
    else
      let s := (s.dropTxn c tag).modCore c fun k => k.modQueue x.q fun d =>
        { d with run := d.run.map fun r => if r.job.uid = x.uid then { r with miss := r.miss.orElse fun _ => miss } else r }
      match (s.core c).dmaq[x.q].run.find? fun r => r.job.uid == x.uid with
      | none => s
      | some r =>
        match r.miss with
        | some (sg, off) =>
          if r.started && !r.withheld && !((s.core c).txns.any fun t => t.uid == x.uid) then
            s.endRsignal c x.q r (rsEndRec 0x0402 r.job.cmd sg off.toNat r.rid)
          else s
        | none => s

/-! ## Losing a partner (R371 to R373) -/

/-- Words are written with poison 1 (R268, R326, R372); their data are free values, log entry 13. -/
def State.poisonRange (s : State) (a n : Nat) : State :=
  if n = 0 then s else ((splitAtBounds 2048 n a (lostBytes a n)).foldl (fun s p => s.pkgWrite 0 p.1 p.2) s).touchAt a

/-- Step 3: the pull ends; data that never returned are poison. -/
def State.losePull (s : State) (i : PortId) : State :=
  match s.ports[i].pull with
  | none => s
  | some p =>
    let s := p.out.foldl (fun s e => s.poisonRange e.2.1 (64 * e.2.2)) s
    (s.poisonRange (p.dst + 64 * p.asked) (64 * (p.total - p.asked))).pullEnds i 2

/-- An RSIGNAL with data or a signal for the port. -/
def namesPort (i : PortId) (j : Job) : Bool := opcode j.cmd == OP_RSIGNAL && rsPort j.cmd == i && !dmaNoop j

/-- RSIGNALs that a queue has not started leave it for those under way, so that they end with them. -/
def State.unqueue (s : State) (i : PortId) (c : CoreId) (q : QId) : State :=
  let runs := ((s.core c).dmaq[q].queue.filter (namesPort i)).map (s.freshRun c)
  s.modCore c fun k => k.modQueue q fun d => { d with queue := d.queue.filter fun j => !namesPort i j, run := d.run ++ runs }

/-- RSIGNALs of a queue that name the port and have transactions unsent or unacknowledged. -/
def Core.lostRuns (k : Core) (i : PortId) (q : QId) : List DmaRun :=
  k.dmaq[q].run.filter fun r =>
    opcode r.job.cmd == OP_RSIGNAL && rsPort r.job.cmd == i && !r.withheld && (!r.started || k.txns.any fun t => t.uid == r.job.uid)

/-- Transactions of a core end without an effect. -/
def State.dropTxns (s : State) (c : CoreId) (p : Txn → Bool) : State :=
  ((s.core c).txns.filter p).foldl (fun s t => s.dropTxn c t.tag) s

/-- Step 4 in one queue: its RSIGNALs end; how many they are is added. -/
def State.loseQueue (i : PortId) (c : CoreId) (a : State × Nat) (q : QId) : State × Nat :=
  let s := a.1.unqueue i c q
  ((s.core c).lostRuns i q).foldl (fun a r =>
    ((a.1.dropTxns c fun t => t.uid == r.job.uid).endRsignal c q r (rsEndRec 0x0401 r.job.cmd false 0 r.rid), a.2 + 1)) (s, a.2)

/-- Step 4: they end, and how many they are. -/
def State.loseRuns (s : State) (i : PortId) : State × Nat :=
  (List.finRange 64).foldl (fun a c => (List.finRange 8).foldl (State.loseQueue i c) a) (s, 0)

/-- No WR or SIG sent on the port is outstanding any more. -/
def State.dropRemote (s : State) (i : PortId) : State :=
  (List.finRange 64).foldl (fun (s : State) c => (s.dropTxns c (Txn.onPort i)).settle c) s

/-- Steps 1 and 2: received messages are dropped, sending stops, the hatches close. -/
def State.closePort (s : State) (i : PortId) : State :=
  forRange 64 (fun h s => s.setField (.lnk i) (HT_CFG h) 0 1 0)
    (s.modPort i fun u => { u with rxq := Vector.replicate 4 [], rxBytes := [], creditIn := [], txBytes := [], replay := [], nak := none })

/-- The port goes to LINK_LOST, and the loss is recorded. -/
def State.recordLost (s : State) (i : PortId) (why dropped ended : Nat) : State :=
  ((s.setField (.lnk i) LNK_STAT 10 3 why).setLnkState i LNK_LOST).record (.lnk i)
    (mkRec 0x0401 why (bits (s.pg (.lnk i) LNK_PEER_ID) 0 20) dropped ended)

/-- The signals of LNK_PL. -/
def State.lostSignals (s : State) (i : PortId) : State :=
  forRange 4 (fun k s =>
    let w := s.pg (.lnk i) (LNK_PL_W k)
    if bit w 31 then s.linkSignal i w (s.pg (.lnk i) (LNK_PL_N k)) else s) s

/-- LINK_LOST is declared for reason `why`. -/
def State.linkLost (s : State) (i : PortId) (why : Nat) : State :=
  let dropped := (s.ports[i].rxq.toList.map List.length).sum
  let r := ((s.closePort i).losePull i).loseRuns i
  ((r.1.dropRemote i).recordLost i why dropped r.2).lostSignals i

/-! ## Training (R349, R350, R375) -/

/-- Lanes that LNK_CTRL.maxw allows. -/
def State.maxLanes (s : State) (i : PortId) : Nat :=
  let m := bits (s.pg (.lnk i) LNK_CTRL) 1 2
  if m = 0 then 8 else if m = 1 then 4 else 2

/-- Lanes of a mask. -/
def laneCount (m : Byte) : Nat := ((List.range 8).filter fun i => m.getLsbD i).length

/-- A port after training: new sequence numbers, new rids, full credits (R359, R375). -/
def Port.trained : Port := { Port.reset with credit := #v[256, 0, 2816, 128] }

def State.trained (s : State) (i : PortId) (lanes : Byte) (peer : W16) (pport : BitVec 4) : State :=
  let p : Page := .lnk i
  let s := s.modPort i fun _ => Port.trained
  let s := s.setField p LNK_STAT 2 8 lanes.toNat
  let s := s.setPg p LNK_PEER_ID (w32 (peer.toNat + pport.toNat <<< 16 + 1 <<< 31))
  let s := s.setLnkState i LNK_UP
  if laneCount lanes < s.maxLanes i then s.record p (mkRec 0x0403 lanes.toNat 0 0 0) else s

/-- LNK_CTRL is written (R349, R371, R375). -/
def State.writeLnkCtrl (s : State) (i : PortId) (v : W32) : State :=
  let old := bit (s.pg (.lnk i) LNK_CTRL) 0
  let st := s.lnkState i
  let s := s.setPg (.lnk i) LNK_CTRL (v &&& 7)
  if bit v 0 then (if old then s else s.setLnkState i LNK_TRAINING)
  else if st = LNK_UP then s.linkLost i 4
  else if st = LNK_TRAINING then s.setLnkState i LNK_DISABLED
  else s

/-- The port is UP in a running package. -/
def State.portUp (s : State) (i : PortId) : Bool := s.pkgUp && s.linkUp i

/-! ## The commands -/

/-- LINK_TRAINING_COMPLETE (R349, R350). -/
def execLinkTrainingComplete (i : PortId) (lanes : Byte) (peer : W16) (peerPort : BitVec 4) (s : State) :
    Host.Outcome State Fault Refusal :=
  .next (if s.pkgUp && s.lnkState i == LNK_TRAINING && bit (s.pg (.lnk i) LNK_CTRL) 0 && laneGroups.contains lanes &&
      decide (laneCount lanes ≤ s.maxLanes i) then s.trained i lanes peer peerPort
    else s)

/-- FLIT_RECEIVE (R352, R353). -/
def execFlitReceive (i : PortId) (f : Flit) (s : State) : Host.Outcome State Fault Refusal :=
  .next (if s.portUp i && f.wf then s.receiveFlit i f else s)

/-- NAK_REPLAY (R353). -/
def execNakReplay (i : PortId) (s : State) : Host.Outcome State Fault Refusal :=
  .next (if s.portUp i && s.ports[i].nak.isSome then
      (s.bump (.lnk i) 2 s.ports[i].replay.length).modPort i fun p => { p with nak := none, wire := p.wire ++ p.replay }
    else s)

/-- IDLE_FLIT (R355). -/
def execIdleFlit (i : PortId) (s : State) : Host.Outcome State Fault Refusal :=
  .next (if s.portUp i && s.ports[i].txBytes.isEmpty && decide (s.ports[i].replay.length < 512) then
      s.modPort i fun p => p.sendFlit [] true
    else s)

/-- Channel of a WR or SIG. -/
def chanOf (ctl : Bool) : BitVec 2 := if ctl then VC_CTL else VC_PWS

/-- The oldest message of a channel is passed to the mesh. -/
def State.passMsg (s : State) (i : PortId) (vc : BitVec 2) (kind : Byte) (f : State → Msg → State) : Host.Outcome State Fault Refusal :=
  .next (if s.portUp i then
      (match s.takeMsg i vc kind with
       | some (m, t) => f t m
       | none => s)
    else s)

/-- WR (R365 to R367). -/
def execWr (i : PortId) (ctl : Bool) (s : State) : Host.Outcome State Fault Refusal :=
  s.passMsg i (chanOf ctl) MSG_WR fun s m => s.applyWr i m

/-- SIG (R365 to R367). -/
def execSig (i : PortId) (ctl : Bool) (s : State) : Host.Outcome State Fault Refusal :=
  s.passMsg i (chanOf ctl) MSG_SIG fun s m => s.applySig i m

/-- RD (R365, R366). -/
def execRd (i : PortId) (s : State) : Host.Outcome State Fault Refusal := s.passMsg i VC_REQ MSG_RD fun s m => s.applyRd i m

/-- RDR (R369). -/
def execRdr (i : PortId) (s : State) : Host.Outcome State Fault Refusal := s.passMsg i VC_RSP MSG_RDR fun s m => s.applyRdr i m

/-- ACK (R360, R366, R368). -/
def execAck (i : PortId) (s : State) : Host.Outcome State Fault Refusal := 
  s.passMsg i VC_RSP MSG_ACK fun s m => (s.applyAck i m).settle (Fin.ofNat 64 (m.tag.toNat / 512))

/-- CREDIT_RETURN (R359). -/
def execCreditReturn (i : PortId) (s : State) : Host.Outcome State Fault Refusal :=
  .next (if s.portUp i then
      (match s.ports[i].creditIn with
       | (v, n) :: rest =>
         State.pullPump 1024 (s.modPort i fun p =>
           { p with creditIn := rest, credit := p.credit.set v.toFin (p.credit[v.toFin] + n.toNat) }) i
       | [] => s)
    else s)

/-- LNK_PULL_GO (R369): function 0 alone writes link pages (R403). -/
def execLnkPullGo (fn : FnId) (i : PortId) (s : State) : Host.Outcome State Fault Refusal :=
  .next (if s.pkgUp && s.hostUp fn && fn == 0 then s.pullGo i else s)

/-- PULL_COMPLETE (R369). -/
def execPullComplete (i : PortId) (s : State) : Host.Outcome State Fault Refusal := .next (if s.portUp i then s.pullFinish i else s)

/-- LOSS_OF_SIGNAL (R371, R372). -/
def execLossOfSignal (i : PortId) (s : State) : Host.Outcome State Fault Refusal := .next (if s.portUp i then s.linkLost i 1 else s)

/-- HEARTBEAT_TIMEOUT (R371, R372). -/
def execHeartbeatTimeout (i : PortId) (s : State) : Host.Outcome State Fault Refusal :=
  .next (if s.portUp i then s.linkLost i 2 else s)

/-- RETRY_LIMIT (R354, R372): eight naks in a row for one flit. -/
def execRetryLimit (i : PortId) (s : State) : Host.Outcome State Fault Refusal :=
  .next (if s.portUp i && decide (8 ≤ s.ports[i].nakRun) then s.linkLost i 3 else s)

/-- LNK_CTRL_WRITE (R349, R371, R375). -/
def execLnkCtrlWrite (fn : FnId) (i : PortId) (value : W32) (s : State) : Host.Outcome State Fault Refusal :=
  .next (if s.pkgUp && s.hostUp fn && fn == 0 then s.writeLnkCtrl i value else s)

end Sys2Proof.Machine
end

