-- ==== Sys2Proof/Machine/Crypto.lean ====
section
/-! DEFINITION. SHAKE256 and Ed448 (18 R438, R445, R446, R456), as FIPS 202 and RFC 8032 define them: PRESUMED, log entry 8.

The identity key, the image signatures and the unlock tokens are computed, not left open. -/

namespace Sys2Proof.Machine
open Sys2Proof

/-! ## SHAKE256, of the signature's hash (FIPS 202)

The sponge is held as its 25 lanes, plane after plane; offsets and constants are walked out, not listed. -/

/-- A number evaluated before it is used: `f n`. -/
def strict (n : Nat) (f : Nat → α) : α :=
  match n with
  | 0 => f 0
  | k + 1 => f (k + 1)

/-- Lanes evaluated before they are used: `f l`. -/
def settled : List W64 → (List W64 → α) → α
  | [], f => f []
  | w :: r, f => strict w.toNat fun n => settled r fun l => f (BitVec.ofNat 64 n :: l)

/-- Lane by lane. -/
def xorLanes (a b : List W64) : List W64 := List.zipWith (fun p q => p ^^^ q) a b

/-- The five planes of a sponge. -/
def planes (sponge : List W64) : List (List W64) :=
  (List.range 5).map fun y => (sponge.drop (5 * y)).take 5

/-- A plane turned: lane k comes first. -/
def turned (k : Nat) (plane : List W64) : List W64 := plane.drop k ++ plane.take k

/-- Each lane takes up the parities of the columns beside its own. -/
def mixColumns1600 (sponge : List W64) : List W64 :=
  settled ((planes sponge).foldl xorLanes (List.replicate 5 0)) fun parity =>
  settled (xorLanes (turned 4 parity) ((turned 1 parity).map fun c => c.rotateLeft 1)) fun spread =>
  (planes sponge).flatMap (xorLanes spread)

/-- The lanes' walk: from lane 1 on, each of 24 lanes moves to the place the walk reaches next, turned by the next triangular number. -/
def scatterLanes (sponge : List W64) : Nat → Nat → List W64
  | 0, _ => sponge
  | left + 1, at_ =>
    let next := at_ / 5 + 5 * ((2 * at_ + 3 * (at_ / 5)) % 5)
    let turns := (24 - left) * (25 - left) / 2 % 64
    (scatterLanes sponge left next).set next ((sponge.getD at_ 0).rotateLeft turns)

/-- Along each plane: a lane flips where the next lane is 0 and the one after it is 1. -/
def flipAlong (sponge : List W64) : List W64 :=
  (planes sponge).flatMap fun p =>
    xorLanes p (List.zipWith (fun one two => two &&& ~~~one) (turned 1 p) (turned 2 p))

/-- The 8-bit shift register of the round constants, one shift on. -/
def constShift (r : Nat) : Nat := if r < 128 then 2 * r else (2 * r) % 256 ^^^ 0x71

/-- A round's constant: bit 2^j - 1 is the register's low bit after j shifts; the register after the round is left beside it. -/
def roundConst : Nat → Nat → Nat → Nat × Nat
  | 0, _, r => (0, r)
  | left + 1, bit, r =>
    let (rest, last) := roundConst left (2 * bit + 1) (constShift r)
    (2 ^ bit * (r % 2) + rest, last)

/-- The rounds still to do, the shift register beside them. -/
def permute1600 : Nat → Nat → List W64 → List W64
  | 0, _, sponge => sponge
  | left + 1, r, sponge =>
    strict (roundConst 7 0 r).2 fun next =>
    settled (mixColumns1600 sponge) fun mixed =>
    settled (scatterLanes mixed 24 1) fun walked =>
    settled (xorLanes (flipAlong walked) (BitVec.ofNat 64 (roundConst 7 0 r).1 :: List.replicate 24 0)) fun turned =>
    permute1600 left next turned

/-- 24 rounds, from the register's start. -/
def nextSponge (sponge : List W64) : List W64 := permute1600 24 1 sponge

/-- A padded message goes in, 136 bytes (17 lanes) before each permutation; the fuel is its number of blocks. -/
def soak : Nat → List W64 → List Byte → List W64
  | 0, sponge, _ => sponge
  | blocks + 1, sponge, bytes =>
    let lanes := (List.range 17).map fun i => BitVec.ofNat 64 (leNat ((bytes.drop (8 * i)).take 8))
    settled (xorLanes sponge (lanes ++ List.replicate 8 0)) fun sponge => soak blocks (nextSponge sponge) (bytes.drop 136)

/-- The first 17 lanes of the sponge, then those of the sponges that follow. -/
def wring : Nat → List W64 → List Byte
  | 0, _ => []
  | blocks + 1, sponge => (sponge.take 17).flatMap (fun w => toLe 8 w.toNat) ++ wring blocks (nextSponge sponge)

/-- SHAKE256 with n bytes of output: 1111 and a one bit end the message, a one bit ends its last block. -/
def shake256 (n : Nat) (msg : List Byte) : List Byte :=
  let blocks := msg.length / 136 + 1
  let last := 136 * blocks - 1
  let fill := (List.range (136 * blocks - msg.length)).map fun i =>
    (if i = 0 then 0x1F else 0) ||| (if msg.length + i = last then 0x80 else (0 : Byte))
  (wring (cdiv n 136) (soak blocks (List.replicate 25 0) (msg ++ fill))).take n

/-! ## The curve of Ed448 (RFC 8032, 5.2) -/

/-- The field's prime, the order of the base point, and minus the curve's constant. -/
def edP : Nat := 2 ^ 448 - 2 ^ 224 - 1
def edL : Nat := 2 ^ 446 - 13818066809895115352007386748515426880336692474882178609894547503885
def edD : Nat := 39081

/-- b to the power e modulo p; the fuel is the number of bits of e. -/
def powMod : Nat → Nat → Nat → Nat → Nat
  | 0, _, _, r => r
  | n + 1, b, e, r => strict (if e % 2 = 1 then r * b % edP else r) fun r => strict (b * b % edP) fun b => powMod n b (e / 2) r

def edPow (b e : Nat) : Nat := powMod 448 b e 1

/-- A point in projective coordinates. -/
structure EdPoint where
  x : Nat
  y : Nat
  z : Nat
  deriving DecidableEq, Repr

def EdPoint.zero : EdPoint := { x := 0, y := 1, z := 1 }

/-- The base point. -/
def EdPoint.base : EdPoint :=
  { x := 224580040295924300187604334099896036246789641632564134246125461686950415467406032909029192869357953282578032075146446173674602635247710
    y := 298819210078481492676017930443930673437544040154080242095928241372331506189835876003536878655418784733982303233503462500531545062832660
    z := 1 }

/-- Addition of points (RFC 8032, 5.2.4); a difference modulo p has p added first. -/
def EdPoint.add (a b : EdPoint) : EdPoint :=
  strict (a.z * b.z % edP) fun zz =>
  strict (a.x * b.x % edP) fun xx =>
  strict (a.y * b.y % edP) fun yy =>
  strict (zz * zz % edP) fun z2 =>
  strict (edD * xx % edP * yy % edP) fun e =>
  strict ((a.x + a.y) * (b.x + b.y) % edP) fun h =>
  strict (z2 + e) fun f =>
  strict (z2 + edP - e) fun g =>
  strict (zz * f % edP * (h + 2 * edP - xx - yy) % edP) fun x =>
  strict (zz * g % edP * (yy + edP - xx) % edP) fun y =>
  strict (f * g % edP) fun z => { x := x, y := y, z := z }

/-- n times a point, n below 2^448: bit `i - 1` downward. -/
def EdPoint.mulBits (p : EdPoint) (n : Nat) : Nat → EdPoint → EdPoint
  | 0, r => r
  | i + 1, r =>
    let d := r.add r
    EdPoint.mulBits p n i (if n.testBit i then d.add p else d)

def EdPoint.mul (p : EdPoint) (n : Nat) : EdPoint := p.mulBits n 448 EdPoint.zero

/-- Four times a point: the cofactor cleared. -/
def EdPoint.timesFour (p : EdPoint) : EdPoint := (p.add p).add (p.add p)

/-- Equal points: cross products. -/
def EdPoint.same (a b : EdPoint) : Bool := a.x * b.z % edP == b.x * a.z % edP && a.y * b.z % edP == b.y * a.z % edP

/-- The 57 bytes of a point: y, and the low bit of x. -/
def EdPoint.encode (a : EdPoint) : List Byte :=
  strict (edPow a.z (edP - 2)) fun i => strict (a.x * i % edP) fun x => strict (a.y * i % edP) fun y =>
    toLe 57 (y + (x % 2) * 2 ^ 455)

/-- The point of 57 bytes; none where they name no point (RFC 8032, 5.2.3). -/
def edDecode (bs : List Byte) : Option EdPoint :=
  let n := leNat bs
  let y := n % 2 ^ 455
  let sign := n / 2 ^ 455 % 2
  if bs.length ≠ 57 ∨ edP ≤ y then none
  else
    let yy := y * y % edP
    let u := (yy + edP - 1) % edP
    let v := (edP - edD * yy % edP + (edP - 1)) % edP
    let uv := u * u % edP * u % edP * v % edP
    let x := uv * edPow (uv * u % edP * u % edP * (v * v % edP) % edP) ((edP - 3) / 4) % edP
    if v * (x * x % edP) % edP ≠ u then none
    else if x = 0 ∧ sign = 1 then none
    else some { x := if x % 2 = sign then x else edP - x, y := y, z := 1 }

/-! ## Signatures (RFC 8032, 5.2.6 and 5.2.7) -/

/-- The bytes of an ASCII string. -/
def ascii (s : String) : List Byte := s.toList.map fun c => BitVec.ofNat 8 c.toNat

/-- dom4: pure (flag 0) or prehashed (flag 1), and the context string. -/
def dom4 (flag : Nat) (ctx : List Byte) : List Byte := ascii "SigEd448" ++ [BitVec.ofNat 8 flag, BitVec.ofNat 8 ctx.length] ++ ctx

/-- The secret scalar and the prefix of a private key. -/
def edScalar (h : List Byte) : Nat := leNat (h.take 56) / 4 * 4 % 2 ^ 447 + 2 ^ 447
def edPublic (key : List Byte) : List Byte := (EdPoint.base.mul (edScalar (shake256 114 key))).encode

/-- The signature of a message, or of a prehash, with a private key. -/
def edSign (flag : Nat) (ctx key msg : List Byte) : List Byte :=
  let h := shake256 114 key
  let a := edScalar h
  let r := leNat (shake256 114 (dom4 flag ctx ++ h.drop 57 ++ msg)) % edL
  let rb := (EdPoint.base.mul r).encode
  let k := leNat (shake256 114 (dom4 flag ctx ++ rb ++ (EdPoint.base.mul a).encode ++ msg)) % edL
  rb ++ toLe 57 ((r + k * a) % edL)

/-- A signature verifies: 4 S B = 4 R + 4 k A, the check that RFC 8032 gives first (log entry 8). -/
def edVerify (flag : Nat) (ctx pub msg sig : List Byte) : Bool :=
  match edDecode pub, edDecode (sig.take 57) with
  | some a, some r =>
    let n := leNat (sig.drop 57)
    let k := leNat (shake256 114 (dom4 flag ctx ++ sig.take 57 ++ pub ++ msg)) % edL
    sig.length == 114 && decide (n < edL) &&
      (EdPoint.base.mul n).timesFour.same (r.add (a.mul k)).timesFour
  | _, _ => false

end Sys2Proof.Machine
end

