-- ==== Sys2Proof/Machine/Power.lean ====
section
/-! DEFINITION. Power, heat and schedule variants (15).

A PHASE holds context 0. PHASE_DECISION or POOL_DECISION decides it; VARIANT_CHANGE brings the island to the variant and ends the
PHASE, which ends at the decision when the island runs that variant already. -/

namespace Sys2Proof.Machine
open Sys2Proof

/-! ## Throttle and cap (R392, R393, R466) -/

/-- ALERT_N (R466). -/
def State.setAlert (s : State) : State := { s with pins := { s.pins with alert := s.capped || s.recovery } }

/-- PWR_BUDGET in W: values above 2,200 act as 2,200 (R395). -/
def State.budget (s : State) : Nat := min 2200 (bits (s.pg .pwr PWR_BUDGET) 0 12)

/-- Variant v is allowed by PWR_VALLOW: 0 acts as 0xF. -/
def State.vallow (s : State) (v : Fin 4) : Bool :=
  let a := bits (s.pg .pwr PWR_VALLOW) 0 4
  a == 0 || a.testBit v.val

/-- Variant v under the throttle and the cap: V2 in place of V0 and V1. -/
def capVar (on : Bool) (v : Fin 4) : Fin 4 := if on ∧ v < 2 then 2 else v

/-! ## Phase entries (R385) -/

/-- An entry offers variant v: its offer bit is set and its dur is not 0; offer 0 acts as 0b0001. -/
def offers (e : PhaseEntry) (v : Fin 4) : Bool := (if e.offer = 0 then v == 0 else e.offer.getLsbD v.val) && e.dur[v] != 0

def State.phase? (s : State) (x : Nat) : Option PhaseEntry := s.power.phases[x]?

/-- A core is in a mask. -/
def maskHas (m : W64) (c : CoreId) : Bool := m.getLsbD c.val

/-! ## Choosing a variant (R387) -/

/-- The mean of some powers, in whole µW (R12, R383). -/
def meanUw (l : List Nat) : Nat := rneDiv l.sum (max 1 l.length)

/-- P_pkg and P_c: the averages over the samples of the last 100 µs, in µW (R383). -/
def Power.pPkg (p : Power) : Nat := meanUw (p.samples.map (·.1))
def Power.pCore (p : Power) (c : CoreId) : Nat := meanUw (p.samples.map (·.2[c]))

/-- Sum of P_c over a mask, in µW. -/
def State.maskPower (s : State) (m : W64) : Nat :=
  (List.finRange 64).foldl (fun n c => if maskHas m c then n + s.power.pCore c else n) 0

/-- P_proj(v) ≤ PWR_BUDGET, compared exactly: energy in µJ over dur in ns, powers in µW. -/
def State.fits (s : State) (m : W64) (e : PhaseEntry) (v : Fin 4) : Bool :=
  decide (((1000000000 * e.energy[v] : Nat) : Int) ≤
    (((1000000 * s.budget : Nat) : Int) - (s.power.pPkg : Int) + (s.maskPower m : Int)) * (e.dur[v] : Int))

/-- The candidate set: offered, allowed, and not V0 or V1 while a throttle or a cap is in force. -/
def State.candidates (s : State) (e : PhaseEntry) : List (Fin 4) :=
  (List.finRange 4).filter fun v => offers e v && s.vallow v && (!s.capped || decide (2 ≤ v.val))

/-- The slowest variant that PWR_VALLOW, the throttle and the cap allow, or V3. -/
def State.slowestAllowed (s : State) : Fin 4 :=
  (((List.finRange 4).filter fun v => s.vallow v && (!s.capped || decide (2 ≤ v.val))).getLast?).getD 3

/-- Cause of R390 where the candidate set is empty: the throttle or the cap where they emptied it, else PWR_VALLOW. -/
def State.emptyCause (s : State) (e : PhaseEntry) : Nat :=
  if s.capped ∧ (List.finRange 4).any (fun v => offers e v && s.vallow v) then (if s.thr then 2 else 3) else 1

/-- The variant chosen for an entry and a mask, with the cause of R390 and whether it fits the budget. -/
def State.choose (s : State) (m : W64) (e : PhaseEntry) : Fin 4 × Nat × Bool :=
  let cs := s.candidates e
  match cs.find? fun v => s.fits m e v with
  | some v => (v, 0, true)
  | none =>
    match cs.getLast? with
    | some v => (v, 0, false)
    | none => (s.slowestAllowed, s.emptyCause e, false)

/-! ## Pools (R388) -/

/-- a's power at its variant is less than b's. -/
def pwLess (a b : PhaseEntry × Fin 4) : Bool :=
  decide (a.1.energy[a.2] * b.1.dur[b.2] < b.1.energy[b.2] * a.1.dur[a.2])

/-- The members of a pool that have not run, with the entry of each. A member whose phase entry lies at or above the copied phase
table has no entry to choose by: it is no member, and never runs. DESIGN CHOICE (R388 and R384 say nothing of it), log entry 33. -/
def State.poolLeft (s : State) (x : Nat) (q : PoolEntry) : List (Nat × PhaseEntry) :=
  let ran := ((s.power.poolRun.find? fun r => r.1 == x).map (·.2)).getD []
  ((List.finRange 8).filter fun k => decide (k.val < min q.cnt 8) && !ran.contains k.val).filterMap fun k =>
    (s.phase? q.member[k]).map fun e => (k.val, e)

/-- The member that runs next: the fitting one with the fastest variant, else the one with the least power at its slowest
candidate, else the first, at the variant that R387 gives without candidates; ties to the lower index. -/
def State.pickMember (s : State) (m : W64) (ms : List (Nat × PhaseEntry)) : Option (Nat × Fin 4 × Nat) :=
  let rated := ms.map fun (k, e) => (k, e, s.choose m e)
  let fit := (rated.filter fun r => r.2.2.2.2).foldl (fun (b : Option (Nat × PhaseEntry × Fin 4 × Nat × Bool)) r => match b with
    | some a => if r.2.2.1 < a.2.2.1 then some r else b
    | none => some r) none
  match fit with
  | some r => some (r.1, r.2.2.1, r.2.2.2.1)
  | none =>
    let low := (rated.filter fun r => !(s.candidates r.2.1).isEmpty).foldl (fun (b : Option (Nat × PhaseEntry × Fin 4 × Nat × Bool)) r =>
      match b with
      | some a => if pwLess (r.2.1, r.2.2.1) (a.2.1, a.2.2.1) then some r else b
      | none => some r) none
    (low.orElse fun _ => rated.head?).map fun r => (r.1, r.2.2.1, r.2.2.2.1)

/-- The members run so far in the current pool run of an entry. -/
def State.setPoolRun (s : State) (x : Nat) (f : List Nat → List Nat) : State :=
  s.modPower fun p =>
    let old := ((p.poolRun.find? fun r => r.1 == x).map (·.2)).getD []
    { p with poolRun := (x, f old) :: p.poolRun.filter fun r => r.1 != x }

/-! ## Instances (R386) -/

def noCount (_ : Nat) : Nat := 0

/-- Instance that a core arrives at: one more than its arrivals at the entry. -/
def State.instOf (s : State) (c : CoreId) (x : Nat) : Nat := smGet noCount s.power.counts (c.val * 65536 + x) + 1

/-- The core has taken its instance. -/
def State.countArrival (s : State) (c : CoreId) (x : Nat) : State :=
  s.modPower fun p => { p with counts := smSet noCount p.counts (c.val * 65536 + x) (s.instOf c x) }

def State.decision? (s : State) (x n : Nat) : Option Decision := s.power.decisions.find? fun d => d.entry == x && d.inst == n

/-- The core must wait: some core of the mask has not taken the instance 16 before. -/
def State.windowFull (s : State) (x n : Nat) (m : W64) : Bool :=
  decide (16 < n) && (match s.decision? x (n - 16) with
    | some d => m &&& ~~~d.taken != 0
    | none => false)

/-- A decision enters the records; of each entry the 16 most recent instances are kept. -/
def State.keepDecision (s : State) (d : Decision) : State :=
  (s.modPower fun p => { p with decisions := d :: p.decisions.filter fun e => !(e.entry == d.entry && decide (e.inst + 16 ≤ d.inst)) }).bump
    .pwr 0 1

/-- The decision of an ordinary phase. -/
def State.decidePhase (s : State) (x n : Nat) (e : PhaseEntry) : Decision :=
  let (v, cause, _) := s.choose e.mask e
  { entry := x, inst := n, var := v, member := none, exit := false, cause := cause, taken := 0 }

/-- The decision at a pool's PHASE point; a pool entry that was not copied has no members (log entry 33). -/
def State.decidePool (s : State) (x n : Nat) (e : PhaseEntry) : Decision :=
  let q := s.power.pools[e.pool.toNat]?
  match (q.map fun q => s.poolLeft x q).bind fun ms => s.pickMember e.mask ms with
  | some (k, v, cause) => { entry := x, inst := n, var := v, member := some k, exit := false, cause := cause, taken := 0 }
  | none => { entry := x, inst := n, var := 0, member := none, exit := true, cause := 0, taken := 0 }

/-- The recorded decision of an instance, made now if there is none. -/
def State.decide? (s : State) (x n : Nat) (e : PhaseEntry) (pool : Bool) : State × Decision :=
  match s.decision? x n with
  | some d => (s, d)
  | none =>
    let d := if pool then s.decidePool x n e else s.decidePhase x n e
    let s := s.keepDecision d
    (if pool then s.setPoolRun x fun l => match d.member with
      | some k => l ++ [k]
      | none => []
     else s, d)

/-- A core has taken a decision. -/
def State.take (s : State) (c : CoreId) (d : Decision) : State :=
  s.modPower fun p => { p with decisions := p.decisions.map fun e =>
    if e.entry = d.entry ∧ e.inst = d.inst then { e with taken := e.taken ||| (1 : W64) <<< c.val } else e }

/-! ## Islands (R380, R381, R389, R390, R470) -/

/-- A core is forced (R389). -/
def State.forced (s : State) (c : CoreId) : Bool :=
  bit (s.pg .pwr PWR_FORCE) 0 &&
    (if c.val < 32 then bit (s.pg .pwr PWR_FORCE_MASK_LO) c.val else bit (s.pg .pwr PWR_FORCE_MASK_HI) (c.val - 32))

def State.forceVar (s : State) : Fin 4 := Fin.ofNat 4 (bits (s.pg .pwr PWR_FORCE) 1 2)

/-- The offer field and the offered variants of a phase entry in force; one that was not copied offers V0 (R384). -/
def State.offerOf (s : State) (x : Nat) : Nat := match s.phase? x with
  | some e => e.offer.toNat
  | none => 1

def State.offered (s : State) (x : Nat) (v : Fin 4) : Bool := match s.phase? x with
  | some e => offers e v
  | none => v == 0

/-- VARIANT_FORCED (R390). -/
def State.forcedRec (s : State) (c : CoreId) (x : Nat) (v : Fin 4) (cause : Nat) : Rec :=
  mkRec 0x0503 (x % 0x2000 + c.val <<< 13 + s.offerOf x <<< 19 + v.val <<< 23 + cause <<< 25) 0 0 0

/-- It is recorded when the island begins a variant that its phase entry does not offer; at the onset of a throttle or a cap
PG_ERR_CODE keeps THERM_THROTTLE (R390, R394). -/
def State.recordForced (s : State) (c : CoreId) (v : Fin 4) (cause : Nat) : State :=
  match (s.island c).entry with
  | none => s
  | some x =>
    if s.offered x v then s
    else
      let r := s.forcedRec c x v cause
      if (s.island c).onset then (s.bump .pwr 1 1).recordBehind .pwr r else (s.bump .pwr 1 1).record .pwr r

/-- The setpoint in force of an island, in mV (R380). -/
def State.setpoint (s : State) (c : CoreId) : Nat := (s.mgmt.fuses.setpoint[c])[(s.island c).var]

/-- Setting of rail 0: 60 mV above the highest setpoint in force, to the nearest step of 5 mV, between 600 and 800 mV (R12, R470). -/
def State.railFor (s : State) : Nat :=
  let top := (s.enabledCores).foldl (fun n c => max n (s.setpoint c)) 0
  max 600 (min 800 (5 * rneDiv (top + 60) 5))

def State.setRail (s : State) : State := s.modPower fun p => { p with rail0 := s.railFor }

/-- An island begins to run at a variant. -/
def State.runAt (s : State) (c : CoreId) (v : Fin 4) (cause : Nat) : State :=
  ((((s.modIsland c fun i => { i with var := v, goal := none }).setRail).recordForced c v cause)).modIsland c fun i =>
    { i with onset := false }

/-- The cause of a variant that the throttle or the cap gives in place of another. -/
def State.capCause (s : State) (d v : Fin 4) (cause : Nat) : Nat := if d = v then cause else if s.thr then 2 else 3

/-! ## A PHASE completes (R213, R386, R388) -/

/-- Context 0 goes on, at the next offset (0: the one that follows). -/
def State.phaseEnd (s : State) (c : CoreId) (j : Job) (next : Nat) : State :=
  let s := if next = 0 then s.stepPc c j.ctx j.off else s.setPc c j.ctx next
  ((s.unholdCtx c j.ctx).complete c j).settle c

/-- An island takes a decision, which the power manager sends from bay 14 (R24, R386): at once when it runs the variant already, else by
VARIANT_CHANGE. -/
def State.takeVariant (s : State) (c : CoreId) (j : Job) (x ent : Nat) (d : Fin 4) (cause next : Nat) : State :=
  let (d, cause) := if s.forced c then (s.forceVar, 0) else (d, cause)
  let v := capVar s.capped d
  let s := (s.carry mgtBay (bayOf c) false).modIsland c fun i =>
    { i with decided := d, cause := cause, entry := some ent, goal := if i.var = v then none else some v, onset := false }
  if (s.island c).var = v then (s.recordForced c v (s.capCause d v cause)).phaseEnd c j next
  else s.modCtx c j.ctx fun t => { t with hold := .phase j x (some next) }

/-- Offset after an exit or for a core outside the mask of a pool. -/
def exitOff (j : Job) : Nat := j.off + 9

/-- A PHASE whose entry was not copied: an ordinary phase of the core alone (R384). -/
def State.phaseBeyond (s : State) (c : CoreId) (j : Job) (x : Nat) : State :=
  let ok := s.vallow 0 && !s.capped
  let v := if ok then 0 else s.slowestAllowed
  let cause := if s.capped then (if s.thr then 2 else 3) else 1
  ((s.countArrival c x).bump .pwr 0 1).takeVariant c j x x v cause 0

/-- The power manager decides the PHASE that holds a core's context 0: an ordinary phase, or a pool's. -/
def State.phaseDecide (s : State) (c : CoreId) (pool : Bool) : State :=
  match (s.ctx c 0).hold with
  | .phase j x none =>
    if bit (s.pg .pwr PWR_PT_CTL) 0 then s
    else
      match s.phase? x with
      | none => if pool then s else s.phaseBeyond c j x
      | some e =>
        if (e.pool != 0xFFFF) != pool then s
        else if !maskHas e.mask c then (s.restoreVar c).phaseEnd c j (if pool then exitOff j else 0)
        else
          let n := s.instOf c x
          if s.windowFull x n e.mask then s
          else
            let (s, d) := s.decide? x n e pool
            let s := (s.take c d).countArrival c x
            if d.exit then (s.restoreVar c).phaseEnd c j (exitOff j)
            else
              match d.member with
              | some k =>
                let ent := ((s.power.pools[e.pool.toNat]?).map fun q => q.member[Fin.ofNat 8 k]).getD x
                s.takeVariant c j x ent d.var d.cause (j.off + 1 + k)
              | none => s.takeVariant c j x x d.var d.cause 0
  | _ => s

/-- An island that has a change to make makes it, and the PHASE that waits for it ends (R381, R168). -/
def State.changeVariant (s : State) (c : CoreId) : State :=
  let i := s.island c
  let s := match i.goal with
    | none => s
    | some g =>
      let v := capVar s.capped g
      s.runAt c v (s.capCause i.decided v i.cause)
  match (s.ctx c 0).hold with
  | .phase j _ (some next) => s.phaseEnd c j next
  | _ => s

/-! ## Cap and throttle (R392, R393) -/

/-- At the onset of a throttle or a cap every island above V2 is to run at V2. -/
def State.capIslands (s : State) : State :=
  s.enabledCores.foldl (fun s c => s.modIsland c fun i =>
    match i.goal with
    | some g => { i with goal := some (capVar true g), onset := i.onset || decide (g < 2) }
    | none => if i.var < 2 then { i with goal := some 2, onset := true } else i) s

/-- A PHASE of the island waits for its decision. -/
def State.awaitsPhase (s : State) (c : CoreId) : Bool :=
  match (s.ctx c 0).hold with
  | .phase _ _ none => true
  | _ => false

/-- Every island returns to its decided variant, unless a cap or a throttle still stands; one that waits for its PHASE's decision
goes to the new one, not the old one (R394), and to the old one only when that PHASE decides none. -/
def State.freeIslands (s : State) : State :=
  if s.capped then s
  else s.enabledCores.foldl (fun s c => s.modIsland c fun i =>
    { i with goal := if s.awaitsPhase c ∨ i.var = i.decided then none else some i.decided, onset := false }) s

/-- THERM_THROTTLE (R393). -/
def thermRec (cause sensor value : Nat) : Rec := mkRec 0x0501 (cause + sensor <<< 1) (value % 0x1_0000) 0 0

/-- Power of an AVSBus rail at the last reading, in µW: mV times mA (R470). -/
def Power.rail0to9 (p : Power) (k : Fin 10) : Nat := p.volts[k] * p.amps[k]

/-- Power of all islands in the latest sample, in µW. -/
def Power.islands (p : Power) : Nat := match p.samples with
  | e :: _ => e.2.toList.sum
  | [] => 0

/-- The sum of R392: the island sensors of the latest sample with the rails of the last reading that do not feed islands. -/
def Power.summed (p : Power) : Nat :=
  p.islands + (((List.finRange 10).filter fun k => k != 0).map p.rail0to9).sum

/-- The latest samples exceed a limit of R392; the value recorded, in W. The average over 1 ms needs 1 ms of samples. -/
def State.overPower (s : State) : Option Nat :=
  let p := s.power
  if 2600000000 < p.summed then some (rneDiv p.summed 1000000)
  else if p.averages.length = 1000 ∧ 1000000000 * s.budget < p.averages.sum then some (rneDiv p.averages.sum 1000000000) else none

def State.capOnset (s : State) : State :=
  if s.pcap then s
  else
    match s.overPower with
    | none => s
    | some w =>
      let s := (s.setField .pwr PWR_STAT 13 1 1).modPower fun p => { p with under := 0 }
      ((s.capIslands.record .pwr (thermRec 1 0 w)).event .pwr EVT_STATE).setAlert

def State.capLift (s : State) : State :=
  if s.pcap ∧ 100 ≤ s.power.under then ((s.setField .pwr PWR_STAT 13 1 0).freeIslands).setAlert else s

/-- A sensor index of R393. -/
def sensorOk (n : Nat) : Bool := decide (n ≤ 303)

def State.throttle (s : State) (sensor temp : Nat) : State :=
  if s.thr ∨ !sensorOk sensor ∨ temp < 95 then s
  else
    let s := (s.setField .pwr PWR_STAT 12 1 1).setField .pwr PWR_STAT 14 1 (bn (decide (256 ≤ sensor)))
    let s := s.modPower fun p => { p with cool := 0 }
    ((s.capIslands.record .pwr (thermRec 0 sensor temp)).event .pwr EVT_STATE).setAlert

def State.throttleLift (s : State) : State :=
  if s.thr ∧ 100 ≤ s.power.cool then ((s.setField .pwr PWR_STAT 12 1 0).freeIslands).setAlert else s

/-- A trip: THERMTRIP_N asserts, the clocks stop, the log records it (R393). -/
def State.trip (s : State) (sensor temp : Nat) : State :=
  if !sensorOk sensor ∨ temp < 110 then s
  else
    let s := s.setPg .pwr PWR_TRIP_LOG (w32 (sensor + temp <<< 10 + 1 <<< 31))
    { (s.modPower fun p => { p with tripped := true }) with pins := { s.pins with thermtrip := true } }

/-! ## Samples (R263, R328, R382, R383) -/

/-- Power of each island in a sample, in µW: its current at the setpoint in force (log entry 23). -/
def State.islandUw (s : State) (p : PowerSample) : Vector Nat 64 := Vector.ofFn fun c => if s.enabled c then p.cur[c] * s.setpoint c else 0

/-- Package power in a sample, in µW: the AVSBus reading, corrected by what the islands' power has changed since (R383). -/
def State.packageUw (s : State) (isl : Vector Nat 64) : Nat :=
  ((List.finRange 10).map s.power.rail0to9).sum + isl.toList.sum - s.power.atRead

/-- A sample enters the averages: those of the last 100 µs, and P_pkg over the last 1 ms. -/
def Power.addSample (p : Power) (pkg : Nat) (isl : Vector Nat 64) : Power :=
  let q := { p with samples := ((pkg, isl) :: p.samples).take 100 }
  { q with averages := (q.pPkg :: q.averages).take 1000 }

def State.currentSample (s : State) (p : PowerSample) : State :=
  let s := (s.bump .pwr 2 (bn s.thr)).bump .pwr 3 (bn s.pcap)
  let isl := s.islandUw p
  let s := s.modPower fun q => q.addSample (s.packageUw isl) isl
  s.modPower fun q => { q with under := if q.pPkg ≤ 1000000 * s.budget then q.under + 1 else 0 }

/-- The hottest of the four sensors of an island (R393). -/
def hottest (t : Vector Int 304) (c : CoreId) : Int :=
  let at4 (i : Nat) : Int := t[Fin.ofNat 304 (4 * c.val + i)]
  max (max (at4 0) (at4 1)) (max (at4 2) (at4 3))

/-- A sensor that exists: those of enabled cores and of the other dies. -/
def State.sensorThere (s : State) (i : Fin 304) : Bool := decide (256 ≤ i.val) || s.enabled (Fin.ofNat 64 (i.val / 4))

/-- Every sample lies below 95 °C less the hysteresis. -/
def State.coolSample (s : State) (j : JunctionSample) : Bool :=
  let lim : Int := 95 - (bits (s.pg .pwr PWR_THM_HYST) 0 4 : Int)
  (List.finRange 304).all fun i => !s.sensorThere i || decide (j.sensor[i] < lim)

def State.junctionSample (s : State) (j : JunctionSample) : State :=
  let cool := s.coolSample j
  let s := s.modPower fun p => { p with temp := j.sensor, rail := j.rail, cool := if cool then p.cool + 1 else 0 }
  let s := s.enabledCores.foldl (fun s c =>
    s.setPg (.fu c) FU_SKIP_SENSE (w32 (tempBand (hottest j.sensor c) + voltBand j.rail[c] <<< 3))) s
  s.stacks.foldl (fun s t =>
    (s.setField (.att t) ATT_STAT 8 8 j.stackTemp[t]).setField (.att t) ATT_STAT 1 1 (bn (decide (85 < j.stackTemp[t])))) s

/-! ## Droop (R391) -/

/-- PWR_DROOP_CFG.mv: 0 acts as 40. -/
def State.droopMv (s : State) : Nat :=
  let v := bits (s.pg .pwr PWR_DROOP_CFG) 0 6
  if v = 0 then 40 else v

def State.droop (s : State) (c : CoreId) (rail : Nat) : State :=
  if !(s.island c).stretched ∧ rail + s.droopMv < s.setpoint c then (s.modIsland c fun i => { i with stretched := true }).bump .pwr 4 1
  else s

/-- Frequencies of the variants, MHz (R380). -/
def varMhz (v : Fin 4) : Nat := #v[2700, 2300, 1800, 1200][v]

/-- The ns of a stretch: its cycles at each variant, every one of a doubled period (R394, R396). 248,400 MHz is a multiple of every
frequency. -/
def droopNs (cycles : Vector Nat 4) : Nat :=
  rneDiv (2000 * ((List.finRange 4).map fun v => 248400 / varMhz v * cycles[v]).sum) 248400

/-- The rail, now `rail` mV, has been above the restore level in the last `above` cycles of a stretch (R391). -/
def State.droopEnd (s : State) (c : CoreId) (cycles : Vector Nat 4) (above rail : Nat) : State :=
  if (s.island c).stretched ∧ 64 ≤ above ∧ above ≤ cycles.toList.sum ∧ 2 * s.setpoint c < 2 * rail + s.droopMv then
    (s.modIsland c fun i => { i with stretched := false }).bump .pwr 5 (droopNs cycles)
  else s

/-! ## The phase table (R384, R385) -/

/-- A byte that the power manager reads. -/
def State.tableByte (s : State) (a : Nat) : Byte :=
  if s.mapped a 1 then s.mem.see (s.keyOf 0) a else Config.unmappedByte a

def State.tableNum (s : State) (a n : Nat) : Nat := leNat ((List.range n).map fun i => s.tableByte (a + i))

def State.phaseAt (s : State) (a : Nat) : PhaseEntry :=
  { mask := BitVec.ofNat 64 (s.tableNum a 8), offer := BitVec.ofNat 4 (s.tableNum (a + 8) 1), pool := BitVec.ofNat 16 (s.tableNum (a + 10) 2),
    energy := Vector.ofFn fun v => s.tableNum (a + 16 + 8 * v.val) 4, dur := Vector.ofFn fun v => s.tableNum (a + 20 + 8 * v.val) 4 }

def State.poolAt (s : State) (a : Nat) : PoolEntry :=
  { cnt := s.tableNum a 1 % 16, member := Vector.ofFn fun k => s.tableNum (a + 16 + 2 * k.val) 2 }

/-- The copy is complete: the tables, no counts, no decisions (R384, R388, R426). -/
def State.loadTables (s : State) : State :=
  let np := min 8192 (bits (s.pg .pwr PWR_PT_CNT) 0 14)
  let nq := min 256 (bits (s.pg .pwr PWR_POOL_CNT) 0 9)
  let pb := p42 (s.pg .pwr PWR_PT_BASE_LO) (s.pg .pwr PWR_PT_BASE_HI)
  let qb := p42 (s.pg .pwr PWR_POOL_BASE_LO) (s.pg .pwr PWR_POOL_BASE_HI)
  let ps := (List.range np).map fun i => s.phaseAt (pb + 48 * i)
  let qs := (List.range nq).map fun i => s.poolAt (qb + 32 * i)
  let s := ((s.countRead pb (48 * np)).countRead qb (32 * nq)).setField .pwr PWR_PT_CTL 0 1 0
  (s.modPower fun p => { p with phases := ps, pools := qs, decisions := [], counts := [], poolRun := [] }).event .pwr EVT_DONE

/-! ## What the power page shows (R395) -/

def State.pwrStat (s : State) : W32 := putBits (s.pg .pwr PWR_STAT) 0 12 (rneDiv s.power.pPkg 1000000)

def State.pwrIsl (s : State) (c : CoreId) : W32 :=
  if s.enabled c then
    let i := s.island c
    w32 (rneDiv (s.power.pCore c) 100000 % 1024 + wrapN 8 (hottest s.power.temp c) <<< 10 + i.var.val <<< 18 +
      bn (s.capped && i.var == 2 && decide (i.decided < 2)) <<< 20)
  else 0

/-! ## The commands -/

/-- PHASE_DECISION (R386, R387, R384). -/
def execPhaseDecision (c : CoreId) (s : State) : Host.Outcome State Fault Refusal :=
  .next (if s.seqUp c then s.phaseDecide c false else s)

/-- POOL_DECISION (R388). -/
def execPoolDecision (c : CoreId) (s : State) : Host.Outcome State Fault Refusal :=
  .next (if s.seqUp c then s.phaseDecide c true else s)

/-- VARIANT_CHANGE (R381). -/
def execVariantChange (c : CoreId) (s : State) : Host.Outcome State Fault Refusal :=
  .next (if s.coreUp c then s.changeVariant c else s)

/-- CURRENT_SAMPLE (R382, R383). -/
def execCurrentSample (p : PowerSample) (s : State) : Host.Outcome State Fault Refusal :=
  .next (if s.pkgUp then s.currentSample p else s)

/-- JUNCTION_SENSOR_SAMPLE (R263, R382). -/
def execJunctionSensorSample (j : JunctionSample) (s : State) : Host.Outcome State Fault Refusal :=
  .next (if s.pkgUp then s.junctionSample j else s)

/-- AVSBUS_READ (R382, R470). -/
def execAvsbusRead (volts amps temps : Vector Nat 10) (s : State) : Host.Outcome State Fault Refusal :=
  .next (if s.alive then s.modPower fun p => { p with volts := volts, amps := amps, temps := temps, atRead := p.islands } else s)

/-- POWER_CAP_ONSET (R392). -/
def execPowerCapOnset (s : State) : Host.Outcome State Fault Refusal := .next (if s.pkgUp then s.capOnset else s)

/-- POWER_CAP_LIFT (R392). -/
def execPowerCapLift (s : State) : Host.Outcome State Fault Refusal := .next (if s.pkgUp then s.capLift else s)

/-- THERM_THROTTLE (R393). -/
def execThermThrottle (sensor : BitVec 10) (temp : W16) (s : State) : Host.Outcome State Fault Refusal :=
  .next (if s.pkgUp then s.throttle sensor.toNat temp.toNat else s)

/-- THROTTLE_LIFT (R393). -/
def execThrottleLift (s : State) : Host.Outcome State Fault Refusal := .next (if s.pkgUp then s.throttleLift else s)

/-- THERMAL_TRIP (R393): independent of firmware, so also during start-up. -/
def execThermalTrip (sensor : BitVec 10) (temp : Byte) (s : State) : Host.Outcome State Fault Refusal :=
  .next (if s.alive then s.trip sensor.toNat temp.toNat else s)

/-- DROOP_STRETCH (R391). -/
def execDroopStretch (c : CoreId) (rail : Nat) (s : State) : Host.Outcome State Fault Refusal :=
  .next (if s.coreUp c then s.droop c rail else s)

/-- DROOP_RESTORE (R391). -/
def execDroopRestore (c : CoreId) (cycles : Vector Nat 4) (above rail : Nat) (s : State) : Host.Outcome State Fault Refusal :=
  .next (if s.coreUp c then s.droopEnd c cycles above rail else s)

/-- PHASE_TABLE_LOAD: PWR_PT_CTL.load is set (R384); function 0 alone reaches the power page (R403). -/
def execPhaseTableLoad (fn : FnId) (s : State) : Host.Outcome State Fault Refusal :=
  .next (if s.pkgUp && s.hostUp fn && fn == 0 then s.setField .pwr PWR_PT_CTL 0 1 1 else s)

/-- PHASE_TABLE_LOAD_DONE (R384). -/
def execPhaseTableLoadDone (s : State) : Host.Outcome State Fault Refusal :=
  .next (if s.pkgUp && bit (s.pg .pwr PWR_PT_CTL) 0 then s.loadTables else s)

end Sys2Proof.Machine
end

