-- ==== Sys2Proof/Machine/Mgmt.lean ====
section
/-! DEFINITION. Images, start-up, package reset, the mailbox and I3C commands, the log, the TAP (18, 19).

A mailbox command starts with MBX_GO. Its row carries it out (`Served`); MAILBOX_COMMAND_COMPLETE publishes the result. -/

namespace Sys2Proof.Machine
open Sys2Proof

/-! ## Images (R437 to R440) -/

def STAGING_SIZE := 0x100_0000
/-- Offset of the staging area in the PSRAM (R453). -/
def STAGING_AT := 0x100_0000
def FW_LIMIT := 0x80_0000
def MC_LIMIT := 0x10_0000
/-- Offsets of the two images in the flash, and in the staging area (R437, R451). -/
def flashAt (ty : Nat) : Nat := if ty = 1 then 0 else 0x100_0000
def stagedAt (ty : Nat) : Nat := if ty = 1 then 0 else 0xC0_0000
def imageLimit (ty : Nat) : Nat := if ty = 1 then FW_LIMIT else MC_LIMIT

/-- A byte of a memory of cells, over what it reads as where nothing was written. -/
def cellByte (d : Nat → Byte) (l : List Host.Cell) (a : Nat) : Byte := smGet d l a

def Mgmt.flashByte (m : Mgmt) (a : Nat) : Byte := cellByte Config.flashInitial m.flash a
/-- A byte of the PSRAM devices, device 1 from 0x200_0000 on; of the staging area in device 0 (R453). -/
def Mgmt.psrByte (m : Mgmt) (a : Nat) : Byte := cellByte (Config.psramInitial m.psram) m.psr a
def Mgmt.stagedByte (m : Mgmt) (a : Nat) : Byte := m.psrByte (STAGING_AT + a)

/-- Cells written with bytes from an offset on. -/
def putCells (l : List Host.Cell) (a : Nat) : List Byte → List Host.Cell
  | [] => l
  | b :: r => putCells (smIns a b (smErase l a)) (a + 1) r

/-- Bytes of an image. -/
def run (read : Nat → Byte) (a n : Nat) : List Byte := (List.range n).map fun i => read (a + i)

def num (read : Nat → Byte) (a n : Nat) : Nat := leNat (run read a n)

/-- Bytes that are all zero. -/
def zeros (read : Nat → Byte) (a n : Nat) : Bool := (run read a n).all (· == 0)

/-- Measurement of an image: SHAKE256 over header bytes 0 to 127 and the body (R438). -/
def measureImage (read : Nat → Byte) : List Byte := shake256 64 (run read 0 128 ++ run read 256 (num read 12 4))

/-- A public key matches an unrevoked key-hash slot (R439). -/
def Fuses.keyOk (f : Fuses) (pub : List Byte) : Bool :=
  (List.finRange 4).any fun i => !f.revoked[i] && (f.keyHash[i]).toList == shake256 32 pub

/-- Burned bits of a thermometer field (R439). -/
def burned (f : W64) : Nat := ((List.range 64).filter fun i => f.getLsbD i).length

/-- A thermometer field burned up to n (R444). -/
def burnTo (f : W64) (n : Nat) : W64 := if n ≤ burned f then f else f ||| BitVec.ofNat 64 (1 <<< min n 64 - 1)

/-- The minimum svn of an image type. -/
def Fuses.minSvn (f : Fuses) (ty : Nat) : Nat := burned (if ty = 1 then f.svnFw else f.svnMc)

/-- The checks of R440 in order; none: accepted. -/
def Fuses.verify (f : Fuses) (ty : Nat) (read : Nat → Byte) : Option Nat :=
  let pub := run read 64 57
  if num read 0 4 ≠ 0x3034_424D ∨ num read 4 2 ≠ ty ∨ num read 6 2 ≠ 1 ∨ !zeros read 20 44 ∨ !zeros read 121 7 ∨ !zeros read 242 14 ∨
      imageLimit ty < 256 + num read 12 4 then some 1
  else if !f.keyOk pub then some 2
  else if num read 8 4 < f.minSvn ty then some 3
  else if !edVerify 1 (ascii "Feleth MB40 image") pub (measureImage read) (run read 128 114) then some 4
  else none

/-- The image of a type in the flash, and in the staging area, from its header on. -/
def Mgmt.inFlash (m : Mgmt) (ty : Nat) : Nat → Byte := fun i => m.flashByte (flashAt ty + i)
def Mgmt.inStaging (m : Mgmt) (ty : Nat) : Nat → Byte := fun i => m.stagedByte (stagedAt ty + i)

/-- Flash slot of a type. -/
def slotIx (ty : Nat) : Fin 2 := if ty = 1 then 0 else 1

/-- IMAGE_REJECT (R459). -/
def State.reject (s : State) (ty reason : Nat) (svn : W32) : State :=
  s.record .sec { code := 0x0601, i0 := w32 (ty + reason <<< 4), i1 := svn, i2 := w32 (s.mgmt.fuses.minSvn ty), i3 := 0 }

/-- Verification of an image in the flash: the reason of its rejection, with the svn reported. -/
def State.verifyFlash (s : State) (ty : Nat) (readOk : Bool) : Option (Nat × W32) :=
  let m := s.mgmt
  let r := m.inFlash ty
  if !readOk then some (5, Config.unreadSvn s.free)
  else if m.flashBad[slotIx ty] then some (1 + (Config.partlyWritten s.free).val, w32 (num r 8 4))
  else (m.fuses.verify ty r).map fun k => (k, w32 (num r 8 4))

/-! ## The security page -/

def secStat (fwOk mcOk wdog : Bool) (rec_ : Bool) (level : Nat) : W32 :=
  w32 (bn rec_ + bn fwOk <<< 1 + bn mcOk <<< 2 + level <<< 3 + bn wdog <<< 5)

/-- SEC_FW_SVN and SEC_MC_SVN. -/
def State.setSvns (s : State) : State :=
  let m := s.mgmt
  (s.setPg .sec SEC_FW_SVN (w32 (m.svnFw % 256 + m.fuses.minSvn 1 <<< 8))).setPg .sec SEC_MC_SVN
    (w32 (m.svnMc % 256 + m.fuses.minSvn 2 <<< 8))

/-- 64 bytes of a measurement into 16 registers. -/
def State.setMeas (s : State) (reg : Nat → Nat) (bs : List Byte) : State :=
  forRange 16 (fun i s => s.setPg .sec (reg i) (w32 (leNat ((bs.drop (4 * i)).take 4)))) s

/-- Bytes of a measurement as its registers hold it. -/
def State.measBytes (s : State) (reg : Nat → Nat) : List Byte := (List.range 16).flatMap fun i => toLe 4 (s.pg .sec (reg i)).toNat

/-! ## The log (R453, R454) -/

/-- One bit of the IEEE 802.3 CRC-32, reflected. -/
def crcBit (c : W32) : W32 := if c.getLsbD 0 then (c >>> 1) ^^^ 0xEDB8_8320 else c >>> 1

def crcByte (c : W32) (b : Byte) : W32 := forRange 8 (fun _ c => crcBit c) (c ^^^ b.setWidth 32)

/-- IEEE 802.3 CRC-32. -/
def crc32 (bs : List Byte) : W32 := ~~~(bs.foldl crcByte 0xFFFF_FFFF)

/-- 60 bytes with their CRC-32 behind them, and whether 64 bytes carry it. -/
def withCrc (b : List Byte) : List Byte := b ++ toLe 4 (crc32 b).toNat
def crcOk (b : List Byte) : Bool := leNat ((b.drop 60).take 4) == (crc32 (b.take 60)).toNat

/-- Records of the log ring, and where the ring and its header lie in the PSRAM (R453). -/
def LOG_RING := 262143
def LOG_AT := 0x300_0000
def LOG_HEADER := 0x3FF_FFC0

/-- The log header: boot count, newest index, CRC-32; their places are a DESIGN CHOICE, log entry 35. -/
def Mgmt.putHeader (m : Mgmt) : Mgmt :=
  let h := withCrc (toLe 4 m.boot ++ toLe 4 ((m.logNext + LOG_RING - 1) % LOG_RING) ++ toLe 52 0)
  { m with psr := putCells m.psr LOG_HEADER h }

/-- The log as the PSRAM holds it: it goes on after the newest record, or, with a header whose CRC is invalid, starts empty. -/
def Mgmt.openLog (m : Mgmt) : Mgmt :=
  let h := run m.psrByte LOG_HEADER 64
  let ok := crcOk h
  { m with boot := if ok then leNat (h.take 4) else 0, logNext := if ok then (leNat ((h.drop 4).take 4) + 1) % LOG_RING else 0, logNew := 0,
           logKeep := ok }

/-! ## Start-up (R435, R441, R442, R453, R464, R465) -/

/-- Recovery mode: DEV_READY with PKG_STAT.recovery (R442). -/
def State.recover (s : State) : State :=
  (((s.setPg .pkg PKG_STAT 3).setField .sec SEC_STAT 0 1 1).modMgmt fun m => { m with up := true }).setAlert

/-- The firmware runs: its svn and measurement, the boot count, the log (R435, R453). -/
def State.runFirmware (s : State) (read : Nat → Byte) : State :=
  let s := s.modMgmt fun m => ({ m with svnFw := num read 8 4, boot := m.boot + 1, up := true } : Mgmt).putHeader
  let s := ((s.setField .sec SEC_STAT 1 1 1).setPg .sec SEC_BOOTCNT (w32 s.mgmt.boot)).setMeas SEC_FW_MEAS (measureImage read)
  s.setSvns

/-- A core's storeroom is written with 0 and STO_INIT.done is set (R272). -/
def State.stoInit (s : State) (c : CoreId) : State :=
  let a := stoBase c
  let out (w : Nat) : Bool := !(decide (a ≤ w ∧ w < a + 0x800_0000))
  (s.modMem fun m =>
    { m with data := m.data.filter fun e => out e.1, fe := m.fe.filter fun w => out (8 * w),
             poison := m.poison.filter fun w => out (8 * w), flips := m.flips.filter fun e => out (8 * e.1) }).setPg (.sto c) STO_INIT 1

/-- The attic is written with data 0 and poison 0; its stacks are ready (R436, R325). -/
def State.atticInit (s : State) : State :=
  let s := s.modMem fun m =>
    { m with data := m.data.filter fun e => decide (STO_BASE ≤ e.1), poison := m.poison.filter fun w => decide (CEL_BASE ≤ 8 * w) }
  let ready := s.mgmt.fuses.attic.toNat
  s.stacks.foldl (fun s t => s.setField (.att t) ATT_STAT 0 1 (bn (ready.testBit t.val))) s

/-- A cellar port with a device is trained, enumerated and mapped (R331, R464). -/
def State.celInit (s : State) (e : StartEnv) (p : CelId) : State :=
  if e.cap[p] = 0 ∨ e.width[p] = 0 then s
  else
    let s := s.setPg (.cel p) CEL_STAT (w32 (1 + e.width[p].toNat <<< 1 + bn e.speed[p] <<< 3))
    let s := (s.setPg (.cel p) CEL_CAP (w32 (min 0x100_0000_0000 e.cap[p] / 0x1000_0000))).event (.cel p) EVT_STATE
    { s with pins := { s.pins with celPerstHigh := s.pins.celPerstHigh.set p true } }

/-- THERM_TRIP of an earlier trip (R441). -/
def State.reportTrip (s : State) : State :=
  let t := s.pg .pwr PWR_TRIP_LOG
  if bit t 31 then s.record .pwr { code := 0x0502, i0 := t, i1 := 0, i2 := 0, i3 := 0 } else s

/-- The firmware completes the start-up with an accepted microcode image (R435). -/
def State.finishStart (s : State) (e : StartEnv) (mc : Nat → Byte) : State :=
  let s := s.modMgmt fun m => { m with svnMc := num mc 8 4 }
  let s := ((s.setField .sec SEC_STAT 2 1 1).setSvns).setMeas SEC_MC_MEAS (measureImage mc)
  let s := s.enabledCores.foldl (fun s c => s.stoInit c) s
  let s := (List.finRange 4).foldl (fun s p => s.celInit e p) s.atticInit
  let s := s.reportTrip.setRail
  ((s.setPg .pkg PKG_STAT 1).setField .sec SEC_STAT 0 1 0).setAlert

/-- The microcode in the flash is verified and the start-up goes on, or recovery mode (R442). -/
def State.startMicrocode (s : State) (e : StartEnv) : State :=
  match s.verifyFlash 2 e.mcRead with
  | some (k, v) => (s.reject 2 k v).recover
  | none => s.finishStart e (s.mgmt.inFlash 2)

/-- EXTEST, CLAMP and HIGHZ act as BYPASS once PERST_N is deasserted (R458). -/
def Tap.released (t : Tap) : Tap :=
  match t.ir with
  | .extest | .clamp | .highz => { t with ir := .bypass, dr := [false] }
  | _ => t

/-- PERST_N is deasserted with every rail in range; with STRAP[3] the package stays in a factory test state (R465). The board's I3C
controller gives the package its dynamic address (R452); that it does so during the start-up is a DESIGN CHOICE (log 24). -/
def State.startUp (s : State) (e : StartEnv) : State :=
  let s := { s with pins := { s.pins with perst := false, strap := e.strap, vddMgt := true } }
  let s := s.modHost fun h => { h with linkUp := true, rate := e.rate, lanes := e.lanes }
  let s := s.modMgmt fun m => ({ m with tap := m.tap.released } : Mgmt).openLog
  if e.strap.getLsbD 3 then s
  else
    let s := (s.modMgmt fun m => { m with hdrRead := e.fwRead, dynAddr := e.i3cAddr }).setSvns
    match s.verifyFlash 1 e.fwRead with
    | some (k, v) => (s.reject 1 k v).recover
    | none => (s.runFirmware (s.mgmt.inFlash 1)).startMicrocode e

/-! ## Package reset (R432, R444, R464, R467, R473, R479) -/

/-- Every die returns to its reset state; fuses, PWR_TRIP_LOG, flash, PSRAM and cellar data survive. The cellar keys do not, nor
does a COMMIT under way. DESIGN CHOICE, unsafe (log 36): R432 returns every storeroom word to its reset state and R265 says that no
reset touches skip records and summaries; the model follows R432. -/
def State.packageReset (s : State) : State :=
  let m := s.mgmt
  let trip := s.pg .pwr PWR_TRIP_LOG
  let t : State :=
    { State.reset with
      pending := s.pending
      mem := { Mem.reset with cellar := s.mem.cellar, poison := s.mem.poison.filter fun w => inCellar (8 * w), key := s.mem.key }
      power := { Power.reset with rail0 := s.power.rail0 }
      mgmt :=
        { Mgmt.reset with
          fuses := m.fuses, flash := m.flash, flashBad := Vector.ofFn fun i => m.flashBad[i] || m.committing[i], psr := m.psr,
          psram := m.psram }
      pins := { Pins.reset with vddMgt := s.pins.vddMgt }
      free := s.free }
  t.setPg .pwr PWR_TRIP_LOG trip

/-- VDD_MGT below 1.62 V: as package reset; the trip log is lost, and the PSRAM devices with it (R453, R473, R479). -/
def State.undervoltage (s : State) : State :=
  let s := s.packageReset.setPg .pwr PWR_TRIP_LOG 0
  { (s.modMgmt fun m => { m with psr := [], psram := m.psram + 1 }) with
    pins := { s.pins with vddMgt := false } }

/-! ## Requests (R450 to R452) -/

def OP_INFO := 0x01
def OP_STAGE := 0x02
def OP_RECOVER := 0x03
def OP_COMMIT := 0x04
def OP_SVN := 0x05
def OP_ATTEST := 0x06
def OP_CERT := 0x07
def OP_MEASURE := 0x08
def OP_UNMEASURE := 0x09
def OP_CELKEY := 0x0A
def OP_LOG := 0x0B
def OP_CHALLENGE := 0x0C
def OP_UNLOCK := 0x0D
def OP_LOCK := 0x0E

def ST_OK := 0
def ST_BAD_CMD := 1
def ST_BAD_ARG := 2
def ST_REJECTED := 3
def ST_NOT_IN_MODE := 4
def ST_FLASH_ERR := 5

def ok (data : List Byte) : Served := { status := ST_OK, ret0 := none, data := data, vendor := none }
def fail (st : Nat) : Served := { status := st, ret0 := none, data := [], vendor := none }

/-- Ops that the mailbox serves in recovery mode (R442). -/
def recoveryOps : List Nat := [OP_INFO, OP_STAGE, OP_RECOVER, OP_LOG]
def OP_TELEMETRY := 0x20
/-- Ops served over I3C, besides TELEMETRY (R452). -/
def i3cOps : List Nat := [OP_INFO, OP_ATTEST, OP_CERT, OP_LOG, OP_CHALLENGE, OP_UNLOCK]

def State.mbxBusy (s : State) : Bool := bit (s.pg .mbx MBX_STAT) 0
def State.mbxOp (s : State) : Nat := bits (s.pg .mbx MBX_CMD) 0 8
def State.mbxLen (s : State) : Nat := min 2048 (bits (s.pg .mbx MBX_CMD) 8 12)
def State.mbxData (s : State) : List Byte := ((List.range 512).flatMap fun i => toLe 4 (s.pg .mbx (MBX_DATA i)).toNat).take s.mbxLen

/-- The firmware serves (R455). -/
def State.serves (s : State) : Bool := s.alive && s.mgmt.up

/-- An answer over I3C in a message of type 0x7E, which carries the vendor ID (R452). -/
def State.answer7e (s : State) (v : Served) : State := s.modMgmt fun m => { m with i3c := some { v with vendor := some m.fuses.vendor } }

/-- A management command is carried out: `f arg0 data` gives its result. A mailbox command is the one that runs and has not been
carried out. Over I3C the answer is given at once; an op that is not served there is answered BAD_CMD, and one that another row
serves is left to that row. R442 limits the mailbox alone in recovery mode. -/
def State.serve (s : State) (r : MgtReq) (op : Nat) (f : State → W32 → List Byte → State × Served) : State :=
  if !s.serves then s
  else
    match r with
    | .mailbox =>
      if s.mbxBusy && s.mgmt.served.isNone && s.mbxOp == op then
        let (s, v) := if s.recovery && !recoveryOps.contains op then (s, fail ST_NOT_IN_MODE) else f s (s.pg .mbx MBX_ARG0) s.mbxData
        s.modMgmt fun m => { m with served := some v }
      else s
    | .i3c o a0 _ d =>
      if !i3cOps.contains o.toNat && o.toNat != OP_TELEMETRY then s.answer7e (fail ST_BAD_CMD)
      else if o.toNat = op then (f s a0 d).1.answer7e (f s a0 d).2
      else s

/-! ## What the commands do (R443 to R449, R451, R456) -/

def State.svnBytes (s : State) : List Byte :=
  [s.mgmt.svnFw, s.mgmt.svnMc, s.mgmt.fuses.minSvn 1, s.mgmt.fuses.minSvn 2].map fun n => BitVec.ofNat 8 n

/-- INFO: serial, svns, stepping, boot count, in 64 bytes; their places are a DESIGN CHOICE, log entry 34. -/
def State.doInfo (s : State) (_ : W32) (_ : List Byte) : State × Served :=
  (s, ok (takePad 0 64 (toLe 8 s.mgmt.fuses.serial.toNat ++ s.svnBytes ++ toLe 4 s.mgmt.fuses.step.toNat ++ toLe 4 s.mgmt.boot)))

def State.doStage (s : State) (a0 : W32) (d : List Byte) : State × Served :=
  if STAGING_SIZE < a0.toNat + d.length then (s, fail ST_BAD_ARG)
  else (s.modMgmt fun m => { m with psr := putCells m.psr (STAGING_AT + a0.toNat) d }, ok [])

/-- Verification of staged images, in order: the first rejection. -/
def State.verifyStaged (s : State) (tys : List Nat) : Option (Nat × Nat × W32) :=
  tys.findSome? fun ty => (s.mgmt.fuses.verify ty (s.mgmt.inStaging ty)).map fun k => (ty, k, w32 (num (s.mgmt.inStaging ty) 8 4))

/-- RECOVER (R443). -/
def State.doRecover (s : State) (e : StartEnv) (a0 : W32) (_ : List Byte) : State × Served :=
  if !s.recovery then (s, fail ST_NOT_IN_MODE)
  else
    let mc := bit a0 0
    match s.verifyStaged (if mc then [1, 2] else [1]) with
    | some (ty, k, v) => (s.reject ty k v, fail ST_REJECTED)
    | none =>
      let s := s.runFirmware (s.mgmt.inStaging 1)
      (if mc then s.finishStart e (s.mgmt.inStaging 2) else s.startMicrocode e, ok [])

/-- Bytes of a staged image. -/
def Mgmt.stagedImage (m : Mgmt) (ty : Nat) : List Byte := run (m.inStaging ty) 0 (256 + num (m.inStaging ty) 12 4)

/-- COMMIT (R444). -/
def State.doCommit (s : State) (flashOk : Bool) (a0 : W32) (_ : List Byte) : State × Served :=
  let tys := (if bit a0 0 then [1] else []) ++ (if bit a0 1 then [2] else [])
  match s.verifyStaged tys with
  | some (ty, k, v) => (s.reject ty k v, fail ST_REJECTED)
  | none =>
    let put (m : Mgmt) (ty : Nat) : Mgmt :=
      if flashOk then
        { m with flash := putCells m.flash (flashAt ty) (m.stagedImage ty), flashBad := m.flashBad.set (slotIx ty) false,
                 committing := m.committing.set (slotIx ty) true }
      else { m with flashBad := m.flashBad.set (slotIx ty) true }
    (s.modMgmt fun m => tys.foldl put m, if flashOk then ok [] else fail ST_FLASH_ERR)

/-- SVN_ADVANCE (R444). -/
def State.doSvn (s : State) (a0 : W32) (_ : List Byte) : State × Served :=
  if a0 = 1 then
    ((s.modMgmt fun m => { m with fuses := { m.fuses with svnFw := burnTo m.fuses.svnFw m.svnFw } }).setSvns, ok [])
  else if a0 = 2 then
    ((s.modMgmt fun m => { m with fuses := { m.fuses with svnMc := burnTo m.fuses.svnMc m.svnMc } }).setSvns, ok [])
  else (s, fail ST_BAD_ARG)

/-- PG_CAPS of the package page (R325, R410). -/
def State.pkgCaps (s : State) : Nat := s.mgmt.fuses.attic.toNat

/-- PKG_INFO (R415). -/
def State.pkgInfo (s : State) : Nat := s.enabledCores.length + s.mgmt.fuses.step.toNat <<< 8

/-- The record of the configuration measurement (R447). -/
def State.cfgRecord (s : State) : List Byte :=
  let en := s.mgmt.fuses.coreEn.toNat
  let vals := [en % 0x1_0000_0000, en >>> 32, s.pkgInfo] ++ (List.range 8).map (fun i => (s.pg .pkg (PKG_CORE_FN i)).toNat) ++
    [s.pkgCaps, (s.pg (.cel 0) CEL_XTS_EN).toNat, (s.pg .sec SEC_STAT).toNat, (s.pg .sec SEC_FW_SVN).toNat, (s.pg .sec SEC_MC_SVN).toNat,
     s.host.numVFs]
  takePad 0 128 (vals.flatMap (toLe 4))

def schedBytes (i : Nat) (x : SchedSlot) : List Byte := toLe 2 i ++ toLe 1 (bn x.ok) ++ toLe 5 0 ++ toLe 8 x.len.toNat ++ takePad 0 64 x.digest

/-- The report of R446 without its signature. -/
def State.reportBody (s : State) (nonce : List Byte) (scheds : Bool) (cfgm : List Byte) : List Byte :=
  let ss := if scheds then (List.finRange 16).filterMap fun i => (s.mgmt.slots[i]).map fun x => schedBytes i.val x else []
  toLe 4 0x5441_424D ++ toLe 2 1 ++ toLe 2 (bn s.recovery + s.mgmt.level <<< 1 + bn scheds <<< 3) ++ toLe 8 s.mgmt.fuses.serial.toNat ++
    toLe 4 s.mgmt.boot ++ s.svnBytes ++ toLe 4 ss.length ++ toLe 36 0 ++ takePad 0 32 nonce ++ toLe 32 0 ++ s.measBytes SEC_FW_MEAS ++
    s.measBytes SEC_MC_MEAS ++ cfgm ++ ss.flatten

/-- The identity private key, and the identity public key that the device certificate names (R445). -/
def Fuses.identityKey (f : Fuses) : List Byte := shake256 57 (f.secret.toList ++ ascii "Feleth MB40 identity")
def Fuses.identityPublic (f : Fuses) : List Byte := edPublic f.identityKey

/-- The certificate chain as its memory holds it: at most 8 KiB (R445). -/
def Fuses.chainBytes (f : Fuses) : List Byte := f.chain.take 8192

/-- ATTEST (R446, R447). -/
def State.doAttest (s : State) (a0 : W32) (d : List Byte) : State × Served :=
  if d.length < 32 then (s, fail ST_BAD_ARG)
  else
    let cfgm := shake256 64 s.cfgRecord
    let body := s.reportBody (d.take 32) (bit a0 0) cfgm
    (s.setMeas SEC_CFG_MEAS cfgm, ok (body ++ edSign 0 (ascii "Feleth MB40 report") s.mgmt.fuses.identityKey body ++ toLe 14 0))

/-- CERT (R445, R451). -/
def State.doCert (s : State) (a0 : W32) (_ : List Byte) : State × Served :=
  let ch := s.mgmt.fuses.chainBytes
  (s, { ok ((ch.drop a0.toNat).take 2048) with ret0 := some (w32 ch.length) })

/-- The slot that arg0[3:0] names. -/
def slotArg (a0 : W32) : Fin 16 := Fin.ofNat 16 (bits a0 0 4)

/-- MEASURE (R448). -/
def State.doMeasure (s : State) (a0 : W32) (d : List Byte) : State × Served :=
  let a := leNat (d.take 8)
  let read (i : Nat) : Byte := s.mem.see (s.keyOf 0) (a + i)
  let len := num read 16 8
  let inMem (n : Nat) : Bool := (s.firstUnmapped 8 a n).isNone && (match s.place a with
    | .attic | .cellar _ => true
    | _ => false)
  if d.length < 8 ∨ a % 64 ≠ 0 ∨ !inMem 256 ∨ !inMem (max 256 len) then (s, fail ST_BAD_ARG)
  else
    let digest := shake256 64 (run read 256 (len - 256))
    ((s.countRead a (max 256 len)).modMgmt fun m =>
      { m with slots := m.slots.set (slotArg a0) (some { ok := digest == run read 64 64, len := BitVec.ofNat 64 len, digest := digest }) },
     ok [])

def State.doUnmeasure (s : State) (a0 : W32) (_ : List Byte) : State × Served :=
  (s.modMgmt fun m => { m with slots := m.slots.set (slotArg a0) none }, ok [])

/-- CEL_KEY (R449): a new key is named by the draw that gave its 512 bits; no register reads a key. -/
def State.doCelKey (s : State) (a0 : W32) (_ : List Byte) : State × Served :=
  let f := slotArg a0
  let zero := bit a0 8
  let s := if zero then s.modMgmt fun m => { m with keys := m.keys.set f none }
    else (s.randomBytes 64).2.modMgmt fun m => { m with keys := m.keys.set f (some (s.free + 1)) }
  ((List.finRange 4).foldl (fun s p => s.setField (.cel p) CEL_XTS_EN f.val 1 (bn !zero)) s, ok [])

/-- Index of the newest record; 0 while the log is empty (log entry 35). -/
def Mgmt.newest (m : Mgmt) : Nat := if m.logNew = 0 ∧ !m.logKeep then 0 else (m.logNext + LOG_RING - 1) % LOG_RING

/-- The record at an index of the ring: one written since the start-up, or, where earlier ones are kept, one whose CRC is valid. -/
def Mgmt.recordAt (m : Mgmt) (i : Nat) : Option (List Byte) :=
  let b := run m.psrByte (LOG_AT + 64 * i) 64
  if LOG_RING ≤ i then none
  else if (m.newest + LOG_RING - i) % LOG_RING < m.logNew ∨ (m.logKeep ∧ crcOk b) then some b else none

/-- LOG: up to 32 records from an index on, as far as they exist (log entry 35). -/
def State.doLog (s : State) (a0 : W32) (_ : List Byte) : State × Served :=
  let m := s.mgmt
  let rs := ((List.range 32).map fun i => m.recordAt ((a0.toNat + i) % LOG_RING)).takeWhile (·.isSome)
  (s, { ok (if LOG_RING ≤ a0.toNat then [] else (rs.map fun r => r.getD []).flatten) with ret0 := some (w32 m.newest) })

/-- DBG_CHALLENGE. -/
def State.doChallenge (s : State) (_ : W32) (_ : List Byte) : State × Served :=
  let (n, s) := s.randomBytes 32
  (s.modMgmt fun m => { m with nonce := some n }, ok n)

def State.setLevel (s : State) (l : Nat) : State := (s.modMgmt fun m => { m with level := l }).setField .sec SEC_STAT 3 2 l

/-- The first failing check of a token (R456); none: accepted. -/
def State.tokenFail (s : State) (d : List Byte) : Option Nat :=
  let read (i : Nat) : Byte := d.getD i 0
  let pub := run read 64 57
  let lvl := num read 4 4
  if num read 0 4 ≠ 0x4B4C_424D ∨ !zeros read 48 16 ∨ !zeros read 121 7 ∨ !zeros read 242 14 then some 1
  else if lvl ≠ 1 ∧ lvl ≠ 2 then some 1
  else if num read 8 8 ≠ s.mgmt.fuses.serial.toNat then some 3
  else if s.mgmt.nonce ≠ some (run read 16 32) then some 4
  else if shake256 32 pub ≠ s.mgmt.fuses.debugHash.toList then some 2
  else if !edVerify 0 (ascii "Feleth MB40 unlock") pub (run read 0 128) (run read 128 114) then some 5
  else none

/-- DBG_UNLOCK (R456). -/
def State.doUnlock (s : State) (_ : W32) (d : List Byte) : State × Served :=
  if d.length ≠ 256 then (s, fail ST_BAD_ARG)
  else
    let r := s.tokenFail d
    let s := s.modMgmt fun m => { m with nonce := none }
    match r with
    | some k => (s.record .sec (mkRec 0x0602 k 0 0 0), fail ST_REJECTED)
    | none => (s.setLevel (leNat ((d.drop 4).take 4)), ok [])

def State.doLock (s : State) (_ : W32) (_ : List Byte) : State × Served := (s.setLevel 0, ok [])

/-! ## Completion of a mailbox command (R450) -/

/-- Ops of R451. -/
def definedOp (op : Nat) : Bool := decide (1 ≤ op ∧ op ≤ 0x0E)

/-- Response bytes enter MBX_DATA from its start. -/
def State.setMbxData (s : State) (d : List Byte) : State :=
  forRange (cdiv d.length 4) (fun i s =>
    let old := toLe 4 (s.pg .mbx (MBX_DATA i)).toNat
    let b := (d.drop (4 * i)).take 4
    s.setPg .mbx (MBX_DATA i) (w32 (leNat (b ++ old.drop b.length)))) s

/-- The running command finishes: an undefined op with BAD_CMD. -/
def State.mbxDone (s : State) : State :=
  match s.mgmt.served.orElse fun _ => if definedOp s.mbxOp then none else some (fail ST_BAD_CMD) with
  | none => s
  | some v =>
    let s := (s.setPg .mbx MBX_STAT (w32 (v.status <<< 8 + v.data.length % 4096 <<< 16))).setMbxData v.data
    let s := match v.ret0 with
      | some r => s.setPg .mbx MBX_RET0 r
      | none => s
    (s.modMgmt fun m => { m with served := none, committing := #v[false, false] }).event .mbx EVT_DONE

/-- MBX_GO.go is written. R450 does not say when the W1S bit clears: the model never stores it, so that it always reads 0; DESIGN CHOICE,
log entry 20. -/
def State.mbxGo (s : State) : State := if s.mbxBusy then s else s.setField .mbx MBX_STAT 0 1 1

/-! ## Log records (R454) -/

/-- A log record. -/
def recordBytes (l : LogSrc) (time : W64) (boot : Nat) (lost : Bool) : List Byte :=
  withCrc (toLe 8 time.toNat ++ toLe 4 boot ++ toLe 4 l.page.toNat ++ toLe 2 l.code.toNat ++ toLe 2 (bn lost + bn l.wdog <<< 1) ++
    l.info.toList.flatMap (fun v => toLe 4 v.toNat) ++ toLe 24 0)

/-- The controller writes the record of the oldest code forwarded to it, and raises an in-band interrupt (R452). -/
def State.writeRecord (s : State) (time : W64) : State :=
  s.modMgmt fun m =>
    match m.logq with
    | [] => m
    | l :: rest =>
      ({ m with logq := rest, lost := false, psr := putCells m.psr (LOG_AT + 64 * m.logNext) (recordBytes l time m.boot m.lost),
                logNext := (m.logNext + 1) % LOG_RING, logNew := min LOG_RING (m.logNew + 1), ibi := m.ibi + 1 } : Mgmt).putHeader

/-! ## Watchdog (R455, R460) -/

/-- A record of the controller's own. -/
def ctlLog (code : W16) (wdog : Bool) : LogSrc := { page := 0xFFFF_FFFF, code := code, info := #v[0, 0, 0, 0], wdog := wdog }

/-- The firmware is no longer verified: recovery mode (R442, R459). -/
def State.fallBack (s : State) : State := ((s.setField .sec SEC_STAT 1 1 0).setField .sec SEC_STAT 2 1 0).recover

/-- The watchdog restarts the controller: the firmware is verified again. A COMMIT under way is cut short; where it was writing the
firmware, the slot is rejected by the next package reset, not by this restart (R460). -/
def State.watchdog (s : State) (fwRead : Bool) : State :=
  let m := s.mgmt
  let cut := m.committing[0] || m.committing[1]
  let s := s.setField .sec SEC_STAT 5 1 1
  let s := s.modMgmt fun m =>
    { m with flashBad := Vector.ofFn fun i => m.flashBad[i] || m.committing[i], committing := #v[false, false],
             served := if cut then some (fail ST_FLASH_ERR) else m.served }
  let s := s.forward (ctlLog 0 true)
  let s := if cut then s.forward (ctlLog (Config.flashErrCode s.free) false) else s
  if m.committing[0] then s
  else
    match s.verifyFlash 1 fwRead with
    | some (k, v) => (s.reject 1 k v).fallBack
    | none => s

/-! ## Pins and straps (R464, R465) -/

/-- Pins that the package drives. -/
inductive Pin where
  | thermtrip | alert
  | celPerst (p : CelId)
  | spiCs
  | psrCs (i : Fin 2)
  | psrReset | i3cSda | i3cScl | avsClk | avsMdata | tdo
  | spiSck
  | spiIo (i : Fin 4)
  | psrCk | psrCkN | psrDs
  | psrIo (i : Fin 8)
  | avsSdata
  | lnkLanes (p : PortId)
  | cxlLanes (p : CelId)
  | pcieLanes
  deriving DecidableEq, Repr

/-- What a pin does: a level, an open drain that is released, high impedance, electrical idle, or what its interface does. -/
inductive Level where
  | low | high | released | highZ | idle | active
  deriving DecidableEq, Repr

/-- A link port drives electrical idle: in reset, while LNK_CTRL.en is 0, in LOST (R351), and once the thermal trip has stopped the
clocks (R393). -/
def State.portIdle (s : State) (p : PortId) : Bool :=
  !s.alive || !bit (s.pg (.lnk p) LNK_CTRL) 0 || s.lnkState p == LNK_LOST

/-- A pin by its function, the TAP apart. With VDD_MGT out of range it does as during reset. The 200 µs for which PSR_RESET_N is driven low
once VDD_MGT reaches its range have no row of their own: it is low from VDD_MGT_UNDERVOLTAGE to the next START_UP. The pins that R464 does
not list do as their interfaces. DESIGN CHOICE, log entry 25. -/
def State.pinLevel (s : State) (p : Pin) : Level :=
  let rst := s.pins.perst || !s.pins.vddMgt
  let down (b : Bool) : Level := if b then .low else .released
  match p with
  | .thermtrip => down s.pins.thermtrip
  | .alert => down s.pins.alert
  | .celPerst i => if s.pins.celPerstHigh[i] then .high else .low
  | .spiCs | .psrCs _ => if rst then .high else .active
  | .psrReset => if s.pins.vddMgt then .high else .low
  | .i3cSda | .i3cScl => if rst then .highZ else .active
  | .avsClk | .avsMdata => if rst then .low else .active
  | .tdo => .highZ
  | .spiSck | .spiIo _ | .psrCk | .psrCkN | .psrDs | .psrIo _ | .avsSdata => .active
  | .lnkLanes i => if s.portIdle i then .idle else .active
  | .cxlLanes _ | .pcieLanes => if rst then .idle else .active

/-- The low two bits of the I3C static address come from STRAP[1:0] (R465). -/
def State.i3cStatic (s : State) : Nat := 0x58 + s.pins.strap.toNat % 4

/-- STRAP[2]: the flash port is in single-lane mode until the boot ROM has read the header (R465). -/
def State.flashSingleLane (s : State) : Bool := s.pins.strap.getLsbD 2 && !s.mgmt.hdrRead

/-! ## The TAP (R457, R458) -/

/-- The pins of the boundary chain, PERST_N and the straps apart, which are inputs: the reset, alert, sideband, I3C, PSRAM, flash and
AVSBus pins of R463. The order of its cells is a DESIGN CHOICE, log entry 25. -/
def chainPins : List Pin :=
  [.thermtrip, .alert, .celPerst 0, .celPerst 1, .celPerst 2, .celPerst 3, .spiCs, .psrCs 0, .psrCs 1, .psrReset, .i3cSda, .i3cScl, .avsClk,
   .avsMdata, .spiSck, .spiIo 0, .spiIo 1, .spiIo 2, .spiIo 3, .psrCk, .psrCkN, .psrDs, .psrIo 0, .psrIo 1, .psrIo 2, .psrIo 3, .psrIo 4,
   .psrIo 5, .psrIo 6, .psrIo 7, .avsSdata]

/-- A pin that EXTEST and CLAMP drive: AVS_SDATA is an input (R463). -/
def drivable (p : Pin) : Bool := p != .avsSdata

/-- A pin at the package's contacts: EXTEST and CLAMP drive the chain's pins from its cells, HIGHZ floats them. They are selected only
while PERST_N is asserted. -/
def State.pinAt (s : State) (p : Pin) : Level :=
  let t := s.mgmt.tap
  match chainPins.findIdx? (· == p), t.ir with
  | some i, .extest | some i, .clamp => if drivable p then (if t.cells.getD i false then .high else .low) else s.pinLevel p
  | some _, .highz => .highZ
  | _, _ => s.pinLevel p

/-- What SAMPLE finds on the pins whose levels the state holds: PERST_N, the straps, and the chain's pins that are not low. -/
def State.sampled (s : State) : List Bool :=
  (!s.pins.perst) :: (List.range 4).map s.pins.strap.getLsbD ++ chainPins.map fun p => s.pinAt p != .low

/-- Level 1 and above open the PSRAM devices, which hold the controller's working memory, to the debug port (R453, R457). -/
def State.debugByte (s : State) (a : Nat) : Option Byte := if s.alive ∧ 1 ≤ s.mgmt.level then some (s.mgmt.psrByte a) else none

/-- IDCODE. -/
def State.idcode (s : State) : W32 :=
  let f := s.mgmt.fuses
  w32 (1 + f.jedec.toNat <<< 1 + 0xB400 <<< 12 + f.step.toNat % 16 <<< 28)

def State.setTap (s : State) (t : Tap) : State := s.modMgmt fun m => { m with tap := t }

/-- BYPASS: the one-bit register, captured as 0. -/
def State.tapBypass (s : State) : State := s.setTap { s.mgmt.tap with ir := .bypass, dr := [false] }

/-- An instruction that acts only while PERST_N is asserted. -/
def State.tapPin (s : State) (ir : TapIr) (dr : List Bool) : State :=
  if s.pins.perst then s.setTap { s.mgmt.tap with ir := ir, dr := dr } else s.tapBypass

/-! ## The commands -/

/-- INFO. -/
def execInfo (r : MgtReq) (s : State) : Host.Outcome State Fault Refusal := .next (s.serve r OP_INFO State.doInfo)
/-- STAGE. -/
def execStage (r : MgtReq) (s : State) : Host.Outcome State Fault Refusal := .next (s.serve r OP_STAGE State.doStage)
/-- RECOVER (R443). -/
def execRecover (r : MgtReq) (e : StartEnv) (s : State) : Host.Outcome State Fault Refusal :=
  .next (s.serve r OP_RECOVER fun s a d => s.doRecover e a d)
/-- COMMIT (R444). -/
def execCommit (r : MgtReq) (flashOk : Bool) (s : State) : Host.Outcome State Fault Refusal :=
  .next (s.serve r OP_COMMIT fun s a d => s.doCommit flashOk a d)
/-- SVN_ADVANCE (R444). -/
def execSvnAdvance (r : MgtReq) (s : State) : Host.Outcome State Fault Refusal := .next (s.serve r OP_SVN State.doSvn)
/-- ATTEST (R446, R447). -/
def execAttest (r : MgtReq) (s : State) : Host.Outcome State Fault Refusal := .next (s.serve r OP_ATTEST State.doAttest)
/-- CERT (R445). -/
def execCert (r : MgtReq) (s : State) : Host.Outcome State Fault Refusal := .next (s.serve r OP_CERT State.doCert)
/-- MEASURE (R448). -/
def execMeasure (r : MgtReq) (s : State) : Host.Outcome State Fault Refusal := .next (s.serve r OP_MEASURE State.doMeasure)
/-- UNMEASURE (R448). -/
def execUnmeasure (r : MgtReq) (s : State) : Host.Outcome State Fault Refusal := .next (s.serve r OP_UNMEASURE State.doUnmeasure)
/-- CEL_KEY (R449). -/
def execCelKey (r : MgtReq) (s : State) : Host.Outcome State Fault Refusal := .next (s.serve r OP_CELKEY State.doCelKey)
/-- LOG (R453). -/
def execLog (r : MgtReq) (s : State) : Host.Outcome State Fault Refusal := .next (s.serve r OP_LOG State.doLog)
/-- DBG_CHALLENGE (R456). -/
def execDbgChallenge (r : MgtReq) (s : State) : Host.Outcome State Fault Refusal := .next (s.serve r OP_CHALLENGE State.doChallenge)
/-- DBG_UNLOCK (R456). -/
def execDbgUnlock (r : MgtReq) (s : State) : Host.Outcome State Fault Refusal := .next (s.serve r OP_UNLOCK State.doUnlock)
/-- DBG_LOCK (R457). -/
def execDbgLock (r : MgtReq) (s : State) : Host.Outcome State Fault Refusal := .next (s.serve r OP_LOCK State.doLock)

/-- MAILBOX_COMMAND_COMPLETE (R450). -/
def execMailboxCommandComplete (s : State) : Host.Outcome State Fault Refusal :=
  .next (if s.serves && s.mbxBusy then s.mbxDone else s)

/-- An answer to an MCTP control command over I3C. -/
def State.answerI3c (s : State) (v : Served) : State := if s.serves then s.modMgmt fun m => { m with i3c := some v } else s

/-- TELEMETRY: PWR_STAT and every PWR_ISLc (R452). -/
def execTelemetry (s : State) : Host.Outcome State Fault Refusal :=
  .next (if s.serves then s.answer7e (ok (toLe 4 s.pwrStat.toNat ++ (List.finRange 64).flatMap fun c => toLe 4 (s.pwrIsl c).toNat)) else s)

/-- SET_ENDPOINT_ID; PRESUMED (DMTF DSP0236): 0x00 and 0xFF are no endpoint IDs, log entry 35. -/
def execSetEndpointId (eid : Byte) (s : State) : Host.Outcome State Fault Refusal :=
  .next (if s.serves && eid != 0 && eid != 0xFF then (s.modMgmt fun m => { m with eid := eid }).answerI3c (ok [eid]) else s)

/-- GET_ENDPOINT_ID. -/
def execGetEndpointId (s : State) : Host.Outcome State Fault Refusal := .next (s.answerI3c (ok [s.mgmt.eid]))

/-- GET_MCTP_VERSION_SUPPORT. -/
def execGetMctpVersionSupport (msgType : Byte) (s : State) : Host.Outcome State Fault Refusal :=
  .next (s.answerI3c (ok (Config.mctpVersions msgType)))

/-- GET_MESSAGE_TYPE_SUPPORT: one type, 0x7E (R452). -/
def execGetMessageTypeSupport (s : State) : Host.Outcome State Fault Refusal := .next (s.answerI3c (ok [1, 0x7E]))

/-- LOG_RECORD (R454). -/
def execLogRecord (time : W64) (s : State) : Host.Outcome State Fault Refusal := .next (if s.serves then s.writeRecord time else s)

/-- WATCHDOG_RESTART (R455). -/
def execWatchdogRestart (fwRead : Bool) (s : State) : Host.Outcome State Fault Refusal :=
  .next (if s.serves then s.watchdog fwRead else s)

/-- The TAP is powered with VDD_MGT. -/
def State.tapAct (s : State) (t : State) : Host.Outcome State Fault Refusal := .next (if s.pins.vddMgt then t else s)

/-- BYPASS (R458). -/
def execBypass (s : State) : Host.Outcome State Fault Refusal := s.tapAct s.tapBypass
/-- IDCODE (R458). -/
def execIdcode (s : State) : Host.Outcome State Fault Refusal :=
  s.tapAct (s.setTap { s.mgmt.tap with ir := .idcode, dr := (List.range 32).map fun i => bit s.idcode i })
/-- SAMPLE/PRELOAD (R458): the pins are sampled, `ins` those that the state does not hold; the cells are preloaded. -/
def execSamplePreload (ins preload : List Bool) (s : State) : Host.Outcome State Fault Refusal :=
  s.tapAct (s.setTap { ir := .sample, dr := s.sampled ++ ins, cells := preload })
/-- EXTEST (R458): the boundary pins are driven from the cells. -/
def execExtest (s : State) : Host.Outcome State Fault Refusal := s.tapAct (s.tapPin .extest s.mgmt.tap.cells)
/-- CLAMP (R458): the cells hold the outputs, the bypass register is selected. -/
def execClamp (s : State) : Host.Outcome State Fault Refusal := s.tapAct (s.tapPin .clamp [false])
/-- HIGHZ (R458): the outputs float, the bypass register is selected. -/
def execHighz (s : State) : Host.Outcome State Fault Refusal := s.tapAct (s.tapPin .highz [false])

/-- PRIVATE_TAP_INSTRUCTION: BYPASS below level 2; at level 2 the spec gives it no effect (R457, R458). -/
def execPrivateTapInstruction (op : Byte) (s : State) : Host.Outcome State Fault Refusal :=
  if s.mgmt.level = 2 then .refused (.privateTap op) else s.tapAct s.tapBypass

/-- TRST_N_ASSERTION: the TAP returns to its reset state (R458, R464). -/
def execTrstNAssertion (s : State) : Host.Outcome State Fault Refusal := s.tapAct (s.setTap Tap.reset)

/-- PACKAGE_RESET (R432). -/
def execPackageReset (s : State) : Host.Outcome State Fault Refusal := .next s.packageReset

/-- VDD_MGT_UNDERVOLTAGE (R473). -/
def execVddMgtUndervoltage (s : State) : Host.Outcome State Fault Refusal := .next s.undervoltage

/-- START_UP: PERST_N deasserts (R435). -/
def execStartUp (e : StartEnv) (s : State) : Host.Outcome State Fault Refusal :=
  .next (if s.pins.perst && e.wf then s.startUp e else s)

/-- STOREROOM_INIT_DONE (R272). -/
def execStoreroomInitDone (c : CoreId) (s : State) : Host.Outcome State Fault Refusal :=
  .next (if s.alive && s.enabled c && s.pg (.sto c) STO_INIT == 0 then s.stoInit c else s)

end Sys2Proof.Machine
end

