-- ==== Sys2Proof/Machine/Regs.lean ====
section
/-! DEFINITION. Register reads and writes through BAR0 (16 R403, R410 to R416; the register tables of each chapter).

`shown` is what a read returns; `readReg` reads with its side effects; `writeReg` writes one 32-bit register. The rows of the table
that name one register with a behaviour of its own call the same operations. -/

namespace Sys2Proof.Machine
open Sys2Proof

/-! ## What registers show -/

/-- PG_CAPS (R410). -/
def State.pgCaps (s : State) (p : Page) : W32 :=
  match p with
  | .pkg => w32 s.pkgCaps
  | _ => match p.core? with
    | some c => w32 (c.val <<< 26)
    | none => 0

/-- PG_CTRL (R410, R412). -/
def State.pgCtrl (s : State) (p : Page) : W32 :=
  let en := bits (s.pg p PG_CTRL) 0 1
  match p with
  | .ctx c x => w32 (en + bn (s.ctx c x).resetting <<< 1 + bn (s.ctx c x).frz <<< 2)
  | .seq c => w32 (en + bn (s.core c).resetting <<< 1)
  | _ => w32 en

/-- A register of the header. -/
def State.headerShown (s : State) (p : Page) (o : Nat) : W32 :=
  if o = PG_ID then w32 (1 + p.inst <<< 8 + p.type <<< 16)
  else if o = PG_CAPS then s.pgCaps p
  else if o = PG_CTRL then s.pgCtrl p
  else if o = PG_STAT then s.pgStat p
  else if o = PG_EVT then s.evt p
  else if o = PG_ERR_INFO0 then s.errInfo p 0
  else if o = PG_ERR_INFO0 + 4 then s.errInfo p 1
  else if o = PG_ERR_INFO0 + 8 then s.errInfo p 2
  else if o = PG_ERR_INFO0 + 12 then s.errInfo p 3
  else s.pg p o

/-- DMA_QSTATq (R344). -/
def State.qStat (s : State) (c : CoreId) (q : QId) : W32 :=
  let k := s.core c
  w32 (k.tagsOf q + (k.dmaq[q]).queue.length <<< 10 + bn (k.dmaq[q]).halted <<< 15)

/-- SYNC_WTABc_W, N, V and T (R320). DESIGN CHOICE, unsafe (log 29): pos of a wait on a line, which has no word's queue, is its place
among the core's waits on that line. -/
def State.wtab (s : State) (c : CoreId) (x : CtxId) (f : Nat) : W32 :=
  match (s.core c).waitOf x with
  | none => if f = 3 then 0xFFFF_FFFF else 0
  | some w =>
    let isLine := w.kind == .barrier || w.kind == .rerun
    let mates := (s.core c).waits.filter fun v => if isLine then v.onLine w.line else v.onWord w.word
    let pos := (mates.findIdx? fun v => v.ctx == x).getD 0
    match f with
    | 0 => w32 ((if isLine then w.line.val else w.word) + w.kind.code <<< 24 + pos <<< 27 + bn ((s.ctx c x).run == .frozen) <<< 29)
    | 1 => w32 (if isLine then 0 else w.n)
    | 2 => w32 ((if isLine then 0 else w.vid.toNat) + w.tclass.val <<< 8)
    | _ => w32 (w.remain.getD 0xFFFF_FFFF)

/-- The update of monitor n in this ac, if an OPT has made one. -/
def Core.monNew (k : Core) (n : Nat) : Option MonOld := k.monAc.find? fun e => e.n == n

/-- USQ, WSQ, RATIO or STAT of a monitor before any OPT of this ac. -/
def State.monOld (s : State) (c : CoreId) (n f : Nat) : W32 :=
  match (s.core c).monNew n with
  | some o => if f = 0 then o.usq else if f = 1 then o.wsq else if f = 2 then o.ratio else o.stat
  | none => s.pg (.fu c) (FU_MON_USQ n + 4 * f)

/-- A monitor's USQ, WSQ or RATIO: the values latched by the latest read of its STAT, else the live ones (R241). In the ac of an OPT
on the monitor a latch counts only if it has come since the OPT before, and the old values stand in for the live ones (R244). -/
def State.monShown (s : State) (c : CoreId) (n f : Nat) : W32 :=
  match (s.core c).monLatch.find? fun e => e.n == n with
  | some l =>
    if ((s.core c).monNew n).all (·.latched) then (if f = 0 then l.usq else if f = 1 then l.wsq else l.ratio) else s.monOld c n f
  | none => s.monOld c n f

/-- A block-specific register. -/
def State.blockShown (s : State) (p : Page) (o : Nat) : W32 :=
  match p with
  | .pkg =>
    let en := s.mgmt.fuses.coreEn.toNat
    if o = PKG_CORE_EN_LO then w32 en else if o = PKG_CORE_EN_LO + 4 then w32 (en >>> 32) else if o = PKG_INFO then w32 s.pkgInfo else s.pg p o
  | .ctx c x =>
    if o = CTX_STATE then s.ctxState c x
    else if o = CTX_SAVECTL then (match (s.ctx c x).saveOp with
      | .none => 0
      | .save => 1
      | .restore _ => 2)
    else s.pg p o
  | .fu c =>
    if inRun o 0x400 4 256 then
      let n := (o - 0x400) / 16
      let f := (o - 0x400) / 4 % 4
      if f = 3 then s.monOld c n f else s.monShown c n f
    else s.pg p o
  | .sto c =>
    if inRun o 0x220 4 8 then s.qStat c (Fin.ofNat 8 ((o - 0x220) / 4))
    else if o = DMA_INFLIGHT then w32 (s.core c).txns.length else s.pg p o
  | .sync c =>
    if inRun o 0x140 4 16 then s.wtab c (Fin.ofNat 4 ((o - 0x140) / 16)) ((o - 0x140) / 4 % 4)
    else if o = SYNC_HOST_SIG then 0 else s.pg p o
  | .pwr =>
    if o = PWR_STAT then s.pwrStat else if inRun o 0x400 4 64 then s.pwrIsl (Fin.ofNat 64 ((o - 0x400) / 4)) else s.pg p o
  | .sec =>
    let n := s.mgmt.fuses.serial.toNat
    if o = SEC_SERIAL_LO then w32 n else if o = SEC_SERIAL_HI then w32 (n >>> 32) else s.pg p o
  | _ => s.pg p o

/-- What a read of a register returns, the latch of R13 apart. -/
def State.shown (s : State) (p : Page) (o : Nat) : W32 := if o < 0x100 then s.headerShown p o else s.blockShown p o

/-! ## Who may read and write (R403) -/

/-- The pages of a core that a function reaches. -/
def State.ownsPage (s : State) (f : FnId) (p : Page) : Bool :=
  match p.core? with
  | some c => s.owner c == f.val
  | none => false

def State.mayRead (s : State) (f : FnId) (p : Page) (o : Nat) : Bool :=
  f == 0 || s.ownsPage f p ||
    (match p with
     | .pkg => decide (0x100 ≤ o ∧ o ≤ 0x10C) || inRun o 0x140 4 8
     | .lnk _ => inRun o 0x400 4 256 && bits (s.pg p (HT_CFG ((o - 0x400) / 16))) 4 4 == f.val
     | _ => false)

def State.mayWrite (s : State) (f : FnId) (p : Page) : Bool := f == 0 || s.ownsPage f p

/-! ## Reads (R13, R411, R241, R288) -/

/-- The low half of a 64-bit quantity: a counter, or a register named _LO. -/
def lowHalf (p : Page) (o : Nat) : Bool :=
  inRun o 0x40 8 24 ||
    (match p with
     | .pkg => o == 0x100 || inRun o 0x200 8 32 || inRun o 0x400 8 128
     | .ctx _ _ => o == CTX_BASE_LO
     | .sync _ => o == SYNC_PEERS_LO || o == SYNC_DBG_LO
     | .lnk _ => o == LNK_CTL_HIDS_LO || o == LNK_PULL_DST_LO || inRun o 0x400 16 64
     | .pwr => o == PWR_FORCE_MASK_LO || o == PWR_PT_BASE_LO || o == PWR_POOL_BASE_LO
     | .sec => o == SEC_SERIAL_LO
     | _ => false)

/-- What a read does besides returning a value. -/
def State.readEffect (s : State) (p : Page) (o : Nat) : State :=
  if o = PG_ERR_CODE then
    let v := #v[s.pg p PG_ERR_INFO0, s.pg p (PG_ERR_INFO0 + 4), s.pg p (PG_ERR_INFO0 + 8), s.pg p (PG_ERR_INFO0 + 12)]
    { s with info := (p.base, v) :: s.info.filter fun e => e.1 != p.base }.setPg p PG_ERR_CODE 0
  else
    match p with
    | .sto _ => if o = STO_CE_ADDR then s.setPg p STO_CE_ADDR 0 else s
    | .fu c =>
      if inRun o 0x40C 16 64 then
        let n := (o - 0x40C) / 16
        let l : MonLatch := { n := n, usq := s.monOld c n 0, wsq := s.monOld c n 1, ratio := s.monOld c n 2, fresh := ((s.core c).monNew n).isNone }
        s.modCore c fun k => { k with monLatch := l :: k.monLatch.filter fun e => e.n != n
                                      monAc := k.monAc.map fun o => if o.n = n then { o with latched := true } else o }
      else s
    | _ => s

/-- A 32-bit read of BAR0 by a function: the value, and the state after it. -/
def State.readReg (s : State) (f : FnId) (off : Nat) : State × W32 :=
  if s.recovery ∧ 0x2_0000 ≤ off ∧ off < 0x4_0000 then (s, 0)
  else if 0x2_0000 ≤ off ∧ off < 0x2_0800 then (s, s.msixWord f.val ((off - 0x2_0000) / 16) (off / 4 % 4))
  else if 0x3_0000 ≤ off ∧ off < 0x3_0010 then
    (s, w32 ((List.range 32).foldl (fun n i => n + bn (s.host.pba.contains (128 * f.val + 8 * (off - 0x3_0000) + i)) <<< i) 0))
  else
    match pageAt off with
    | none => (s, 0)
    | some (p, o) =>
      if !s.pageThere p || !s.mayRead f p o then (s, 0)
      else
        match s.high.find? fun e => e.1 == off with
        | some (_, v) => ({ s with high := s.high.filter fun e => e.1 != off }, v)
        | none =>
          let t := s.readEffect p o
          (if lowHalf p o then { t with high := (off + 4, s.shown p (o + 4)) :: t.high.filter fun e => e.1 != off + 4 } else t, s.shown p o)

/-- A BAR0 read of `size` bytes, completed to the host: 4 aligned to 4, or 8 aligned to 8 as two, lower offset first; others with
Unsupported Request (R13, R400). -/
def State.readBar0 (s : State) (f : FnId) (off size : Nat) : State :=
  if size = 4 ∧ off % 4 = 0 then
    let (t, v) := s.readReg f off
    t.reply (dataCpl (toLe 4 v.toNat))
  else if size = 8 ∧ off % 8 = 0 then
    let (t, v) := s.readReg f off
    let (t, u) := t.readReg f (off + 4)
    t.reply (dataCpl (toLe 4 v.toNat ++ toLe 4 u.toNat))
  else s.reply urCpl

/-! ## Writes -/

/-- The RW bits of a register take the value written (R14, R15). -/
def State.writeRw (s : State) (p : Page) (o : Nat) (v : W32) : State :=
  let m := rwMask p o
  s.setPg p o ((s.pg p o &&& ~~~m) ||| (v &&& m))

/-- PG_EVT: bits written 1 clear; a request that is still high sends its message again (R409, R411). -/
def State.clearEvt (s : State) (p : Page) (v : W32) : State :=
  let s := s.setPg p PG_EVT_RAW (s.pg p PG_EVT_RAW &&& ~~~v)
  if s.sourceHigh p.source then s.deliver p.source else s

/-- PG_CNT_CTRL.clr: every counter of the page becomes zero (R413). -/
def State.clearCounters (s : State) (p : Page) : State := forRange 24 (fun i s => s.setPg64 p (PG_CNT i) 0) s

/-- PG_CTRL: en, then on a context page freeze and srst, on a sequencer page srst (R410, R412). -/
def State.writeCtrl (s : State) (p : Page) (v : W32) : State :=
  let s := s.rise (s.setField p PG_CTRL 0 1 (bits v 0 1)) p.source
  match p with
  | .ctx c x =>
    let s := s.setFreeze c x (bit v 2)
    if bit v 1 then s.resetCtx c x else s
  | .seq c => if bit v 1 then s.resetCore c else s
  | _ => s

/-- DENSE_FALLBACK, the counter that software may write (R151, against the RO of R410: log entry 37). -/
def denseFallback (p : Page) (o : Nat) : Bool :=
  match p with
  | .se _ => o == PG_CNT 1 || o == PG_CNT 1 + 4
  | _ => false

/-- A register of the header is written. -/
def State.writeHeader (s : State) (p : Page) (o : Nat) (v : W32) : State :=
  if o = PG_CTRL then s.writeCtrl p v
  else if o = PG_EVT_EN then s.rise (s.writeRw p o v) p.source
  else if o = PG_EVT then s.clearEvt p v
  else if o = PG_CNT_CTRL then
    let s := s.writeRw p o v
    if bit v 1 then s.clearCounters p else s
  else if denseFallback p o then s.setPg p o v
  else s

/-- Every context of a core is HALTED or FAULTED (R402). -/
def State.quiet (s : State) (c : CoreId) : Bool := (s.core c).ctxs.toList.all fun t => t.run == .halted || t.run == .faulted

/-- PKG_CORE_FNi: each nibble whose core is quiet (R402). -/
def State.writeCoreFn (s : State) (i : Nat) (v : W32) : State :=
  forRange 8 (fun j s => if s.quiet (Fin.ofNat 64 (8 * i + j)) then s.setField .pkg (PKG_CORE_FN i) (4 * j) 4 (bits v (4 * j) 4) else s) s

/-- A context page: stream registers and map only in HALTED or FAULTED (R179, R294), priv only by function 0 (R403). -/
def State.writeCtx (s : State) (f : FnId) (c : CoreId) (x : CtxId) (o : Nat) (v : W32) : State :=
  let p : Page := .ctx c x
  let stopped := (s.ctx c x).run == .halted || (s.ctx c x).run == .faulted
  if o = CTX_CFG then
    let s := s.setField p CTX_CFG 0 2 (bits v 0 2)
    if f = 0 then s.setField p CTX_CFG 2 1 (bits v 2 1) else s
  else if o = CTX_PC ∨ o = CTX_BASE_LO ∨ o = CTX_BASE_HI ∨ o = CTX_LEN ∨ inRun o 0x400 4 256 then (if stopped then s.writeRw p o v else s)
  else if o = CTX_SAVECTL then
    (if bit v 0 then s.startSave c x .save else if bit v 1 then s.startSave c x (.restore (f == 0)) else s)
  else s.writeRw p o v

/-- A block-specific register is written. -/
def State.writeBlock (s : State) (f : FnId) (p : Page) (o : Nat) (v : W32) : State :=
  match p with
  | .pkg =>
    if inRun o 0x140 4 8 then s.writeCoreFn ((o - 0x140) / 4) v
    else if inRun o 0x200 4 32 then
      let en := s.mgmt.fuses.coreEn.toNat
      s.setPg p o (v &&& w32 (if o % 8 = 0 then en else en >>> 32))
    else s.writeRw p o v
  | .mbx => if s.mbxBusy then s else if o = MBX_GO then (if bit v 0 then s.mbxGo else s) else s.writeRw p o v
  | .ctx c x => s.writeCtx f c x o v
  | .eg _ _ | .se _ => if o = SLOT_SAT then s.setPg p o (s.pg p o &&& ~~~v) else s.writeRw p o v
  | .sto c => if inRun o 0x220 4 8 then (if bit v 15 then s.resumeQueue c (Fin.ofNat 8 ((o - 0x220) / 4)) else s) else s.writeRw p o v
  | .sync c =>
    if o = SYNC_DBG_ADDR then s.dbgLatch c v
    else if o = SYNC_HOST_SIG then s.hostSignal c v
    else if o = SYNC_PEERS_LO ∨ o = SYNC_PEERS_HI then (if f = 0 then s.writeRw p o v else s)
    else s.writeRw p o v
  | .lnk i =>
    if o = LNK_CTRL then s.writeLnkCtrl i v
    else if o = LNK_PULL_GO then (if bit v 0 then s.pullGo i else s)
    else s.writeRw p o v
  | .pwr => if o = PWR_PT_CTL then (if bit v 0 then s.setField .pwr PWR_PT_CTL 0 1 1 else s) else s.writeRw p o v
  | _ => s.writeRw p o v

/-- Pending vectors that are no longer masked are sent (MSI-X). -/
def State.flushPending (s : State) (f : FnId) : State :=
  forRange 128 (fun v s => if s.host.pba.contains (128 * f.val + v) then s.sendVector f v else s) s

/-- A word of the MSI-X table is written; bits [31:1] of a vector's control word are reserved (PRESUMED, log entry 15). -/
def State.writeMsix (s : State) (f : FnId) (k : Nat) (v : W32) : State :=
  (s.modHost fun h => { h with msix := smSet msixReset h.msix (512 * f.val + k) (if k % 4 = 3 then v &&& 1 else v) }).flushPending f

/-- A 32-bit write to BAR0 by a function. -/
def State.writeReg (s : State) (f : FnId) (off : Nat) (v : W32) : State :=
  if 0x2_0000 ≤ off ∧ off < 0x2_0800 then if s.recovery then s else s.writeMsix f ((off - 0x2_0000) / 4) v
  else
    match pageAt off with
    | none => s
    | some (p, o) =>
      if !s.pageThere p || !s.mayWrite f p then s else if o < 0x100 then s.writeHeader p o v else s.writeBlock f p o v

/-- A BAR0 write of `size` bytes: 4 aligned to 4, or 8 aligned to 8 as two, lower offset first; others are dropped (R13, R400). -/
def State.writeBar0 (s : State) (f : FnId) (off size : Nat) (v : W64) : State :=
  if size = 4 ∧ off % 4 = 0 then s.writeReg f off (v.setWidth 32)
  else if size = 8 ∧ off % 8 = 0 then (s.writeReg f off (v.setWidth 32)).writeReg f (off + 4) ((v >>> 32).setWidth 32)
  else s

/-! ## The commands -/

/-- REGISTER_WRITE. -/
def execRegisterWrite (fn : FnId) (off : BitVec 26) (size : Nat) (value : W64) (s : State) : Host.Outcome State Fault Refusal :=
  s.hostAct fn (s.writeBar0 fn off.toNat size value)

/-- PG_EVT_CLEAR (R409, R411). -/
def execPgEvtClear (fn : FnId) (p : Page) (bits : W32) (s : State) : Host.Outcome State Fault Refusal :=
  s.hostAct fn (s.writeReg fn (p.base + PG_EVT) bits)

/-- COUNTER_CLEAR (R413): a write of PG_CNT_CTRL with clr and the run bit as it stands. -/
def execCounterClear (fn : FnId) (p : Page) (s : State) : Host.Outcome State Fault Refusal :=
  s.hostAct fn (s.writeReg fn (p.base + PG_CNT_CTRL) (s.pg p PG_CNT_CTRL ||| 2))

/-- PG_ERR_CODE_READ (R411). -/
def execPgErrCodeRead (fn : FnId) (p : Page) (s : State) : Host.Outcome State Fault Refusal :=
  s.hostAct fn (s.readBar0 fn (p.base + PG_ERR_CODE) 4)

/-- HIGH_HALF_LATCH_READ (R13): a read of the register at an offset; of a low half it latches the high half, and the next read of
the high half returns that. -/
def execHighHalfLatchRead (fn : FnId) (off : BitVec 26) (size : Nat) (s : State) : Host.Outcome State Fault Refusal :=
  s.hostAct fn (s.readBar0 fn off.toNat size)

/-- FU_MON_STAT_READ (R241). -/
def execFuMonStatRead (fn : FnId) (c : CoreId) (n : Fin 64) (s : State) : Host.Outcome State Fault Refusal :=
  s.hostAct fn (s.readBar0 fn ((Page.fu c).base + FU_MON_STAT n.val) 4)

/-- STO_CE_ADDR_READ (R280, R288). -/
def execStoCeAddrRead (fn : FnId) (c : CoreId) (s : State) : Host.Outcome State Fault Refusal :=
  s.hostAct fn (s.readBar0 fn ((Page.sto c).base + STO_CE_ADDR) 4)

end Sys2Proof.Machine
end

