-- ==== Sys2Proof/Machine/HostPort.lean ====
section
/-! DEFINITION. The host port besides BAR0: BAR2, configuration requests, the link (16 R398 to R406). -/

namespace Sys2Proof.Machine
open Sys2Proof

/-! ## BAR2 (R400, R405, R406, R271) -/

/-- log2 of the size of a function's BAR2 in GiB. -/
def State.bar2Log (s : State) (f : FnId) : Nat := if f = 0 then s.host.bar2 else s.host.vfBar2

/-- Size of a function's BAR2. -/
def State.bar2Bytes (s : State) (f : FnId) : Nat := 0x4000_0000 <<< s.bar2Log f

/-- Package address of a BAR2 offset; none: the byte is not reached (R406). -/
def State.bar2Map (s : State) (f : FnId) (off : Nat) : Option Nat :=
  let seg := s.bar2Bytes f / 8
  let w := PKG_B2W f.val (off / seg % 8)
  if bit (s.pg .pkg (w + 4)) 0 then
    let a := 0x1_0000 * (s.pg .pkg w).toNat + off % seg
    match s.place a with
    | .attic | .cellar _ => some a
    | .sto c => if s.owner c = f.val then some a else none
    | _ => none
  else none

/-- The bytes that are enabled and reached, as runs of consecutive package addresses. -/
def bar2Runs (m : Nat → Option Nat) : Nat → List (Option Byte) → List (Nat × List Byte)
  | _, [] => []
  | off, b :: r =>
    match b.bind fun b => (m off).map (·, b), bar2Runs m (off + 1) r with
    | some (a, b), (a', l) :: t => if a' = a + 1 then (a, b :: l) :: t else (a, [b]) :: (a', l) :: t
    | some (a, b), [] => [(a, [b])]
    | none, t => t

/-- Cellar lines, package address div 64, of some package addresses. -/
def State.hostLines (s : State) (as : List Nat) : List Nat := ((as.filter fun a => (s.celPort a).isSome).map (· / 64)).eraseDups

/-- Lines of a host access whose request gets no response in time; with CEL_TIMEOUT 0 none times out (R333). -/
def State.hostLate (s : State) (dev : DevAns) (as : List Nat) : List Nat :=
  (s.hostLines as).filter fun l => dev.late.contains l && (match s.celPort (64 * l) with
    | some p => bits (s.pg (.cel p) CEL_TIMEOUT) 0 16 != 0
    | none => false)

/-- The requester index of the host (R340). -/
def HOST_REQ := 80

/-- CELLAR_TIMEOUT of a request of the host. -/
def State.hostTmo (s : State) (wr : Bool) (l : Nat) : State :=
  match s.celPort (64 * l) with
  | some p => s.recordTmo p HOST_REQ 0 wr false l
  | none => s

/-- Lines that the devices return poisoned to a host access are poisoned there. -/
def State.hostPoison (s : State) (dev : DevAns) (as : List Nat) : State := s.poisonLines ((s.hostLines as).filter dev.poison.contains)

/-- The completion of a part of a BAR2 read: EP where it carries a poisoned word; a part with a request that timed out carries poison
throughout, its data free values (R333, R400, log entry 30). -/
def State.bar2Cpl (s : State) (key : Nat) (late as : List Nat) : Cpl :=
  let lost := as.any fun a => late.contains (a / 64)
  { ur := false, crs := false, ep := lost || as.any fun a => s.mem.poisonAt (a / 8),
    data := as.map fun a => if lost then Config.unmappedByte a else s.mem.see key a }

/-- A BAR2 read: any byte that is not reached completes it with Unsupported Request; else it is answered in completions that end at
each multiple of 512 bytes (R398, log entry 15). -/
def State.bar2Read (s : State) (f : FnId) (off len : Nat) (dev : DevAns) : State :=
  let as := (List.range len).map fun i => s.bar2Map f (off + i)
  if as.any (·.isNone) then s.reply urCpl
  else if len = 0 then s.reply (dataCpl [])
  else
    let as := as.filterMap id
    let late := s.hostLate dev as
    let s := s.hostPoison dev as
    let t := (bar2Runs (s.bar2Map f) off (List.replicate len (some 0))).foldl (fun (s : State) r =>
      (s.countRun r.1 r.2.length 0).carrySpan hostBay r.1 r.2.length true) s
    let t := ((s.hostLines as).filter fun l => !late.contains l).foldl (fun (s : State) l => s.countPoison (64 * l) 1) t
    (late.foldl (fun s l => s.hostTmo false l) t).replyAll
      ((splitAtBounds 512 len off as).map fun e => s.bar2Cpl (s.keyOf f.val) late e.2)

/-- A run of a BAR2 write that lies in one 2 KiB granule, and in the cellar in one line. -/
def State.bar2Put (s : State) (key : Nat) (late : List Nat) (a : Nat) (l : List (Byte × Bool)) : State :=
  let s := s.carryTo hostBay a false
  if late.contains (a / 64) then (s.lateWrite [a / 64] key a l).hostTmo true (a / 64) else (s.touchAt a).pkgWrite key a l

/-- A BAR2 write; with EP every word it touches is poisoned (R400). -/
def State.bar2Write (s : State) (f : FnId) (off : Nat) (data : List (Option Byte)) (ep : Bool) (dev : DevAns) : State :=
  let runs := bar2Runs (s.bar2Map f) off data
  let as := runs.flatMap fun r => (List.range r.2.length).map (r.1 + ·)
  let late := s.hostLate dev as
  runs.foldl (fun s r =>
    (splitAtBounds (if inCellar r.1 then 64 else 2048) r.2.length r.1 r.2).foldl (fun (s : State) e =>
      s.bar2Put (s.keyOf f.val) late e.1 (e.2.map fun b => (b, ep))) s) (s.hostPoison dev as)

/-! ## Configuration (R398, R401, R405); the layouts that PCIe gives are PRESUMED, log entry 15 -/

/-- Sizes of the BARs of a function, and the type bits of each (64-bit; BAR2 prefetchable). -/
def State.barSize (s : State) (f : FnId) (i : Fin 3) : Nat := if i = 0 then 0x400_0000 else if i = 1 then s.bar2Bytes f else 0x10_0000
def barType (i : Fin 3) : W64 := if i = 1 then 0xC else 0x4

/-- What a configuration read returns. -/
def State.cfgRead (s : State) (f : FnId) (r : CfgReg) : List Byte :=
  let fn := s.host.fns[f]
  match r with
  | .numVFs => toLe 4 s.host.numVFs
  | .vfEnable => toLe 4 (bn s.host.vfEn)
  | .bar i => toLe 8 (fn.bars[i] ||| barType i).toNat
  | .bar2Size => toLe 4 s.host.bar2
  | .vfBar2Size => toLe 4 s.host.vfBar2
  | .power => toLe 4 (if fn.d3 then 3 else 0)
  | .msixControl => toLe 4 (127 + bn fn.msixMask <<< 14 + bn fn.msixEn <<< 15)
  | .serialLo => toLe 4 (s.mgmt.fuses.serial.toNat % 0x1_0000_0000)
  | .serialHi => toLe 4 (s.mgmt.fuses.serial.toNat >>> 32)
  | .other off => toLe 4 (Config.cfgOther f.val off.toNat).toNat

/-- What a configuration write does. -/
def State.cfgWrite (s : State) (f : FnId) (r : CfgReg) (v : W64) : State :=
  let put (g : Fn → Fn) : State := s.modHost fun h => { h with fns := vmod h.fns f g }
  match r with
  | .numVFs => if f = 0 ∧ !s.host.vfEn ∧ v.toNat ≤ 15 then s.modHost fun h => { h with numVFs := v.toNat } else s
  | .vfEnable => if f = 0 then s.setVfEn (v.getLsbD 0) else s
  | .bar i => put fun t => { t with bars := t.bars.set i (BitVec.ofNat 64 (v.toNat / s.barSize f i * s.barSize f i)) }
  | .bar2Size => if f = 0 ∧ v.toNat ≤ 6 then s.modHost fun h => { h with bar2 := v.toNat } else s
  | .vfBar2Size => if f = 0 ∧ v.toNat ≤ 6 then s.modHost fun h => { h with vfBar2 := v.toNat } else s
  | .power => if v.toNat % 4 = 3 then put fun t => { t with d3 := true } else if v.toNat % 4 = 0 then put fun t => { t with d3 := false } else s
  | .msixControl => (put fun t => { t with msixEn := v.getLsbD 15, msixMask := v.getLsbD 14 }).flushPending f
  | .serialLo | .serialHi | .other _ => s

/-- A configuration request: before DEV_READY with Configuration Request Retry Status, to an absent function with Unsupported
Request. -/
def State.configure (s : State) (f : FnId) (r : CfgReq) : State :=
  if !s.devReady then s.reply { ur := false, crs := true, ep := false, data := [] }
  else if !s.fnExists f.val then s.reply urCpl
  else if r.write then (s.cfgWrite f r.reg r.value).reply (dataCpl [])
  else s.reply (dataCpl (s.cfgRead f r.reg))

/-! ## The commands -/

/-- BAR2_READ (R406); in recovery mode with Unsupported Request (R442), and so an AtomicOp in any mode (R398). -/
def execBar2Read (fn : FnId) (off len : Nat) (atomic : Bool) (dev : DevAns) (s : State) : Host.Outcome State Fault Refusal :=
  s.hostAct fn (if off + len ≤ s.bar2Bytes fn then (if s.recovery || atomic then s.reply urCpl else s.bar2Read fn off len dev) else s)

/-- BAR2_WRITE, a byte that is not enabled being none (R398, R400, R406); dropped in recovery mode (R442). -/
def execBar2Write (fn : FnId) (off : Nat) (data : List (Option Byte)) (ep : Bool) (dev : DevAns) (s : State) :
    Host.Outcome State Fault Refusal :=
  s.hostAct fn (if !s.recovery ∧ data.length ≤ 512 ∧ off + data.length ≤ s.bar2Bytes fn then s.bar2Write fn off data ep dev else s)

/-- CONFIGURATION_REQUEST (R401, R435). -/
def execConfigurationRequest (fn : FnId) (r : CfgReq) (s : State) : Host.Outcome State Fault Refusal :=
  .next (if s.alive && s.host.linkUp then s.configure fn r else s)

/-- PCIE_LINK_UP (R398, R433). -/
def execPcieLinkUp (rate lanes : Nat) (s : State) : Host.Outcome State Fault Refusal :=
  .next (if s.alive && !s.host.linkUp && linkWf rate lanes then s.modHost fun h => { h with linkUp := true, rate := rate, lanes := lanes }
    else s)

end Sys2Proof.Machine
end

