-- ==== Sys2Proof/Machine/Dispatch.lean ====
section
/-! DEFINITION. The meaning of every command: one arm per row of spec/opcode_table.json. -/

namespace Sys2Proof.Machine
open Sys2Proof

/-- The effect of a command on everything but the queue. -/
def exec (i : Instr) (s : State) : Host.Outcome State Fault Refusal :=
  match i with
  | .nop c x w => Sys2Proof.Machine.execNop c x w s
  | .tbuild c x w => Sys2Proof.Machine.execTbuild c x w s
  | .tile c x w => Sys2Proof.Machine.execTile c x w s
  | .stile c x w => Sys2Proof.Machine.execStile c x w s
  | .drain c x w => Sys2Proof.Machine.execDrain c x w s
  | .move c x w => Sys2Proof.Machine.execMove c x w s
  | .fill c x w => Sys2Proof.Machine.execFill c x w s
  | .copy c x w => Sys2Proof.Machine.execCopy c x w s
  | .xpose c x w => Sys2Proof.Machine.execXpose c x w s
  | .fin c x w => Sys2Proof.Machine.execFin c x w s
  | .opt c x w => Sys2Proof.Machine.execOpt c x w s
  | .signal c x w => Sys2Proof.Machine.execSignal c x w s
  | .wait c x w => Sys2Proof.Machine.execWait c x w s
  | .barrier c x w => Sys2Proof.Machine.execBarrier c x w s
  | .fence c x w => Sys2Proof.Machine.execFence c x w s
  | .rsignal c x w => Sys2Proof.Machine.execRsignal c x w s
  | .phase c x w => Sys2Proof.Machine.execPhase c x w s
  | .rerun c x w => Sys2Proof.Machine.execRerun c x w s
  | .loop c x w => Sys2Proof.Machine.execLoop c x w s
  | .jump c x w => Sys2Proof.Machine.execJump c x w s
  | .halt c x w => Sys2Proof.Machine.execHalt c x w s
  | .implicitHalt c x => Sys2Proof.Machine.execImplicitHalt c x s
  | .commandFetchRangeFault c x => Sys2Proof.Machine.execCommandFetchRangeFault c x s
  | .issueArbitration c => Sys2Proof.Machine.execIssueArbitration c s
  | .faultRecord c x => Sys2Proof.Machine.execFaultRecord c x s
  | .tbuildSweepStart c u => Sys2Proof.Machine.execTbuildSweepStart c u s
  | .tbuildComplete c u => Sys2Proof.Machine.execTbuildComplete c u s
  | .tileStart c g => Sys2Proof.Machine.execTileStart c g s
  | .guardedTileEvaluation c g => Sys2Proof.Machine.execGuardedTileEvaluation c g s
  | .tileComplete c g => Sys2Proof.Machine.execTileComplete c g s
  | .stileStart c => Sys2Proof.Machine.execStileStart c s
  | .stileComplete c => Sys2Proof.Machine.execStileComplete c s
  | .drainStart c => Sys2Proof.Machine.execDrainStart c s
  | .drainComplete c => Sys2Proof.Machine.execDrainComplete c s
  | .finComplete c => Sys2Proof.Machine.execFinComplete c s
  | .optComplete c => Sys2Proof.Machine.execOptComplete c s
  | .dmaTransactionStart c => Sys2Proof.Machine.execDmaTransactionStart c s
  | .dmaTransactionComplete c tag => Sys2Proof.Machine.execDmaTransactionComplete c tag s
  | .dmaCommandComplete c q => Sys2Proof.Machine.execDmaCommandComplete c q s
  | .syncSignalArrival c => Sys2Proof.Machine.execSyncSignalArrival c s
  | .syncDecrement c => Sys2Proof.Machine.execSyncDecrement c s
  | .waiterReady c x => Sys2Proof.Machine.execWaiterReady c x s
  | .syncTimeout c x => Sys2Proof.Machine.execSyncTimeout c x s
  | .deadlock c => Sys2Proof.Machine.execDeadlock c s
  | .rafterLineAssert l => Sys2Proof.Machine.execRafterLineAssert l s
  | .syncDbgAddrWrite fn c value => Sys2Proof.Machine.execSyncDbgAddrWrite fn c value s
  | .syncHostSigWrite fn c n => Sys2Proof.Machine.execSyncHostSigWrite fn c n s
  | .doorbell fn off read => Sys2Proof.Machine.execDoorbell fn off read s
  | .contextStart c x => Sys2Proof.Machine.execContextStart c x s
  | .freeze fn c x on => Sys2Proof.Machine.execFreeze fn c x on s
  | .contextSave fn c x => Sys2Proof.Machine.execContextSave fn c x s
  | .contextRestore fn c x => Sys2Proof.Machine.execContextRestore fn c x s
  | .contextReset fn c x => Sys2Proof.Machine.execContextReset fn c x s
  | .coreReset fn c => Sys2Proof.Machine.execCoreReset fn c s
  | .pgEvtClear fn p bits => Sys2Proof.Machine.execPgEvtClear fn p bits s
  | .pgErrCodeRead fn p => Sys2Proof.Machine.execPgErrCodeRead fn p s
  | .highHalfLatchRead fn off size => Sys2Proof.Machine.execHighHalfLatchRead fn off size s
  | .fuMonStatRead fn c n => Sys2Proof.Machine.execFuMonStatRead fn c n s
  | .stoCeAddrRead fn c => Sys2Proof.Machine.execStoCeAddrRead fn c s
  | .counterClear fn p => Sys2Proof.Machine.execCounterClear fn p s
  | .dmaQueueResume fn c q => Sys2Proof.Machine.execDmaQueueResume fn c q s
  | .phaseTableLoad fn => Sys2Proof.Machine.execPhaseTableLoad fn s
  | .phaseTableLoadDone => Sys2Proof.Machine.execPhaseTableLoadDone s
  | .registerWrite fn off size value => Sys2Proof.Machine.execRegisterWrite fn off size value s
  | .bar2Read fn off len atomic dev => Sys2Proof.Machine.execBar2Read fn off len atomic dev s
  | .bar2Write fn off data ep dev => Sys2Proof.Machine.execBar2Write fn off data ep dev s
  | .functionLevelReset fn => Sys2Proof.Machine.execFunctionLevelReset fn s
  | .hotReset => Sys2Proof.Machine.execHotReset s
  | .packageReset => Sys2Proof.Machine.execPackageReset s
  | .startUp e => Sys2Proof.Machine.execStartUp e s
  | .storeroomInitDone c => Sys2Proof.Machine.execStoreroomInitDone c s
  | .vddMgtUndervoltage => Sys2Proof.Machine.execVddMgtUndervoltage s
  | .storeroomEccCorrected c word port flips => Sys2Proof.Machine.execStoreroomEccCorrected c word port flips s
  | .correctionWriteback c h => Sys2Proof.Machine.execCorrectionWriteback c h s
  | .stoEccUncorr c word port lane rmw flips => Sys2Proof.Machine.execStoEccUncorr c word port lane rmw flips s
  | .storeroomScrub c h => Sys2Proof.Machine.execStoreroomScrub c h s
  | .shelfGrant c h accs => Sys2Proof.Machine.execShelfGrant c h accs s
  | .atticEccUncorr t addr req tag scrub flips => Sys2Proof.Machine.execAtticEccUncorr t addr req tag scrub flips s
  | .atticRefresh t ch => Sys2Proof.Machine.execAtticRefresh t ch s
  | .atticPatrolScrub t ch corrected => Sys2Proof.Machine.execAtticPatrolScrub t ch corrected s
  | .arbiterGrant a arrived ns ce => Sys2Proof.Machine.execArbiterGrant a arrived ns ce s
  | .cellarResponse c tag poisonLines => Sys2Proof.Machine.execCellarResponse c tag poisonLines s
  | .cellarTimeout c tag lines => Sys2Proof.Machine.execCellarTimeout c tag lines s
  | .cellarLinkDown p => Sys2Proof.Machine.execCellarLinkDown p s
  | .linkTrainingComplete port lanes peer peerPort => Sys2Proof.Machine.execLinkTrainingComplete port lanes peer peerPort s
  | .flitReceive port f => Sys2Proof.Machine.execFlitReceive port f s
  | .nakReplay port => Sys2Proof.Machine.execNakReplay port s
  | .idleFlit port => Sys2Proof.Machine.execIdleFlit port s
  | .wr port ctl => Sys2Proof.Machine.execWr port ctl s
  | .sig port ctl => Sys2Proof.Machine.execSig port ctl s
  | .rd port => Sys2Proof.Machine.execRd port s
  | .rdr port => Sys2Proof.Machine.execRdr port s
  | .ack port => Sys2Proof.Machine.execAck port s
  | .creditReturn port => Sys2Proof.Machine.execCreditReturn port s
  | .lnkPullGo fn port => Sys2Proof.Machine.execLnkPullGo fn port s
  | .pullComplete port => Sys2Proof.Machine.execPullComplete port s
  | .lossOfSignal port => Sys2Proof.Machine.execLossOfSignal port s
  | .heartbeatTimeout port => Sys2Proof.Machine.execHeartbeatTimeout port s
  | .retryLimit port => Sys2Proof.Machine.execRetryLimit port s
  | .lnkCtrlWrite fn port value => Sys2Proof.Machine.execLnkCtrlWrite fn port value s
  | .phaseDecision c => Sys2Proof.Machine.execPhaseDecision c s
  | .poolDecision c => Sys2Proof.Machine.execPoolDecision c s
  | .variantChange c => Sys2Proof.Machine.execVariantChange c s
  | .currentSample p => Sys2Proof.Machine.execCurrentSample p s
  | .junctionSensorSample j => Sys2Proof.Machine.execJunctionSensorSample j s
  | .avsbusRead volts amps temps => Sys2Proof.Machine.execAvsbusRead volts amps temps s
  | .powerCapOnset => Sys2Proof.Machine.execPowerCapOnset s
  | .powerCapLift => Sys2Proof.Machine.execPowerCapLift s
  | .thermThrottle sensor temp => Sys2Proof.Machine.execThermThrottle sensor temp s
  | .throttleLift => Sys2Proof.Machine.execThrottleLift s
  | .thermalTrip sensor temp => Sys2Proof.Machine.execThermalTrip sensor temp s
  | .droopStretch c rail => Sys2Proof.Machine.execDroopStretch c rail s
  | .droopRestore c cycles above rail => Sys2Proof.Machine.execDroopRestore c cycles above rail s
  | .info r => Sys2Proof.Machine.execInfo r s
  | .stage r => Sys2Proof.Machine.execStage r s
  | .recover r e => Sys2Proof.Machine.execRecover r e s
  | .commit r flashOk => Sys2Proof.Machine.execCommit r flashOk s
  | .svnAdvance r => Sys2Proof.Machine.execSvnAdvance r s
  | .attest r => Sys2Proof.Machine.execAttest r s
  | .cert r => Sys2Proof.Machine.execCert r s
  | .measure r => Sys2Proof.Machine.execMeasure r s
  | .unmeasure r => Sys2Proof.Machine.execUnmeasure r s
  | .celKey r => Sys2Proof.Machine.execCelKey r s
  | .log r => Sys2Proof.Machine.execLog r s
  | .dbgChallenge r => Sys2Proof.Machine.execDbgChallenge r s
  | .dbgUnlock r => Sys2Proof.Machine.execDbgUnlock r s
  | .dbgLock r => Sys2Proof.Machine.execDbgLock r s
  | .telemetry => Sys2Proof.Machine.execTelemetry s
  | .setEndpointId eid => Sys2Proof.Machine.execSetEndpointId eid s
  | .getEndpointId => Sys2Proof.Machine.execGetEndpointId s
  | .getMctpVersionSupport msgType => Sys2Proof.Machine.execGetMctpVersionSupport msgType s
  | .getMessageTypeSupport => Sys2Proof.Machine.execGetMessageTypeSupport s
  | .logRecord time => Sys2Proof.Machine.execLogRecord time s
  | .watchdogRestart fwRead => Sys2Proof.Machine.execWatchdogRestart fwRead s
  | .bypass => Sys2Proof.Machine.execBypass s
  | .idcode => Sys2Proof.Machine.execIdcode s
  | .samplePreload ins preload => Sys2Proof.Machine.execSamplePreload ins preload s
  | .extest => Sys2Proof.Machine.execExtest s
  | .clamp => Sys2Proof.Machine.execClamp s
  | .highz => Sys2Proof.Machine.execHighz s
  | .routerGrant b out => Sys2Proof.Machine.execRouterGrant b out s
  | .meshAcknowledgement c => Sys2Proof.Machine.execMeshAcknowledgement c s
  | .configurationRequest fn r => Sys2Proof.Machine.execConfigurationRequest fn r s
  | .pcieLinkUp rate lanes => Sys2Proof.Machine.execPcieLinkUp rate lanes s
  | .mailboxCommandComplete => Sys2Proof.Machine.execMailboxCommandComplete s
  | .saveRestoreComplete c x => Sys2Proof.Machine.execSaveRestoreComplete c x s
  | .privateTapInstruction op => Sys2Proof.Machine.execPrivateTapInstruction op s
  | .trstNAssertion => Sys2Proof.Machine.execTrstNAssertion s

end Sys2Proof.Machine
end

