-- ==== Sys2Proof/Safety.lean ====
section
/-! DEFINITION. What counts as a sound state, and the terms in which statements speak of commands and of what they leave alone. -/

namespace Sys2Proof.Machine
open Sys2Proof

/-! ## Sound states -/

/-- The canonical forms: the memory's lists, the register map, the loft map. Equal contents are equal data. -/
def Inv (s : State) : Prop := s.mem.wf = true ∧ smWf regReset s.regs = true ∧ smWf zeroEntry s.loft = true

/-- What no command touches: the queue; of the management state the fuses, but for the two thermometer fields that SVN_ADVANCE
burns, in which a burned bit stays burned (R444). -/
def Kept (s t : State) : Prop :=
  t.pending = s.pending ∧
    t.mgmt.fuses = { s.mgmt.fuses with svnFw := t.mgmt.fuses.svnFw, svnMc := t.mgmt.fuses.svnMc } ∧
    s.mgmt.fuses.svnFw ||| t.mgmt.fuses.svnFw = t.mgmt.fuses.svnFw ∧ s.mgmt.fuses.svnMc ||| t.mgmt.fuses.svnMc = t.mgmt.fuses.svnMc

/-! ## Sequencer commands -/

/-- The rows of the sequencer's commands, by opcode (R198). -/
def seqRows : List (Nat × (CoreId → CtxId → Cmd → Instr)) :=
  [(OP_NOP, .nop), (OP_TBUILD, .tbuild), (OP_TILE, .tile), (OP_STILE, .stile), (OP_DRAIN, .drain), (OP_MOVE, .move), (OP_FILL, .fill),
   (OP_COPY, .copy), (OP_XPOSE, .xpose), (OP_FIN, .fin), (OP_OPT, .opt), (OP_SIGNAL, .signal), (OP_WAIT, .wait), (OP_BARRIER, .barrier),
   (OP_FENCE, .fence), (OP_RSIGNAL, .rsignal), (OP_PHASE, .phase), (OP_RERUN, .rerun), (OP_LOOP, .loop), (OP_JUMP, .jump), (OP_HALT, .halt)]

/-- A context with a command at its head. -/
def State.atHead (s : State) (c : CoreId) (x : CtxId) (w : Cmd) : State :=
  s.modCtx c x fun t => { (t.go .ready) with hold := .free, head := some w, pre := t.pre && t.head == some w }

/-- Offset of the command at the head. -/
def State.headOff (s : State) (c : CoreId) (x : CtxId) : Nat := (s.pg (.ctx c x) CTX_PC).toNat

/-- The descriptor of the command at the head as read before its pre-wait, where that has passed (R195). -/
def State.keptDesc (s : State) (c : CoreId) (x : CtxId) (w : Cmd) : Option Desc :=
  let h := s.atHead c x w
  if (h.ctx c x).pre then (h.ctx c x).desc else none

/-- The descriptor that the command at the head issues with. -/
def State.headDesc (s : State) (c : CoreId) (x : CtxId) (w : Cmd) : Desc := (s.keptDesc c x w).getD ((s.atHead c x w).readDesc c w)

/-- The command w may issue: its context may, its queue has room, its ord flag does not wait, every check of R218 that is made now
passes, its pre-wait has passed. -/
def State.clears (s : State) (c : CoreId) (x : CtxId) (w : Cmd) : Bool :=
  let h := s.atHead c x w
  let d := s.headDesc c x w
  s.mayIssue c x && !(h.core c).holdsHead x w &&
    (if (s.keptDesc c x w).isSome then h.headFault c x w d else h.earlyFault c x w d none).isNone && (!flagPw w || (h.ctx c x).pre) &&
    (h.lateFault c x w d (s.headOff c x)).isNone

/-- The command as it issues. -/
def State.headJob (s : State) (c : CoreId) (x : CtxId) (w : Cmd) : Job :=
  (s.atHead c x w).mkJob c x w (s.headDesc c x w) (s.headOff c x)

/-- A sequencer's own command has issued, and CTX_PC has moved on. -/
def State.seqIssued (s : State) (c : CoreId) (x : CtxId) (w : Cmd) : State :=
  ((s.atHead c x w).countIssue c x U_SEQ).stepPc c x (s.headOff c x)

/-! ## Management commands -/

/-- A management command that stands in a row of the table: its op, its row, what it does with MBX_ARG0 and its bytes (R451). -/
structure MgtRow where
  op : Nat
  row : MgtReq → Instr
  act : State → W32 → List Byte → State × Served

/-- The rows, RECOVER and COMMIT for each of their operands. -/
def mgtRow : List MgtRow :=
  [⟨OP_INFO, .info, State.doInfo⟩, ⟨OP_STAGE, .stage, State.doStage⟩, ⟨OP_SVN, .svnAdvance, State.doSvn⟩, ⟨OP_ATTEST, .attest, State.doAttest⟩,
   ⟨OP_CERT, .cert, State.doCert⟩, ⟨OP_MEASURE, .measure, State.doMeasure⟩, ⟨OP_UNMEASURE, .unmeasure, State.doUnmeasure⟩,
   ⟨OP_CELKEY, .celKey, State.doCelKey⟩, ⟨OP_LOG, .log, State.doLog⟩, ⟨OP_CHALLENGE, .dbgChallenge, State.doChallenge⟩,
   ⟨OP_UNLOCK, .dbgUnlock, State.doUnlock⟩, ⟨OP_LOCK, .dbgLock, State.doLock⟩]

def mgtRows (e : StartEnv) (okf : Bool) : List MgtRow :=
  ⟨OP_RECOVER, fun r => .recover r e, fun s a d => s.doRecover e a d⟩ ::
    ⟨OP_COMMIT, fun r => .commit r okf, fun s a d => s.doCommit okf a d⟩ :: mgtRow

/-! ## What holds -/

/-- Nothing in a core goes on by itself: no hold has ended, no context and no core is under reset, no FIN or OPT can start. -/
def State.calm (s : State) (c : CoreId) : Bool :=
  !(s.core c).resetting && !(s.startFin c).2 && (List.finRange 4).all fun x => !(s.ctx c x).resetting && !(s.settleCtx c x).2

/-- A core at the point of an ac where the issue slot is granted (R187, R188): time has passed, heads are fetched, ages counted. -/
def State.acReady (s : State) (c : CoreId) : State :=
  ((List.finRange 4).foldl (fun s x => s.fetchHead c x) ((s.acCounters c).acClock c)).countAges c

/-- A block-specific register that a host write sets like memory, under its mask of writable bits, whatever else the state holds: not
those whose write does something (R181 to R184, R296, R321, R344, R349, R369, R384, R450), and not those that only some states or
some functions may write (R179, R402, R403, R450). -/
def plainReg (p : Page) (o : Nat) : Bool :=
  decide (0x100 ≤ o ∧ o < 0x1000 ∧ o % 4 = 0) && (match p with
    | .seq _ | .fu _ | .att _ | .cel _ | .sec => true
    | .ctx _ _ => !(o == CTX_CFG || o == CTX_PC || o == CTX_BASE_LO || o == CTX_BASE_HI || o == CTX_LEN || o == CTX_SAVECTL || inRun o 0x400 4 256)
    | .eg _ _ | .se _ => o != SLOT_SAT
    | .sto _ => !inRun o 0x220 4 8
    | .sync _ => !(o == SYNC_DBG_ADDR || o == SYNC_HOST_SIG || o == SYNC_PEERS_LO || o == SYNC_PEERS_HI)
    | .lnk _ => !(o == LNK_CTRL || o == LNK_PULL_GO)
    | .pwr => o != PWR_PT_CTL
    | .pkg => !(inRun o 0x140 4 8 || inRun o 0x200 4 32)
    | .mbx => false)

end Sys2Proof.Machine
end

