-- ==== Sys2Proof/Certificates/Slice0/Obligations.lean ====
section
/-! DEFINITION. The statements for the provers. Each says which rules of spec/ it formalises.

A statement about a command gives the state after it as an equation, so the equation is its frame: what it does not name is as
before. `s.alive`, `s.pkgUp`, `s.coreUp c`, `s.hostUp fn` and `s.reaches fn c` say that the package, a core or the host's access is
in service (R7, R403, R432, R435). -/

open Sys2Proof Sys2Proof.Machine

/-! ## The machine -/

/-- A step runs the command at the front of the queue on the state with the queue's rest; an empty queue idles (the model's choice, log
entry 2). -/
def Obligations.StepTakesFront : Prop :=
  (∀ (i : Instr) (rest : List Instr) (s : State), s.pending = i :: rest → step s = exec i { s with pending := rest }) ∧
  (∀ s : State, s.pending = [] → step s = .next s)

/-- Reset values that the register tables give (R118, R190, R178, R276, R288, R344, R303, R309, R298, R320, R345, R346, R395, R410): every
page's header, PG_ERR_INFO among it, then the registers whose reset value is not zero, and a few whose value is; of ARB_WT10, whose bits
[31:4] are reserved, the rest (R345, R15; log entry 37). State after reset that is no register: contexts HALTED
without a doorbell (R178), units, queues and wait tables empty, storeroom and attic words 0 with FE and poison 0 (R272, R436), loft
entries (+0, +0) (R121). -/
def Obligations.ResetValues : Prop :=
  ((∀ p : Page, State.reset.pg p PG_CTRL = 1 ∧ State.reset.pg p PG_CNT_CTRL = 1 ∧ State.reset.pg p PG_EVT_RAW = 0 ∧
      State.reset.pg p PG_EVT_EN = 0 ∧ State.reset.pg p PG_ERR_CODE = 0 ∧ (∀ i : Fin 4, State.reset.errInfo p i = 0) ∧
      ∀ i, i < 24 → State.reset.pg64 p (PG_CNT i) = 0) ∧
    (∀ c : CoreId,
      State.reset.pg (.seq c) SEQ_AGE_LIMIT = 0x1000 ∧ State.reset.pg (.seq c) SEQ_QUANTUM = 0x10 ∧ State.reset.pg (.seq c) SEQ_PHASE_CNT = 0 ∧
      (∀ x, State.reset.pg (.ctx c x) CTX_CFG = 3 ∧ State.reset.pg (.ctx c x) CTX_PC = 0 ∧ State.reset.pg (.ctx c x) CTX_LEN = 0 ∧
        ∀ i, i < 256 → State.reset.pg (.ctx c x) (CTX_MAP i) = 0) ∧
      (∀ g, State.reset.pg (.eg c g) LOFT_CFG = 1 ∧ State.reset.pg (.eg c g) SLOT_SAT = 0) ∧
      State.reset.pg (.se c) LOFT_CFG = 1 ∧ State.reset.pg (.fu c) FU_SKIP_CTL = 0 ∧
      (∀ p, p < 5 → State.reset.pg (.sto c) (STO_PORTMAP p) = 0xFFFF_FFFF) ∧ State.reset.pg (.sto c) STO_SCRUB = 0x1000 ∧
      (∀ q, q < 8 → State.reset.pg (.sto c) (DMA_QMAX q) = 0x200) ∧ State.reset.pg (.sync c) SYNC_DLK_WINDOW = 0x0100_0000 ∧
      State.reset.pg (.sync c) SYNC_PEERS_LO = 0xFFFF_FFFF ∧ State.reset.pg (.sync c) SYNC_PEERS_HI = 0xFFFF_FFFF ∧
      (∀ x : CtxId, State.reset.shown (.sync c) (SYNC_WTAB x.val) = 0 ∧ State.reset.shown (.sync c) (SYNC_WTAB x.val + 12) = 0xFFFF_FFFF)) ∧
    (∀ t : StackId, State.reset.pg (.att t) ATT_SCRUB = 0x40 ∧ State.reset.pg (.att t) ARB_AGE = 0x800 ∧
      (∀ i, i < 10 → State.reset.pg (.att t) (ARB_WT i) = 0x1111_1111) ∧ State.reset.pg (.att t) (ARB_WT 10) = 1) ∧
    (∀ p : CelId, State.reset.pg (.cel p) CEL_TIMEOUT = 0x64 ∧ State.reset.pg (.cel p) ARB_AGE = 0x800 ∧ State.reset.pg (.cel p) CEL_STAT = 0 ∧
      (∀ i, i < 10 → State.reset.pg (.cel p) (ARB_WT i) = 0x1111_1111) ∧ State.reset.pg (.cel p) (ARB_WT 10) = 1) ∧
    State.reset.pg .pwr PWR_BUDGET = 0x898 ∧ State.reset.pg .pwr PWR_VALLOW = 0xF ∧ State.reset.pg .pwr PWR_DROOP_CFG = 0x28 ∧
    State.reset.pg .pwr PWR_THM_HYST = 5 ∧ State.reset.pg .pkg PKG_STAT = 0 ∧ State.reset.pg .mbx MBX_STAT = 0) ∧
  ((∀ (c : CoreId) (x : CtxId), (State.reset.ctx c x).run = .halted ∧ (State.reset.ctx c x).pend = false ∧
      (State.reset.ctx c x).loops = []) ∧
    (∀ c : CoreId, (State.reset.core c).waits = [] ∧ (State.reset.core c).live = [] ∧ (State.reset.core c).txns = [] ∧
      (∀ u : Nat, ((State.reset.core c).unit u).queue = [] ∧ ((State.reset.core c).unit u).exec = []) ∧
      ∀ q : QId, ((State.reset.core c).dmaq[q]).queue = [] ∧ ((State.reset.core c).dmaq[q]).halted = false) ∧
    (∀ a : Nat, inCellar a = false → State.reset.mem.byte a = 0) ∧
    (∀ w : Nat, State.reset.mem.feAt w = false ∧ State.reset.mem.poisonAt w = false) ∧
    (∀ k : Nat, State.reset.loftAt k = { s := 0, c := 0 }) ∧ State.reset.pending = [])

/-- The state after reset has the canonical forms. -/
def Obligations.ResetSound : Prop := Inv State.reset

/-- Every step keeps the canonical forms of memory, registers and loft. -/
def Obligations.StepKeepsSound : Prop := ∀ s t : State, Inv s → step s = .next t → Inv t

/-- No command touches the queue, or a fuse other than the thermometer fields of the two minimum svns, in which a burned bit stays
burned: the burn cannot be undone (R439, R444). -/
def Obligations.QueueAndFusesKept : Prop := ∀ (i : Instr) (s t : State), exec i s = .next t → Kept s t

/-- A recorded event replaces the code and the four details of its page together, sets PG_EVT_RAW.err, is forwarded to the log's queue of
4,096, and leaves every other register of the page alone; a counter counts up to all ones, and holds while PG_CNT_CTRL.run is 0. -/
def Obligations.RecordsAndCounters : Prop :=
  (∀ (s : State) (p : Page) (r : Rec),
    let t := s.record p r
    (t.pg p PG_ERR_CODE = w32 r.code.toNat ∧ t.pg p PG_ERR_INFO0 = r.i0 ∧ t.pg p (PG_ERR_INFO0 + 4) = r.i1 ∧
      t.pg p (PG_ERR_INFO0 + 8) = r.i2 ∧ t.pg p (PG_ERR_INFO0 + 12) = r.i3 ∧
      t.pg p PG_EVT_RAW = putBits (s.pg p PG_EVT_RAW) 0 1 1) ∧
    t.mgmt.logq = (if s.mgmt.logq.length < 4096 then
      s.mgmt.logq ++ [{ page := w32 p.base, code := r.code, info := #v[r.i0, r.i1, r.i2, r.i3], wdog := false }] else s.mgmt.logq) ∧
    (∀ (q : Page) (o : Nat), o < 0x1000 → (q ≠ p ∨ o < PG_EVT_RAW ∨ (PG_EVT_RAW < o ∧ o < PG_ERR_CODE) ∨ PG_CNT_CTRL ≤ o) →
      (q ≠ .pkg ∨ (o ≠ PG_CNT 3 ∧ o ≠ PG_CNT 3 + 4)) → t.pg q o = s.pg q o) ∧
    t = { s with regs := t.regs, host := t.host, mgmt := t.mgmt }) ∧
  (∀ (s : State) (p : Page) (i n : Nat), i < 24 → bit (s.pg p PG_CNT_CTRL) 0 = true →
    (s.bump p i n).pg64 p (PG_CNT i) = min (s.pg64 p (PG_CNT i) + n) 0xFFFF_FFFF_FFFF_FFFF) ∧
  (∀ (s : State) (p : Page) (i n : Nat), bit (s.pg p PG_CNT_CTRL) 0 = false → s.bump p i n = s)

/-! ## The arithmetic of the engines -/

/-- The planes of a tap add up to the products of codes and weights: with the pattern tables of R41, the plane weights of R50 and the tree
of R52, the shift-accumulator holds the dot product of weights and code values; for BS1, whose plane weighs 2, it holds the dot product
and the sum of the weights. -/
def Obligations.PlanesAddUp : Prop :=
  ∀ (f : Fmt) (ws : List Int) (cs : List Nat), f.isBlock = true → 1 ≤ f.bits → ws.length = cs.length → 4 ∣ ws.length →
    (∀ q ∈ cs, q < 2 ^ f.bits) → planeSum f ws cs = dot ws (cs.map (codeVal f)) + (if f = .bs 1 then ws.sum else 0)

/-! ## Power-on and host -/

/-- PACKAGE_RESET leaves every register at its reset value but PWR_TRIP_LOG, every core, port and router as after reset, every storeroom
and attic word 0, and no cellar key; fuses, flash, PSRAM and cellar data survive (R432). VDD_MGT_UNDERVOLTAGE does the same, and the trip
log and the PSRAM are lost too (R473, R479; the PSRAM's loss is the model's reading, log entry 36). -/
def Obligations.PackageResets : Prop :=
  ∀ s : State,
    (∃ t : State, exec .packageReset s = .next t ∧
      (∀ (q : Page) (o : Nat), o < 0x1000 → (q ≠ .pwr ∨ o ≠ PWR_TRIP_LOG) → t.pg q o = State.reset.pg q o) ∧
      t.pg .pwr PWR_TRIP_LOG = s.pg .pwr PWR_TRIP_LOG ∧
      t.cores = State.reset.cores ∧ t.loft = [] ∧ t.mesh = State.reset.mesh ∧ t.ports = State.reset.ports ∧ t.host = State.reset.host ∧
      t.arbs = State.reset.arbs ∧ t.patrol = State.reset.patrol ∧
      (∀ a, t.mem.byte a = if inCellar a then s.mem.byte a else 0) ∧
      (∀ w, t.mem.feAt w = false ∧ t.mem.poisonAt w = (inCellar (8 * w) && s.mem.poisonAt w)) ∧
      t.mgmt.fuses = s.mgmt.fuses ∧ t.mgmt.flash = s.mgmt.flash ∧ (∀ a, t.mgmt.psrByte a = s.mgmt.psrByte a) ∧
      (∀ f : FnId, t.mgmt.keys[f] = none) ∧ t.mgmt.level = 0 ∧ t.mgmt.up = false ∧ t.pins.perst = true ∧ t.pending = s.pending) ∧
    (∃ t : State, exec .vddMgtUndervoltage s = .next t ∧
      (∀ (q : Page) (o : Nat), o < 0x1000 → t.pg q o = State.reset.pg q o) ∧
      t.cores = State.reset.cores ∧ t.loft = [] ∧ t.mesh = State.reset.mesh ∧ t.ports = State.reset.ports ∧ t.host = State.reset.host ∧
      (∀ a, t.mem.byte a = if inCellar a then s.mem.byte a else 0) ∧
      t.mgmt.fuses = s.mgmt.fuses ∧ t.mgmt.flash = s.mgmt.flash ∧
      (∀ a, t.mgmt.psrByte a = Config.psramInitial (s.mgmt.psram + 1) a) ∧
      (∀ f : FnId, t.mgmt.keys[f] = none) ∧ t.pins.perst = true ∧ t.pins.vddMgt = false ∧ t.pending = s.pending)

/-- START_UP (R435, R441, R442, R465; the whole start-up is one step, log entry 4): with STRAP[3] the package stays as it is, but for the
log that the controller opens (R453) and the TAP that PERST_N releases (R458); else the package holds the dynamic address of the I3C bus
(R452; that it comes at start-up is the model's choice, log entry 24); a rejected firmware or microcode image is recorded as
IMAGE_REJECT and ends in recovery mode, with ALERT_N; two accepted images end with PKG_STAT.dev_ready, every enabled core's storeroom
initialised, and an earlier trip recorded as THERM_TRIP (in this case alone: log entry 24, DEDUCED). STOREROOM_INIT_DONE writes every word
of the storeroom with data 0, FE 0 and poison 0, no other byte of memory, and sets STO_INIT.done (R272). -/
def Obligations.StartsUp : Prop :=
  (∀ (e : StartEnv) (s : State), s.pins.perst = true → e.wf = true →
      ∃ t : State, exec (.startUp e) s = .next t ∧ t.pins.perst = false ∧ t.pins.strap = e.strap ∧ t.host.linkUp = true ∧
        t.host.rate = e.rate ∧ t.host.lanes = e.lanes ∧ t.cores = s.cores ∧ t.loft = s.loft ∧
        (e.strap.getLsbD 3 = true → t.regs = s.regs ∧ t.mem = s.mem ∧ t.power = s.power ∧
          t.mgmt = ({ s.mgmt with tap := s.mgmt.tap.released } : Mgmt).openLog) ∧
        (e.strap.getLsbD 3 = false → t.mgmt.dynAddr = e.i3cAddr ∧
          (∀ k v, s.verifyFlash 1 e.fwRead = some (k, v) →
            t.pg .pkg PKG_STAT = 3 ∧ t.pins.alert = true ∧ t.mgmt.up = true ∧ t.pg .sec PG_ERR_CODE = 0x0601 ∧
            t.pg .sec PG_ERR_INFO0 = w32 (1 + k <<< 4) ∧ t.pg .sec (PG_ERR_INFO0 + 4) = v ∧ t.mem = s.mem) ∧
          (∀ k v, s.verifyFlash 1 e.fwRead = none → s.verifyFlash 2 e.mcRead = some (k, v) →
            t.pg .pkg PKG_STAT = 3 ∧ t.pins.alert = true ∧ t.mgmt.up = true ∧ t.pg .sec PG_ERR_CODE = 0x0601 ∧
            t.pg .sec PG_ERR_INFO0 = w32 (2 + k <<< 4) ∧ t.pg .sec (PG_ERR_INFO0 + 4) = v ∧ t.mem = s.mem) ∧
          (s.verifyFlash 1 e.fwRead = none → s.verifyFlash 2 e.mcRead = none →
            t.pg .pkg PKG_STAT = 1 ∧ t.mgmt.up = true ∧ (∀ c : CoreId, s.enabled c = true → t.pg (.sto c) STO_INIT = 1) ∧
            (bit (s.pg .pwr PWR_TRIP_LOG) 31 = true → t.pg .pwr PG_ERR_CODE = 0x0502 ∧ t.pg .pwr PG_ERR_INFO0 = s.pg .pwr PWR_TRIP_LOG)))) ∧
  (∀ (c : CoreId) (s : State), s.alive = true → s.enabled c = true → s.pg (.sto c) STO_INIT = 0 →
      ∃ t : State, exec (.storeroomInitDone c) s = .next t ∧
        (∀ w, w < 0x100_0000 → t.stoWordAt c w = { data := 0, fe := false, poison := false }) ∧
        (∀ a, a < stoBase c ∨ stoBase c + 0x800_0000 ≤ a → t.mem.byte a = s.mem.byte a) ∧
        (∀ w, 8 * w < stoBase c ∨ stoBase c + 0x800_0000 ≤ 8 * w → t.mem.feAt w = s.mem.feAt w ∧ t.mem.poisonAt w = s.mem.poisonAt w) ∧
        t = { s with mem := t.mem, regs := (s.setPg (.sto c) STO_INIT 1).regs })

/-- FUNCTION_LEVEL_RESET resets every context of every core that the function owns, of every enabled core for function 0, and clears the
function's MSI-X state; that of function 0 first disables the virtual functions, which clears every function's (R404). HOT_RESET resets
the configuration space of every function and acts otherwise as a Function Level Reset of function 0 (R433); the link then stays down
until PCIE_LINK_UP (log entry 36, DEDUCED), which brings it back at the trained rate and width (R398). CONFIGURATION_REQUEST: with
Configuration Request Retry Status before DEV_READY (R435); with Unsupported Request to a function that does not exist; a read returns the
register and changes nothing else; function 0 sets NumVFs while virtual functions are disabled (R401) and the BAR2 sizes (R405); a
function's power state and MSI-X controls are set. The layout of the configuration space, the encoding of the power states, the MSI-X
control bits and the Unsupported Request are PCI Express's (log entry 15, PRESUMED). -/
def Obligations.HostLink : Prop :=
  ((∀ (f : FnId) (s : State), s.alive = true → s.devReady = true → s.recovery = false → s.host.linkUp = true → s.fnExists f.val = true →
      f ≠ 0 → exec (.functionLevelReset f) s =
        .next ((s.resetCtxs (s.enabledCores.filter fun c => s.owner c == f.val)).modHost fun h =>
          { h with fns := vmod h.fns f fun t => { t with msixEn := false, msixMask := false }
                   msix := h.msix.filter fun e => e.1 / 512 != f.val
                   pba := h.pba.filter fun e => e / 128 != f.val })) ∧
    (∀ s : State, s.alive = true → s.devReady = true → s.recovery = false → s.host.linkUp = true →
      let d := (s.setVfEn false).modHost fun h => { h with numVFs := 0 }
      ∃ t : State, exec (.functionLevelReset 0) s = .next t ∧ t = { d.resetCtxs s.enabledCores with host := t.host } ∧
        d = { s with host := d.host } ∧ t.host.vfEn = false ∧ t.host.numVFs = 0 ∧
        (∀ g : FnId, (t.host.fns[g]).msixEn = false ∧ (t.host.fns[g]).msixMask = false ∧
          (t.host.fns[g]).d3 = (if g = 0 then (s.host.fns[g]).d3 else false) ∧
          (∀ v d, v < 128 → d < 4 → t.msixWord g.val v d = msixReset d) ∧ ∀ v, v < 128 → (128 * g.val + v) ∉ t.host.pba)) ∧
    (∀ s : State, s.alive = true →
      exec .hotReset s = .next ((if s.devReady then s.flr 0 else s).modHost fun h =>
        { h with linkUp := false, fns := Vector.replicate 16 Fn.reset, numVFs := 0, vfEn := false, bar2 := 0, vfBar2 := 0 })) ∧
    (∀ (rate lanes : Nat) (s : State), s.alive = true → s.host.linkUp = false → linkWf rate lanes = true →
      exec (.pcieLinkUp rate lanes) s = .next { s with host := { s.host with linkUp := true, rate := rate, lanes := lanes } })) ∧
  (∀ (f : FnId) (r : CfgReq) (s : State), s.alive = true → s.host.linkUp = true →
      (s.devReady = false → exec (.configurationRequest f r) s =
        .next { s with host := { s.host with cpl := [{ ur := false, crs := true, ep := false, data := [] }] } }) ∧
      (s.devReady = true → s.fnExists f.val = false → exec (.configurationRequest f r) s =
        .next { s with host := { s.host with cpl := [urCpl] } }) ∧
      (s.devReady = true → s.fnExists f.val = true →
        (r.write = false → exec (.configurationRequest f r) s =
          .next { s with host := { s.host with cpl := [dataCpl (s.cfgRead f r.reg)] } }) ∧
        (r.write = true → r.reg = .numVFs → f = 0 → s.host.vfEn = false → r.value.toNat ≤ 15 → exec (.configurationRequest f r) s =
          .next { s with host := { s.host with numVFs := r.value.toNat, cpl := [dataCpl []] } }) ∧
        (r.write = true → r.reg = .numVFs → f = 0 → s.host.vfEn = true → exec (.configurationRequest f r) s =
          .next { s with host := { s.host with cpl := [dataCpl []] } }) ∧
        (r.write = true → r.reg = .bar2Size → f = 0 → r.value.toNat ≤ 6 → exec (.configurationRequest f r) s =
          .next { s with host := { s.host with bar2 := r.value.toNat, cpl := [dataCpl []] } }) ∧
        (r.write = true → r.reg = .power → r.value.toNat % 4 = 3 → exec (.configurationRequest f r) s =
          .next { s with host := { s.host with fns := vmod s.host.fns f fun t => { t with d3 := true }, cpl := [dataCpl []] } }) ∧
        (r.write = true → r.reg = .msixControl → ∃ t : State, exec (.configurationRequest f r) s = .next t ∧
          (t.host.fns[f]).msixEn = r.value.getLsbD 15 ∧ (t.host.fns[f]).msixMask = r.value.getLsbD 14 ∧
          t.host.cpl = [dataCpl []] ∧ t = { s with regs := t.regs, host := t.host })))

/-- REGISTER_WRITE: a write of 4 aligned bytes sets the writable bits of a register and nothing else (R13, R14, R15); one of 8 aligned
bytes is two, lower offset first (R13); any other size or alignment, and a write by a function without the right (R403), changes nothing.
A context's stream registers and map are writable while it is HALTED or FAULTED (R179, R294), the mailbox's while it is not busy (R450);
a write otherwise changes nothing. Of PKG_CORE_FN the nibbles of cores whose contexts are all HALTED or FAULTED are set (R402), of RAF_MASK
the bits of enabled cores (R311); CTX_CFG.priv and SYNC_PEERS take a write by function 0 alone (R403); EG_SLOT_SAT and SE_SLOT_SAT clear
what is written 1 (R118). PG_CTRL sets en, freezes or unfreezes a context and starts a context's or a core's reset; PG_EVT_EN sets the event
enables; with either a source that rises is delivered (R408 to R412); PG_CNT_CTRL sets run and clears the counters. A function writes the
words of its own MSI-X table, of a control word the mask bit alone (log entry 15), but in recovery mode none. PG_EVT_CLEAR clears the raw
events written 1, and a source that still requests sends its message again (R409, R411). COUNTER_CLEAR makes every counter of the page zero
and changes no other register (R413). -/
def Obligations.RegisterWrites : Prop :=
  (∀ (fn : FnId) (p : Page) (s : State), s.hostUp fn = true → s.pageThere p = true →
      (∀ (o : Nat) (v : W64), s.mayWrite fn p = true → plainReg p o = true →
        exec (.registerWrite fn (BitVec.ofNat 26 (p.base + o)) 4 v) s =
          .next (s.setPg p o ((s.pg p o &&& ~~~(rwMask p o)) ||| (v.setWidth 32 &&& rwMask p o)))) ∧
      (∀ (o : Nat) (v : W64), s.mayWrite fn p = true → plainReg p o = true → plainReg p (o + 4) = true → o % 8 = 0 →
        exec (.registerWrite fn (BitVec.ofNat 26 (p.base + o)) 8 v) s =
          .next ((s.setPg p o ((s.pg p o &&& ~~~(rwMask p o)) ||| (v.setWidth 32 &&& rwMask p o))).setPg p (o + 4)
            ((s.pg p (o + 4) &&& ~~~(rwMask p (o + 4))) ||| ((v >>> 32).setWidth 32 &&& rwMask p (o + 4))))) ∧
      (∀ (c : CoreId) (x : CtxId) (o : Nat) (v : W64), p = .ctx c x → s.mayWrite fn p = true →
        (o = CTX_PC ∨ o = CTX_BASE_LO ∨ o = CTX_BASE_HI ∨ o = CTX_LEN ∨ inRun o 0x400 4 256 = true) →
        (((s.ctx c x).run = .halted ∨ (s.ctx c x).run = .faulted) → exec (.registerWrite fn (BitVec.ofNat 26 (p.base + o)) 4 v) s =
          .next (s.setPg p o ((s.pg p o &&& ~~~(rwMask p o)) ||| (v.setWidth 32 &&& rwMask p o)))) ∧
        ((s.ctx c x).run ≠ .halted → (s.ctx c x).run ≠ .faulted → exec (.registerWrite fn (BitVec.ofNat 26 (p.base + o)) 4 v) s = .next s)) ∧
      (∀ (o : Nat) (v : W64), p = .mbx → s.mayWrite fn p = true → 0x100 ≤ o → o < 0x1000 → o % 4 = 0 →
        (s.mbxBusy = false → o ≠ MBX_GO → exec (.registerWrite fn (BitVec.ofNat 26 (p.base + o)) 4 v) s =
          .next (s.setPg p o ((s.pg p o &&& ~~~(rwMask p o)) ||| (v.setWidth 32 &&& rwMask p o)))) ∧
        (s.mbxBusy = true → exec (.registerWrite fn (BitVec.ofNat 26 (p.base + o)) 4 v) s = .next s)) ∧
      (∀ (off : BitVec 26) (size : Nat) (v : W64), ¬ (size = 4 ∧ off.toNat % 4 = 0) → ¬ (size = 8 ∧ off.toNat % 8 = 0) →
        exec (.registerWrite fn off size v) s = .next s) ∧
      (∀ (o size : Nat) (v : W64), o < 0x1000 → s.mayWrite fn p = false →
        exec (.registerWrite fn (BitVec.ofNat 26 (p.base + o)) size v) s = .next s)) ∧
  (∀ (fn : FnId) (v : W64) (s : State), s.hostUp fn = true →
      let w : W32 := v.setWidth 32
      (s.pageThere .pkg = true → fn = 0 →
        (∀ i, i < 8 → ∃ t : State, exec (.registerWrite fn (BitVec.ofNat 26 (Page.pkg.base + PKG_CORE_FN i)) 4 v) s = .next t ∧
          t = { s with regs := t.regs } ∧
          (∀ j, j < 8 → bits (t.pg .pkg (PKG_CORE_FN i)) (4 * j) 4 =
            if ∀ x : CtxId, (s.ctx (Fin.ofNat 64 (8 * i + j)) x).run = .halted ∨ (s.ctx (Fin.ofNat 64 (8 * i + j)) x).run = .faulted
            then bits w (4 * j) 4 else bits (s.pg .pkg (PKG_CORE_FN i)) (4 * j) 4) ∧
          ∀ (q : Page) (o : Nat), o < 0x1000 → (q ≠ .pkg ∨ o ≠ PKG_CORE_FN i) → t.pg q o = s.pg q o) ∧
        (∀ (l : LineId),
          exec (.registerWrite fn (BitVec.ofNat 26 (Page.pkg.base + RAF_MASK l.val)) 4 v) s =
            .next (s.setPg .pkg (RAF_MASK l.val) (w &&& s.mgmt.fuses.coreEn.setWidth 32)) ∧
          exec (.registerWrite fn (BitVec.ofNat 26 (Page.pkg.base + RAF_MASK l.val + 4)) 4 v) s =
            .next (s.setPg .pkg (RAF_MASK l.val + 4) (w &&& (s.mgmt.fuses.coreEn >>> 32).setWidth 32)))) ∧
      (∀ (c : CoreId) (x : CtxId), s.pageThere (.ctx c x) = true → s.mayWrite fn (.ctx c x) = true →
        ∃ t : State, exec (.registerWrite fn (BitVec.ofNat 26 ((Page.ctx c x).base + CTX_CFG)) 4 v) s = .next t ∧ t = { s with regs := t.regs } ∧
          bits (t.pg (.ctx c x) CTX_CFG) 0 2 = bits w 0 2 ∧
          bit (t.pg (.ctx c x) CTX_CFG) 2 = (if fn = 0 then bit w 2 else bit (s.pg (.ctx c x) CTX_CFG) 2) ∧
          bits (t.pg (.ctx c x) CTX_CFG) 3 29 = bits (s.pg (.ctx c x) CTX_CFG) 3 29 ∧
          ∀ (q : Page) (o : Nat), o < 0x1000 → (q ≠ .ctx c x ∨ o ≠ CTX_CFG) → t.pg q o = s.pg q o) ∧
      (∀ (c : CoreId) (o : Nat), (o = SYNC_PEERS_LO ∨ o = SYNC_PEERS_HI) → s.pageThere (.sync c) = true → s.mayWrite fn (.sync c) = true →
        exec (.registerWrite fn (BitVec.ofNat 26 ((Page.sync c).base + o)) 4 v) s = .next (if fn = 0 then s.setPg (.sync c) o w else s)) ∧
      (∀ (c : CoreId) (p : Page), ((∃ g, p = .eg c g) ∨ p = .se c) → s.pageThere p = true → s.mayWrite fn p = true →
        exec (.registerWrite fn (BitVec.ofNat 26 (p.base + SLOT_SAT)) 4 v) s = .next (s.setPg p SLOT_SAT (s.pg p SLOT_SAT &&& ~~~w))) ∧
      (∀ u d, u < 128 → d < 4 →
        (s.recovery = true → exec (.registerWrite fn (BitVec.ofNat 26 (0x2_0000 + 16 * u + 4 * d)) 4 v) s = .next s) ∧
        (s.recovery = false → ∃ t : State, exec (.registerWrite fn (BitVec.ofNat 26 (0x2_0000 + 16 * u + 4 * d)) 4 v) s = .next t ∧
          t = { s with host := t.host, regs := t.regs } ∧ t.msixWord fn.val u d = (if d = 3 then w &&& 1 else w) ∧
          (∀ g k e, k < 128 → e < 4 → (g ≠ fn.val ∨ k ≠ u ∨ e ≠ d) → t.msixWord g k e = s.msixWord g k e) ∧
          ((∀ k, k < 128 → s.host.pba.contains (128 * fn.val + k) = false) → t.regs = s.regs ∧
            t.host = { s.host with msix := t.host.msix })))) ∧
  (∀ (fn : FnId) (p : Page) (v : W64) (s : State), s.hostUp fn = true → s.pageThere p = true → s.mayWrite fn p = true →
      let w : W32 := v.setWidth 32
      let write (o : Nat) : Host.Outcome State Fault Refusal := exec (.registerWrite fn (BitVec.ofNat 26 (p.base + o)) 4 v) s
      let risen (t : State) : State := if s.sourceHigh p.source = false ∧ t.sourceHigh p.source = true then t.deliver p.source else t
      let en := risen (s.setPg p PG_CTRL ((s.pg p PG_CTRL &&& ~~~1#32) ||| (w &&& 1#32)))
      (∀ (c : CoreId) (x : CtxId), p = .ctx c x → write PG_CTRL =
        .next (if bit w 1 then (en.setFreeze c x (bit w 2)).resetCtx c x else en.setFreeze c x (bit w 2))) ∧
      (∀ c : CoreId, p = .seq c → write PG_CTRL = .next (if bit w 1 then en.resetCore c else en)) ∧
      ((∀ c x, p ≠ .ctx c x) → (∀ c, p ≠ .seq c) → write PG_CTRL = .next en) ∧
      write PG_EVT_EN = .next (risen (s.setPg p PG_EVT_EN ((s.pg p PG_EVT_EN &&& ~~~0x3F#32) ||| (w &&& 0x3F#32)))) ∧
      (let r := s.setPg p PG_CNT_CTRL ((s.pg p PG_CNT_CTRL &&& ~~~1#32) ||| (w &&& 1#32))
       write PG_CNT_CTRL = .next (if bit w 1 then r.clearCounters p else r))) ∧
  (∀ (fn : FnId) (p : Page) (s : State), s.hostUp fn = true → s.pageThere p = true → s.mayWrite fn p = true →
      (∀ b : W32, exec (.pgEvtClear fn p b) s =
        .next (if (s.setPg p PG_EVT_RAW (s.pg p PG_EVT_RAW &&& ~~~b)).sourceHigh p.source
          then (s.setPg p PG_EVT_RAW (s.pg p PG_EVT_RAW &&& ~~~b)).deliver p.source
          else s.setPg p PG_EVT_RAW (s.pg p PG_EVT_RAW &&& ~~~b))) ∧
      (∃ t : State, exec (.counterClear fn p) s = .next t ∧ (∀ i, i < 24 → t.pg64 p (PG_CNT i) = 0) ∧
        (∀ (q : Page) (o : Nat), o < 0x1000 → o % 4 = 0 → (q ≠ p ∨ o < 0x40 ∨ 0x100 ≤ o) → t.pg q o = s.pg q o) ∧ t = { s with regs := t.regs }))

/-- Reads with an effect, each completed to the host. PG_ERR_CODE_READ returns the code, makes it zero and latches the four details, which
a later record leaves as latched (R411). A read of a low half latches the high half, and the next read of the high half returns what was
latched (R13); other sizes than 4 or 8 aligned bytes complete with Unsupported Request (R400). FU_MON_STAT_READ latches the monitor's sums
and ratio (R241); in the ac of an OPT on the monitor it returns and latches the old ones (R244). STO_CE_ADDR_READ clears the register
(R288). -/
def Obligations.ReadsWithEffects : Prop :=
  ∀ (fn : FnId) (s : State), s.hostUp fn = true → s.recovery = false →
    (∀ p : Page, s.pageThere p = true → s.mayRead fn p PG_ERR_CODE = true → (s.high.find? fun e => e.1 == p.base + PG_ERR_CODE) = none →
      ∃ t : State, exec (.pgErrCodeRead fn p) s = .next t ∧ t.host.cpl = [dataCpl (toLe 4 (s.pg p PG_ERR_CODE).toNat)] ∧
        t.pg p PG_ERR_CODE = 0 ∧ (∀ i : Fin 4, t.errInfo p i = s.pg p (PG_ERR_INFO0 + 4 * i.val)) ∧
        (∀ (r : Rec) (i : Fin 4), (t.record p r).errInfo p i = s.pg p (PG_ERR_INFO0 + 4 * i.val)) ∧
        t = { s with regs := (s.setPg p PG_ERR_CODE 0).regs, info := t.info, host := { s.host with cpl := t.host.cpl } }) ∧
    (∀ (p : Page) (o : Nat), o < 0x1000 → o % 4 = 0 → s.pageThere p = true → s.mayRead fn p o = true → lowHalf p o = true →
      (s.high.find? fun e => e.1 == p.base + o) = none →
      ∃ t : State, exec (.highHalfLatchRead fn (BitVec.ofNat 26 (p.base + o)) 4) s = .next t ∧
        t.host.cpl = [dataCpl (toLe 4 (s.shown p o).toNat)] ∧
        (t.high.find? fun e => e.1 == p.base + o + 4) = some (p.base + o + 4, s.shown p (o + 4)) ∧
        t = { s with high := t.high, host := { s.host with cpl := t.host.cpl } }) ∧
    (∀ (p : Page) (o : Nat) (v : W32), o < 0x1000 → o % 4 = 0 → s.pageThere p = true → s.mayRead fn p o = true →
      (s.high.find? fun e => e.1 == p.base + o) = some (p.base + o, v) →
      exec (.highHalfLatchRead fn (BitVec.ofNat 26 (p.base + o)) 4) s =
        .next { s with high := s.high.filter (fun e => e.1 != p.base + o), host := { s.host with cpl := [dataCpl (toLe 4 v.toNat)] } }) ∧
    (∀ (off : BitVec 26) (size : Nat), ¬ (size = 4 ∧ off.toNat % 4 = 0) → ¬ (size = 8 ∧ off.toNat % 8 = 0) →
      exec (.highHalfLatchRead fn off size) s = .next { s with host := { s.host with cpl := [urCpl] } }) ∧
    (∀ (c : CoreId) (n : Fin 64), s.enabled c = true → s.mayRead fn (.fu c) (FU_MON_STAT n.val) = true →
      (s.high.find? fun e => e.1 == (Page.fu c).base + FU_MON_STAT n.val) = none →
      ∃ t : State, exec (.fuMonStatRead fn c n) s = .next t ∧
        t.host.cpl = [dataCpl (toLe 4 (s.monOld c n.val 3).toNat)] ∧ (∀ f, f < 3 → t.monShown c n.val f = s.monOld c n.val f) ∧
        ((∀ o ∈ (s.core c).monAc, o.n ≠ n.val) → s.monOld c n.val 0 = s.pg (.fu c) (FU_MON_USQ n.val) ∧
          s.monOld c n.val 1 = s.pg (.fu c) (FU_MON_WSQ n.val) ∧ s.monOld c n.val 2 = s.pg (.fu c) (FU_MON_RATIO n.val) ∧
          s.monOld c n.val 3 = s.pg (.fu c) (FU_MON_STAT n.val)) ∧
        (∀ o, (s.core c).monAc.find? (fun o => o.n == n.val) = some o → s.monOld c n.val 0 = o.usq ∧ s.monOld c n.val 1 = o.wsq ∧
          s.monOld c n.val 2 = o.ratio ∧ s.monOld c n.val 3 = o.stat) ∧
        t = { (s.modCore c fun k => { k with monLatch := (t.core c).monLatch, monAc := (t.core c).monAc }) with
          host := { s.host with cpl := t.host.cpl } }) ∧
    (∀ c : CoreId, s.enabled c = true → s.mayRead fn (.sto c) STO_CE_ADDR = true →
      (s.high.find? fun e => e.1 == (Page.sto c).base + STO_CE_ADDR) = none →
      exec (.stoCeAddrRead fn c) s = .next { (s.setPg (.sto c) STO_CE_ADDR 0) with
        host := { s.host with cpl := [dataCpl (toLe 4 (s.pg (.sto c) STO_CE_ADDR).toNat)] } })

/-- BAR2_READ: when every byte named is reached through the function's windows, it returns the bytes as the function's key sees them, in
completions that end at each multiple of 512 bytes (R398, log entry 15), with EP where a poisoned word is among a completion's (R400); a
completion with a line whose request timed out is poison throughout, its data free (R333; log entry 30). When a byte is not reached the
read as a whole completes with Unsupported Request (R406; that it is the whole is log entry 36, DEDUCED), and so does an AtomicOp (R398).
BAR2_WRITE stores each enabled byte that is reached at its package address, in the cellar under the function's key, and drops the others;
of two bytes mapped to one address the later stays; EP poisons every word it touches; every other byte and word outside the cellar, and
every other line of the cellar, is as before (R332, R334, R400, R406). -/
def Obligations.Bar2 : Prop :=
  (∀ (fn : FnId) (off len : Nat) (atomic : Bool) (dev : DevAns) (s : State), s.hostUp fn = true → s.recovery = false →
      off + len ≤ s.bar2Bytes fn →
      let ads := (List.range len).filterMap fun i => s.bar2Map fn (off + i)
      let late := s.hostLate dev ads
      let p := s.hostPoison dev ads
      (atomic = true → exec (.bar2Read fn off len atomic dev) s = .next { s with host := { s.host with cpl := [urCpl] } }) ∧
      (atomic = false → (∃ i, i < len ∧ s.bar2Map fn (off + i) = none) →
        exec (.bar2Read fn off len atomic dev) s = .next { s with host := { s.host with cpl := [urCpl] } }) ∧
      (atomic = false → 1 ≤ len → (∀ i, i < len → (s.bar2Map fn (off + i)).isSome = true) →
        ∃ t : State, exec (.bar2Read fn off len atomic dev) s = .next t ∧
          t = { p with regs := t.regs, host := t.host, mgmt := t.mgmt, mesh := t.mesh } ∧
          t.host.cpl = ((splitAtBounds 512 len off ads).map fun e =>
            let lost := e.2.any fun a => late.contains (a / 64)
            { ur := false, crs := false, ep := lost || e.2.any fun a => p.mem.poisonAt (a / 8),
              data := e.2.map fun a => if lost then Config.unmappedByte a else p.mem.see (s.keyOf fn.val) a }) ∧
          (late = [] → t.mgmt = s.mgmt ∧ t.host = { s.host with cpl := t.host.cpl }))) ∧
  (∀ (fn : FnId) (off : Nat) (data : List (Option Byte)) (ep : Bool) (dev : DevAns) (s : State), s.hostUp fn = true → s.recovery = false →
      data.length ≤ 512 → off + data.length ≤ s.bar2Bytes fn →
      let puts (i a : Nat) (b : Byte) : Prop := data[i]? = some (some b) ∧ s.bar2Map fn (off + i) = some a
      let lateLine (a : Nat) : Prop := (s.celPort a).isSome = true ∧ a / 64 ∈ dev.late
      ∃ t : State, exec (.bar2Write fn off data ep dev) s = .next t ∧
        (∀ i a b, puts i a b → (∀ j b', i < j → ¬ puts j a b') → ¬ lateLine a → t.mem.see (s.keyOf fn.val) a = b) ∧
        (∀ i a b, puts i a b → ¬ lateLine a → ep = true → t.mem.poisonAt (a / 8) = true) ∧
        (∀ a, inCellar a = false → (∀ i b, ¬ puts i a b) → t.mem.byte a = s.mem.byte a) ∧
        (∀ w, inCellar (8 * w) = false → (∀ i a b, puts i a b → a / 8 ≠ w) →
          t.mem.feAt w = s.mem.feAt w ∧ t.mem.poisonAt w = s.mem.poisonAt w) ∧
        (∀ a, inCellar a = true → (∀ i a' b, puts i a' b → a' / 64 ≠ a / 64) → t.mem.byte a = s.mem.byte a) ∧
        ((∀ i a b, puts i a b → ¬ lateLine a) → t.mgmt = s.mgmt ∧ t.host = s.host) ∧ t.loft = s.loft ∧ t.power = s.power)

/-! ## Sequencer commands -/

/-- TBUILD, TILE, STILE, DRAIN, MOVE, FILL, COPY, XPOSE, FIN, OPT and RSIGNAL: a command whose checks pass is counted, CTX_PC moves on
under R213, and the command, with what it sampled at issue, joins the queue of its unit (R186, R188, R195, R213, R253). An RSIGNAL with
data for a port that is not UP goes to no queue: its queue halts, its signal is withheld, and its context's page records LINK_LOST (R372,
R374). -/
def Obligations.UnitCommandsIssue : Prop :=
  ∀ r ∈ seqRows, ∀ (c : CoreId) (x : CtxId) (w : Cmd) (s : State) (u : Nat),
    s.clears c x (withOpcode w r.1) = true → unitOf (withOpcode w r.1) = some u →
    let j := s.headJob c x (withOpcode w r.1)
    let i := (((s.atHead c x (withOpcode w r.1)).countIssue c x u).stepPc c x (s.headOff c x)).noteBuild c j
    let lost := r.1 = OP_RSIGNAL ∧ rsBytes (withOpcode w r.1) ≠ 0 ∧ s.linkUp (rsPort (withOpcode w r.1)) = false
    (¬ lost → exec (r.2 c x w) s = .next ((i.enqueue c u j).settle c)) ∧
    (lost → ∃ e : State, exec (r.2 c x w) s = .next (e.settle c) ∧ e = { i with regs := e.regs, cores := e.cores, mgmt := e.mgmt, host := e.host } ∧
      ((e.core c).dmaq[dmaQueueOf j.cmd]).halted = true ∧ ((e.core c).dmaq[dmaQueueOf j.cmd]).queue = ((i.core c).dmaq[dmaQueueOf j.cmd]).queue ∧
      (∃ d ∈ ((e.core c).dmaq[dmaQueueOf j.cmd]).run, d.job = j ∧ d.withheld = true) ∧ (e.core c).txns = (i.core c).txns ∧
      e.pg (.ctx c x) PG_ERR_CODE = 0x0401 ∧ bits (e.pg (.ctx c x) PG_ERR_INFO0) 0 8 = OP_RSIGNAL ∧
      bits (e.pg (.ctx c x) PG_ERR_INFO0) 8 4 = (rsPort (withOpcode w r.1)).val ∧ bit (e.pg (.ctx c x) PG_EVT_RAW) EVT_ERR = true)

/-- What such a command leaves alone as it issues from a core in which nothing is about to go on: memory, loft, every register but CTX_PC
and the issue counters, the other cores, the other contexts, the other units; its unit's queue gains it as the youngest. A DRAIN, FIN or
OPT, whose unit may start by itself, and an RSIGNAL with data to a port that is not UP are left to the equations above. -/
def Obligations.IssueDisturbsNothing : Prop :=
  ∀ r ∈ seqRows, ∀ (c : CoreId) (x : CtxId) (w : Cmd) (s : State) (u : Nat),
    s.clears c x (withOpcode w r.1) = true → unitOf (withOpcode w r.1) = some u → u ≠ 9 → s.calm c = true →
    (r.1 = OP_RSIGNAL → rsBytes (withOpcode w r.1) = 0 ∨ s.linkUp (rsPort (withOpcode w r.1)) = true) →
    ∃ t : State, exec (r.2 c x w) s = .next t ∧ t = { s with regs := t.regs, cores := t.cores } ∧
      (∀ d : CoreId, d ≠ c → t.core d = s.core d) ∧ (∀ y : CtxId, y ≠ x → t.ctx c y = s.ctx c y) ∧
      (t.ctx c x).cur = .ready ∧
      (∀ v, v < 10 → ((t.core c).unit v).exec = ((s.core c).unit v).exec ∧
        ((t.core c).unit v).queue = ((s.core c).unit v).queue ++ (if v = u then [s.headJob c x (withOpcode w r.1)] else [])) ∧
      (∀ q : QId, ((t.core c).dmaq[q]).run = ((s.core c).dmaq[q]).run ∧ ((t.core c).dmaq[q]).halted = ((s.core c).dmaq[q]).halted ∧
        ((t.core c).dmaq[q]).queue = ((s.core c).dmaq[q]).queue ++ (if 10 + q.val = u then [s.headJob c x (withOpcode w r.1)] else [])) ∧
      (t.core c).waits = (s.core c).waits ∧ (t.core c).live = (s.core c).live ++ [((s.core c).nextUid, x, u)] ∧
      (∀ (p : Page) (o : Nat), o < 0x1000 → ¬ (p = .ctx c x ∧ (o = CTX_PC ∨ o = PG_CNT 0 ∨ o = PG_CNT 0 + 4)) →
        ¬ (p = .seq c ∧ (o = PG_CNT 0 ∨ o = PG_CNT 0 + 4 ∨ o = PG_CNT 1 ∨ o = PG_CNT 1 + 4)) → t.pg p o = s.pg p o)

/-- NOP, a RERUN with threshold 0 and a PHASE of a context other than 0 have no effect but to issue, to move CTX_PC on and to post their
completion signal (R112, R167, R198). -/
def Obligations.NoOpCommands : Prop :=
  ∀ (c : CoreId) (x : CtxId) (w : Cmd) (s : State),
    (s.clears c x (withOpcode w OP_NOP) = true → exec (.nop c x w) s =
      .next (((s.seqIssued c x (withOpcode w OP_NOP)).complete c (s.headJob c x (withOpcode w OP_NOP))).settle c)) ∧
    (w[2] = 0 → s.clears c x (withOpcode w OP_RERUN) = true → exec (.rerun c x w) s =
      .next (((s.seqIssued c x (withOpcode w OP_RERUN)).complete c (s.headJob c x (withOpcode w OP_RERUN))).settle c)) ∧
    (x ≠ 0 → s.clears c x (withOpcode w OP_PHASE) = true → exec (.phase c x w) s =
      .next (((s.seqIssued c x (withOpcode w OP_PHASE)).complete c (s.headJob c x (withOpcode w OP_PHASE))).settle c))

/-- SIGNAL (R208, R296, R297, R307): 0 does nothing; a positive amount signals the word, of its own core at once, of another over the
mesh (that the own core's takes no step of its own: log entry 10, DESIGN CHOICE); a negative amount decrements, or finds UNDERFLOW at a
word that holds less, and to another core holds the context for the answer.
The word that a WAIT or a pre-wait reaches: it takes n from the count at once when no wait is queued and the count suffices; else the wait
joins the table as the youngest, and the context is in WAIT (R300). WAIT, BARRIER, FENCE (R208, R209, R300, R312, R314, R316): a WAIT for
0 completes; any other reaches its word. A BARRIER of a core outside its line's mask completes; of one inside, it enters the table and the
core arrives. A FENCE completes when nothing that it names is in flight: commands of the units named, and with the mesh bit its context's
signals and its writes to other cores' storerooms not acknowledged; else it holds its context. -/
def Obligations.SyncCommands : Prop :=
  (∀ (c : CoreId) (x : CtxId) (w : Cmd) (s : State), s.clears c x (withOpcode w OP_SIGNAL) = true →
      let i := s.seqIssued c x (withOpcode w OP_SIGNAL)
      let j := s.headJob c x (withOpcode w OP_SIGNAL)
      let e := i.mapEntry c x (cf w 1 0 8)
      let m := 0x1_0000_0000 - w[2].toNat
      (w[2] = 0 → exec (.signal c x w) s = .next ((i.complete c j).settle c)) ∧
      (w[2] ≠ 0 → w[2].msb = false → mapCore e = c → exec (.signal c x w) s =
        .next (((i.applySignal c (mapWord e) w[2].toNat (gcidOf c x)).complete c j).settle c)) ∧
      (w[2] ≠ 0 → w[2].msb = false → mapCore e ≠ c → exec (.signal c x w) s =
        .next ((i.postRemote c x { core := mapCore e, word := mapWord e } w[2].toNat false (some j)).1.settle c)) ∧
      (w[2].msb = true → mapCore e = c → m ≤ (i.syncAt c (mapWord e)).count → exec (.signal c x w) s =
        .next (((i.applyDecrement c (mapWord e) m (gcidOf c x)).1.complete c j).settle c)) ∧
      (w[2].msb = true → mapCore e = c → (i.syncAt c (mapWord e)).count < m → exec (.signal c x w) s =
        .next ((((i.applyDecrement c (mapWord e) m (gcidOf c x)).1.retire c j.uid).foundFault c x
          (underflowRec (withOpcode w OP_SIGNAL) (mapWord e) c (i.syncAt c (mapWord e)).count m) (s.headOff c x)
          (some (withOpcode w OP_SIGNAL))).settle c)) ∧
      (w[2].msb = true → mapCore e ≠ c → exec (.signal c x w) s =
        .next (((i.postRemote c x { core := mapCore e, word := mapWord e } m true (some j)).1.holdCtx c x
          (.decrement j (i.core c).nextPost)).settle c))) ∧
  (∀ (s : State) (c : CoreId) (w : Wait),
      ((s.core c).queueOn w.word = [] → w.n ≤ (s.syncAt c w.word).count →
        s.waitWord c w = ((s.putSync c w.word { s.syncAt c w.word with count := (s.syncAt c w.word).count - w.n }).countSync c, true)) ∧
      (((s.core c).queueOn w.word ≠ [] ∨ (s.syncAt c w.word).count < w.n) →
        s.waitWord c w = (((s.enqueueWait c w).putSync c w.word (s.syncAt c w.word)).countSync c, false)) ∧
      (((s.enqueueWait c w).core c).waits = (s.core c).waits ++ [w] ∧ ((s.enqueueWait c w).ctx c w.ctx).cur = .wait)) ∧
  (∀ (c : CoreId) (x : CtxId) (w : Cmd) (s : State),
      (s.clears c x (withOpcode w OP_WAIT) = true →
        let i := s.seqIssued c x (withOpcode w OP_WAIT)
        let j := s.headJob c x (withOpcode w OP_WAIT)
        let wt : Wait :=
          { ctx := x, kind := .wait, vid := BitVec.ofNat 8 (cf w 1 0 8), word := mapWord (i.mapEntry c x (cf w 1 0 8)), line := 0,
            n := w[2].toNat, tclass := tclassOf (withOpcode w OP_WAIT), remain := i.timeout c (tclassOf (withOpcode w OP_WAIT)), job := j, plan := [] }
        (w[2] = 0 → exec (.wait c x w) s = .next ((i.complete c j).settle c)) ∧
        (w[2] ≠ 0 → (i.waitWord c wt).2 = true → exec (.wait c x w) s = .next (((i.waitWord c wt).1.complete c j).settle c)) ∧
        (w[2] ≠ 0 → (i.waitWord c wt).2 = false → exec (.wait c x w) s = .next ((i.waitWord c wt).1.settle c))) ∧
      (s.clears c x (withOpcode w OP_BARRIER) = true →
        let i := s.seqIssued c x (withOpcode w OP_BARRIER)
        let j := s.headJob c x (withOpcode w OP_BARRIER)
        let l : LineId := Fin.ofNat 16 (cf w 1 0 4)
        let plan := if cb w 1 4 then
            (i.realignList c (cf w 2 0 21)).map fun (v, p) => (v, mapWord (i.mapEntry c x v.toNat), p)
          else []
        (i.inMask c l = true → exec (.barrier c x w) s =
          .next (((i.enqueueWait c (lineWait i c j .barrier l plan)).arrive l c true).settle c)) ∧
        (i.inMask c l = false → exec (.barrier c x w) s = .next (((i.bump .pkg 1 1).complete c j).settle c))) ∧
      (s.clears c x (withOpcode w OP_FENCE) = true →
        let i := s.seqIssued c x (withOpcode w OP_FENCE)
        let j := s.headJob c x (withOpcode w OP_FENCE)
        let uids := ((i.core c).live.filter fun e => fenceNames (withOpcode w OP_FENCE) e.2.2).map (·.1)
        let posts := if cb w 1 18 then ((i.core c).posts.filter fun p => p.ctx == x).map (·.num) ++
            ((i.core c).txns.filter fun t => t.ctx == x).filterMap (·.num) else []
        (uids = [] → posts = [] → exec (.fence c x w) s = .next ((i.complete c j).settle c)) ∧
        (¬ (uids = [] ∧ posts = []) → exec (.fence c x w) s = .next ((i.holdCtx c x (.fence j uids posts)).settle c))))

/-- LOOP and JUMP (R213): a LOOP of count or length 0 goes on behind its body; any other makes its level active, in place of what the
level held, and goes on at its body. A JUMP goes on at its target and ends every level whose body does not hold the target. -/
def Obligations.LoopsAndJumps : Prop :=
  ∀ (c : CoreId) (x : CtxId) (w : Cmd) (s : State),
    (s.clears c x (withOpcode w OP_LOOP) = true →
      let i := (s.atHead c x (withOpcode w OP_LOOP)).countIssue c x U_SEQ
      let j := s.headJob c x (withOpcode w OP_LOOP)
      let v := (s.atHead c x (withOpcode w OP_LOOP)).shapeOf c x (withOpcode w OP_LOOP) 4
      (v = 0 ∨ cf w 3 0 24 = 0 → exec (.loop c x w) s = .next (((i.setPc c x (s.headOff c x + cf w 3 0 24 + 1)).complete c j).settle c)) ∧
      (v ≠ 0 → cf w 3 0 24 ≠ 0 → exec (.loop c x w) s =
        .next ((((i.modCtx c x fun t =>
          { t with loops := { lvl := cf w 2 8 3, start := s.headOff c x + 1, stop := s.headOff c x + cf w 3 0 24, count := v } ::
              t.loops.filter fun l => l.lvl != cf w 2 8 3 }).setPc c x (s.headOff c x + 1)).complete c j).settle c))) ∧
    (s.clears c x (withOpcode w OP_JUMP) = true → exec (.jump c x w) s =
      .next ((((((s.atHead c x (withOpcode w OP_JUMP)).countIssue c x U_SEQ).modCtx c x fun t =>
        { t with loops := t.loops.filter fun l => decide (l.start ≤ cf w 1 0 24 ∧ cf w 1 0 24 ≤ l.stop) }).setPc c x
          (cf w 1 0 24)).complete c (s.headJob c x (withOpcode w OP_JUMP))).settle c))

/-- The command at an offset ends loop bodies (R213): of the active levels that end there, most recently entered first, each that has one
pass left becomes inactive, and the first that has more counts down and is where the stream goes on; no level after it changes. -/
def Obligations.LoopEnds : Prop :=
  ∀ (y : Nat) (ls : List Loop),
    ((∀ l ∈ ls, l.stop = y → l.count ≤ 1) → loopScan y ls = (ls.filter (fun l => l.stop != y), none)) ∧
    (∀ (a b : List Loop) (l : Loop), ls = a ++ l :: b → (∀ k ∈ a, k.stop = y → k.count ≤ 1) → l.stop = y → 1 < l.count →
      loopScan y ls = (a.filter (fun k => k.stop != y) ++ { l with count := l.count - 1 } :: b, some l.start))

/-- HALT, RERUN and a PHASE of context 0 hold their context: the HALT and the RERUN until the context's earlier commands have completed
(R108, R211), the PHASE, whose request goes to bay 14 (R386), until its decision (R168); the end of a stream acts as a HALT with code
0xFFFF (R181). A context halted has CTX_HALT's code and the halt event. A RERUN whose earlier commands have completed (R109 to R111):
its tag's count is snapshot, and cleared with the clear bit. Not pooled, it goes on at the next command below the threshold, at its
target from the threshold on, and with target 0 it finds RERUN's fault 0x0108; FU_RERUN_STAT and FU_RERUN_SUM take the outcome.
COMMAND_FETCH_RANGE_FAULT holds the context for the record of the lowest byte out of reach, and FAULT_RECORD, with nothing of the
context in flight, makes it FAULTED at the command (R219). That the end of a stream counts as an issued command is log entry 29,
DEDUCED. -/
def Obligations.HoldingCommands : Prop :=
  (∀ (c : CoreId) (x : CtxId) (w : Cmd) (s : State),
      (s.clears c x (withOpcode w OP_HALT) = true → exec (.halt c x w) s =
        .next (((s.seqIssued c x (withOpcode w OP_HALT)).holdCtx c x
          (.halt (s.headJob c x (withOpcode w OP_HALT)) (BitVec.ofNat 16 (cf w 1 0 16)))).settle c)) ∧
      (s.clears c x (withOpcode w OP_RERUN) = true → w[2] ≠ 0 → exec (.rerun c x w) s =
        .next ((((s.atHead c x (withOpcode w OP_RERUN)).countIssue c x U_SEQ).holdCtx c x
          (.rerun (s.headJob c x (withOpcode w OP_RERUN)))).settle c)) ∧
      (s.clears c 0 (withOpcode w OP_PHASE) = true → exec (.phase c 0 w) s =
        .next (((((s.atHead c 0 (withOpcode w OP_PHASE)).countIssue c 0 U_SEQ).holdCtx c 0
          (.phase (s.headJob c 0 (withOpcode w OP_PHASE)) (cf w 1 0 16) none)).carry (bayOf c) mgtBay false).settle c)) ∧
      (s.mayIssue c x = true → s.fetch c x = .theEnd → exec (.implicitHalt c x) s =
        .next (((s.countIssue c x U_SEQ).holdCtx c x
          (.halt (s.mkJob c x (withOpcode Cmd.zero OP_HALT) Desc.zero (s.headOff c x)) 0xFFFF)).settle c)) ∧
      (∀ (j : Job) (code : W16), j.ctx = x → j.sig = none → (s.ctx c x).run ≠ .frozen →
        ((s.haltDone c j code).ctx c x).run = .halted ∧ (s.haltDone c j code).pg (.ctx c x) CTX_HALT = w32 code.toNat ∧
          bit ((s.haltDone c j code).pg (.ctx c x) PG_EVT_RAW) EVT_HALT = true) ∧
      (∀ a : Nat, s.mayIssue c x = true → s.fetch c x = .outside a → ∃ t : State, exec (.commandFetchRangeFault c x) s = .next t ∧
        (t.ctx c x).hold = .fault (mkRec 0x0106 0 a (a >>> 32 % 0x1_0000) 0) (s.headOff c x) ∧ (t.ctx c x).cur = .hold ∧
        t = { s with cores := t.cores } ∧ (∀ y : CtxId, y ≠ x → t.ctx c y = s.ctx c y) ∧ ∀ d : CoreId, d ≠ c → t.core d = s.core d) ∧
      (∀ (r : Rec) (off : Nat), s.coreUp c = true → (s.core c).resetting = false → (s.ctx c x).hold = .fault r off →
        (s.core c).busy x = false → exec (.faultRecord c x) s =
          .next (((s.modCtx c x fun t => { (t.go .faulted) with hold := .free, pend := false, late := false, pre := false }).setPg (.ctx c x)
            CTX_PC (w32 off)).recordFault (.ctx c x) r))) ∧
  (∀ (s : State) (c : CoreId) (j : Job), rerunPooled j.cmd = false → (s.ctx c j.ctx).hold = .rerun j → (s.core c).alone j.ctx j.uid = true →
      (s.ctx c j.ctx).resetting = false →
      let v := (s.pg (.fu c) (FU_QSAT_CNT (satTag j.cmd))).toNat
      let r := s.rerunSnap c j
      (r.pg (.fu c) (FU_QSAT_SNAP (satTag j.cmd)) = s.pg (.fu c) (FU_QSAT_CNT (satTag j.cmd)) ∧
        r.pg (.fu c) (FU_QSAT_CNT (satTag j.cmd)) = if cb j.cmd 1 6 then 0 else s.pg (.fu c) (FU_QSAT_CNT (satTag j.cmd))) ∧
      (v < j.cmd[2].toNat → s.settleCtx c j.ctx =
        ((((r.setRerun c j false false false v).stepPc c j.ctx j.off).unholdCtx c j.ctx).complete c j, true)) ∧
      (j.cmd[2].toNat ≤ v → cf j.cmd 3 0 24 ≠ 0 → s.settleCtx c j.ctx =
        ((((r.setRerun c j false true false v).setPc c j.ctx (cf j.cmd 3 0 24)).unholdCtx c j.ctx).complete c j, true)) ∧
      (j.cmd[2].toNat ≤ v → cf j.cmd 3 0 24 = 0 → s.settleCtx c j.ctx =
        (((r.setRerun c j false false true v).retire c j.uid).foundFault c j.ctx
          (mkRec 0x0108 (satTag j.cmd) v j.cmd[2].toNat 0) j.off (some j.cmd), true)))

/-- A command that does not issue (R187, R218, R219): with its queue full or its ord flag waiting, the context is in HOLD; with a check
failed, the fault waits to be recorded and nothing is started; with its pre-wait not passed, the context waits at the word, with the
descriptor it has read (R195), which it reads when a restore has brought the passed pre-wait back without it. A context that may not
issue issues nothing. What the checks find (R115, R117, R162, R165, R218, R221): an undefined opcode before everything else; XPOSE by a
context without priv; a run-time shape above its planned maximum, with the field, the selector, the value and the maximum; of a TILE, an
STILE or a DRAIN, a slot beyond the loft's partition or an M beyond what a slot holds, 256 / 2^n in an engine group and 128 / 2^n in the
sparse engines, and no other LOFT_RANGE. COMMAND_FETCH_RANGE_FAULT and FAULT_RECORD (R179, R219): a command with a byte out of reach
faults with STO_RANGE and the lowest such byte; a fault is recorded once the context has nothing left in flight: FAULTED, CTX_PC at the
command, the record in the context's page. -/
def Obligations.CommandsNotIssued : Prop :=
  (∀ r ∈ seqRows, ∀ (c : CoreId) (x : CtxId) (w : Cmd) (s : State),
      let v := withOpcode w r.1
      let h := s.atHead c x v
      let d := s.headDesc c x v
      let pre := (h.ctx c x).pre
      let fault := if pre = true ∧ (h.ctx c x).desc.isSome = true then h.headFault c x v d else h.earlyFault c x v d none
      let off := s.headOff c x
      (s.mayIssue c x = false → exec (r.2 c x w) s = .next s) ∧
      (s.mayIssue c x = true → (h.core c).holdsHead x v = true → exec (r.2 c x w) s = .next (h.holdCtx c x .head)) ∧
      (s.mayIssue c x = true → (h.core c).holdsHead x v = false →
        (∀ f, fault = some f → exec (r.2 c x w) s = .next ((h.foundFault c x f off (some v)).settle c)) ∧
        (fault = none →
          (∀ f, (flagPw v = false ∨ pre = true) → h.lateFault c x v d off = some f →
            exec (r.2 c x w) s = .next ((h.foundFault c x f off (some v)).settle c)) ∧
          (flagPw v = true → pre = false → (h.waitWord c (h.preWaitOf c x v off)).2 = false →
            exec (r.2 c x w) s = .next (((h.waitWord c (h.preWaitOf c x v off)).1.modCtx c x fun t => { t with desc := some d }).settle c)) ∧
          (flagPw v = true → pre = false → (h.waitWord c (h.preWaitOf c x v off)).2 = true →
            exec (r.2 c x w) s = .next (((h.waitWord c (h.preWaitOf c x v off)).1.issueLate c x v d off).settle c))))) ∧
  (∀ (s : State) (c : CoreId) (x : CtxId) (w : Cmd) (d : Desc) (off : Nat),
      (opcodes.contains (opcode w) = false → s.headFault c x w d = some (mkRec 0x0101 0 w[0].toNat 0 0)) ∧
      (s.mem.poison = [] → s.earlyFault c x w d none = s.headFault c x w d) ∧
      (opcode w = OP_XPOSE → bit (s.pg (.ctx c x) CTX_CFG) 2 = false →
        fieldFail { phaseCnt := (s.pg (.seq c) SEQ_PHASE_CNT).toNat, ctxLen := (s.pg (.ctx c x) CTX_LEN).toNat } w d = none →
        s.headFault c x w d = some (mkRec 0x0105 OP_XPOSE 0 0 0)) ∧
      (opcode w = OP_TILE → 1 ≤ cf w 4 9 4 → cf w 4 0 9 < (s.pg (.ctx c x) (CTX_SHAPE (cf w 4 9 4 - 1))).toNat →
        s.lateFault c x w d off = some (mkRec 0x0103 (OP_TILE + cf w 4 9 4 <<< 12) (s.pg (.ctx c x) (CTX_SHAPE (cf w 4 9 4 - 1))).toNat
          (cf w 4 0 9) off)) ∧
      (∀ u slot : Nat, (opcode w = OP_TILE ∧ u = cf w 1 21 3 ∧ slot = cf w 1 25 5) ∨ (opcode w = OP_STILE ∧ u = 8 ∧ slot = cf w 1 25 5) ∨
          (opcode w = OP_DRAIN ∧ u = cf w 1 0 4 ∧ slot = cf w 1 4 5) → s.shapeFail c x w off = none →
        let n := bits (s.pg (unitPage c u) LOFT_CFG) 0 3
        let m := s.shapeOf c x w 0
        (2 ^ min n 5 ≤ slot ∨ (if u = 8 then 128 else 256) / 2 ^ min n 5 < m →
          s.lateFault c x w d off = some (mkRec 0x0104 (opcode w + u <<< 8 + slot <<< 13 + n <<< 18) m 0 0)) ∧
        (slot < 2 ^ min n 5 → m ≤ (if u = 8 then 128 else 256) / 2 ^ min n 5 → s.loftFail c x w = none)) ∧
      (opcode w ≠ OP_TILE → opcode w ≠ OP_STILE → opcode w ≠ OP_DRAIN → s.loftFail c x w = none)) ∧
  (∀ (c : CoreId) (x : CtxId) (s : State),
      (∀ a : Nat, s.mayIssue c x = true → s.fetch c x = .outside a → exec (.commandFetchRangeFault c x) s =
        .next (s.foundFault c x (mkRec 0x0106 0 a (a >>> 32 % 0x1_0000) 0) (s.headOff c x) none)) ∧
      (∀ (r : Rec) (off : Nat), s.coreUp c = true → (s.core c).resetting = false → (s.ctx c x).hold = .fault r off →
        ((s.core c).busy x = true → exec (.faultRecord c x) s = .next s) ∧
        ((s.core c).busy x = false → ∃ t : State, exec (.faultRecord c x) s = .next t ∧
          (t.ctx c x).cur = .faulted ∧ (t.ctx c x).pend = false ∧ t.pg (.ctx c x) CTX_PC = w32 off ∧
          t.pg (.ctx c x) PG_ERR_CODE = w32 r.code.toNat ∧ t.pg (.ctx c x) PG_ERR_INFO0 = r.i0 ∧
          bit (t.pg (.ctx c x) PG_EVT_RAW) EVT_FAULT = true ∧ t.mem = s.mem ∧ t.loft = s.loft ∧
          (∀ y : CtxId, y ≠ x → t.ctx c y = s.ctx c y) ∧ (∀ e : CoreId, e ≠ c → t.core e = s.core e))))

/-- ISSUE_ARBITRATION is one ac (R187 to R189): with no eligible context nothing issues; a context granted issues its head, but after
another context's command only from 8 ac on, and until then the grant stands. At its end an eligible context whose head the issue, or the
grant that stands, has shut out of its queue is in HOLD, and no other context changes (R191). -/
def Obligations.IssueArbitration : Prop :=
  ∀ (c : CoreId) (s : State),
    let shut (t : State) : State :=
      ((List.finRange 4).foldl (fun t x => t.holdLoser c x) t).modCore c fun k => { k with eccRead := [], lateRead := [] }
    (s.coreUp c = true →
      let p := s.acReady c
      (p.granted c = none → exec (.issueArbitration c) s = .next (shut p)) ∧
      (∀ (x : CtxId) (aged : Bool), p.granted c = some (x, aged) →
        let q := p.bump (.seq c) 2 (bn aged)
        let a := (p.core c).arb
        ((a.last = none ∨ a.last = some x ∨ 8 ≤ a.since) → exec (.issueArbitration c) s =
          .next (shut ((q.modCore c fun k => { k with arb := { k.arb with grant := none } }).issueFetched c x))) ∧
        (∀ y : CtxId, a.last = some y → y ≠ x → a.since < 8 → exec (.issueArbitration c) s =
          .next (shut (q.modCore c fun k => { k with arb := { k.arb with grant := some x } }))))) ∧
    (∀ x : CtxId,
      (∀ w, (s.ctx c x).head = some w → s.eligible c x = true → ((s.core c).holdsHead x w = true ∨ s.shutOut c x w = true) →
        s.holdLoser c x = s.holdCtx c x .head) ∧
      ((∀ w, (s.ctx c x).head = some w → s.eligible c x = false ∨ ((s.core c).holdsHead x w = false ∧ s.shutOut c x w = false)) →
        s.holdLoser c x = s) ∧
      (∀ (w v : Cmd) (y : CtxId) (u : Nat), (s.core c).arb.grant = some y → y ≠ x → s.eligible c y = true → (s.ctx c y).head = some v →
        unitOf v = some u → unitOf w = some u → (s.shutOut c x w = true ↔ (s.core c).freeSlots u ≤ 1)) ∧
      ((s.core c).arb.grant = none → ∀ w, s.shutOut c x w = false) ∧
      ∀ y : CtxId, y ≠ x → (s.holdLoser c y).ctx c x = s.ctx c x)

/-- The grant (R188): only an eligible context is granted; when one is eligible, one is granted; with SEQ_AGE_LIMIT above 0 and no grant
standing, an aged context is granted when there is one, and of all contexts the oldest, the lower number first. -/
def Obligations.GrantIsFair : Prop :=
  ∀ (s : State) (c : CoreId), (∀ x : CtxId, (s.core c).arb.age[x] ≠ 0 → s.eligible c x = true) →
    (∀ (x : CtxId) (b : Bool), s.granted c = some (x, b) → s.eligible c x = true) ∧
    (∀ x : CtxId, s.eligible c x = true → s.granted c ≠ none) ∧
    (∀ x : CtxId, (s.core c).arb.grant = none → s.pg (.seq c) SEQ_AGE_LIMIT ≠ 0 →
      (s.pg (.seq c) SEQ_AGE_LIMIT).toNat + 1 ≤ (s.core c).arb.age[x] →
      ∃ y : CtxId, s.granted c = some (y, true) ∧ ∀ z : CtxId, (s.core c).arb.age[z] ≤ (s.core c).arb.age[y] ∧
        ((s.core c).arb.age[z] = (s.core c).arb.age[y] → y ≤ z))

/-! ## Engines and the finishing unit -/

/-- A sweep, a TILE, an STILE or a DRAIN starts when its interlocks let it (R45, R47, R64, R122, R143, R258): a TBUILD at the head of its
unit's queue when no earlier TILE reads the buffer it writes, or once a pass of such a TILE has ended and released it; the end of a low
sweep fills its table and begins the high sweep when the other buffer is free; a TILE, whose guard is ignored in mode OFF (R262), when its
set is complete, no earlier DRAIN has still to read its slot and the TILE before it has read its last plane; one that still has such a
read to come ends it then; a DRAIN when the unit is idle and the TILEs before it that write its slot are over, and its first read clears
the slot's saturation bit and latches ACC_SAT. -/
def Obligations.UnitStarts : Prop :=
  ∀ (c : CoreId) (s : State), s.unitUp c = true →
    (∀ (u : UnitId) (j : Job) (r : List Job), ((s.core c).unit u.val).exec.find? isBuild = none → ((s.core c).unit u.val).queue = j :: r →
      isBuild j = true →
      let e := s.stepPass c u.val
      (((s.core c).unit u.val).bufFree j (buildBuf j.cmd) = true → exec (.tbuildSweepStart c u) s =
        .next (s.startHead c u.val { j with stage := if twoSweeps j then 1 else 3 })) ∧
      (((s.core c).unit u.val).bufFree j (buildBuf j.cmd) = false → e.unitUp c = true →
        ((e.core c).unit u.val).bufFree j (buildBuf j.cmd) = true → exec (.tbuildSweepStart c u) s =
        .next (e.startHead c u.val { j with stage := if twoSweeps j then 1 else 3 }))) ∧
    (∀ (u : UnitId) (j : Job), ((s.core c).unit u.val).exec.find? isBuild = some j →
      let t := s.setTable c u.val (buildBuf j.cmd) (s.sweepTable c j .low)
      let next (t : State) : State :=
        let e := t.freeBuf c u.val j (1 - buildBuf j.cmd)
        if e.unitUp c then
          e.replaceJob c u.val { j with stage := if ((e.core c).unit u.val).bufFree j (1 - buildBuf j.cmd) then 3 else 2 }
        else e
      (j.stage = 1 → (∀ w, s.jobPoison c j = some w → exec (.tbuildSweepStart c u) s =
        .next (s.coreFault c u.val (poisonRec (opcode j.cmd) j.ctx u.val 1 w false)))) ∧
      (j.stage = 1 → s.jobPoison c j = none → exec (.tbuildSweepStart c u) s = .next (next t)) ∧
      (j.stage = 2 → exec (.tbuildSweepStart c u) s = .next (next s)) ∧
      (((s.core c).unit u.val).bufFree j (1 - buildBuf j.cmd) = true → next s = s.replaceJob c u.val { j with stage := 3 })) ∧
    (∀ e ∈ (8, Instr.stileStart c) :: (List.finRange 8).map fun (g : GrpId) => (g.val, Instr.tileStart c g),
      ∀ (j : Job) (r : List Job), ((s.core c).unit e.1).queue = j :: r → isTile j = true →
        let k : Job := if j.guard = .waiting ∧ s.skipMode c = MODE_OFF then { j with guard := .free } else j
        let t := s.clearWay c e.1 k
        (k.guard = .waiting ∨ ((s.core c).unit e.1).setReady k = false → exec e.2 s = .next s) ∧
        ((s.core c).canStart e.1 k = true → exec e.2 s = .next (s.startHead c e.1 k)) ∧
        (k.guard ≠ .waiting → ((s.core c).unit e.1).setReady k = true → exec e.2 s =
          .next (if t.unitUp c && (t.core c).canStart e.1 k then t.startHead c e.1 k else t))) ∧
    (∀ (j : Job) (r : List Job), ((s.core c).unit 9).exec = [] → ((s.core c).unit 9).queue = j :: r → isDrain j = true →
      ((s.core c).drainReady j = false → exec (.drainStart c) s = .next s) ∧
      ((s.core c).drainReady j = true → drainNoop j = false → cf j.cmd 1 9 2 ≠ 2 → s.slotSat c (engUnit j.cmd) (slotOf j.cmd) = true →
        exec (.drainStart c) s = .next (((s.startHead c 9 j).setSlotSat c (engUnit j.cmd) (slotOf j.cmd) false).event (.ctx c j.ctx)
          EVT_ACCSAT)) ∧
      ((s.core c).drainReady j = true →
        (drainNoop j = true ∨ cf j.cmd 1 9 2 = 2 ∨ s.slotSat c (engUnit j.cmd) (slotOf j.cmd) = false) →
        exec (.drainStart c) s = .next (s.startHead c 9 j)))

/-- TBUILD_COMPLETE (R45, R142, R249): the last sweep writes its table set, or the sparse engines' slot set; a group captures the key
summaries that the skip registers ask for and counts the TBUILD; the command completes. With poison in what it reads, the core faults
(R421). A pass of a TILE or STILE ends (R47, R61, R144, R162): zero M, N or K_unroll reads and writes nothing; a zero run-time K under
overwrite writes (+0, +0); any other delivers its pairs; before a second pass no earlier TBUILD may have the other buffer still to write.
TILE_COMPLETE and STILE_COMPLETE (R61, R63, R118, R144, R151, R152, R416): the oldest one in execution completes after its last pass, is
counted, and counted once more when a pair of it saturated; an STILE that ran a slot set then shows the set's packing in SE_LAST_STILE, and
its dense-stored tiles are counted (R147). -/
def Obligations.EngineCompletes : Prop :=
  (∀ (c : CoreId) (u : UnitId) (j : Job) (s : State), s.unitUp c = true → ((s.core c).unit u.val).exec.find? isBuild = some j → j.stage = 3 →
      (∀ w, s.jobPoison c j = some w → exec (.tbuildComplete c u) s =
        .next (s.coreFault c u.val (poisonRec (opcode j.cmd) j.ctx u.val 1 w false))) ∧
      (s.jobPoison c j = none → u.val = 8 →
        let ss := buildSlotSet s.mem c (cf j.cmd 1 0 21) (cf j.cmd 2 0 16) (buildW j.cmd)
        exec (.tbuildComplete c u) s =
          .next ((s.modCore c fun k => { k with slotSets := k.slotSets.set (Fin.ofNat 2 (buildBuf j.cmd)) ss }).finishJob c 8 j)) ∧
      (s.jobPoison c j = none → u.val ≠ 8 → exec (.tbuildComplete c u) s =
        .next ((((if twoSweeps j then s.setTable c u.val (1 - buildBuf j.cmd) (s.sweepTable c j .high)
          else s.setTable c u.val (buildBuf j.cmd) (s.sweepTable c j .whole)).captureSummaries c u.val j).bump (unitPage c u.val) 1 1).finishJob
            c u.val j))) ∧
  (∀ (c : CoreId) (u : Nat) (j : Job) (s : State), s.unitUp c = true → ((s.core c).unit u).exec.find? reading = some j →
      let r : State × Bool :=
        if tileNoop j then (s, false)
        else if j.k = 0 then
          (if tileAcc j.cmd then s else s.fillEntries c u j.slots (slotOf j.cmd) (activeEngines j.n) j.m { s := 0, c := 0 }, false)
        else if u = 8 then s.runStile c j else s.runPass c u j j.stage
      let packed : Option W32 := if u = 8 ∧ tileNoop j = false ∧ j.k ≠ 0 then some (lastStile ((s.core c).stileSet j)) else j.packing
      (((s.core c).unit u).passReady j = false → s.stepPass c u = s) ∧
      (((s.core c).unit u).passReady j = true →
        (∀ w, s.jobPoison c j = some w → s.stepPass c u = s.coreFault c u (poisonRec (opcode j.cmd) j.ctx u 0 w false)) ∧
        (s.jobPoison c j = none → s.stepPass c u =
          r.1.replaceJob c u { j with stage := j.stage + 1, sat := j.sat || r.2, packing := packed }))) ∧
  (∀ (c : CoreId) (s : State), s.unitUp c = true →
    ∀ e ∈ (8, Instr.stileComplete c) :: (List.finRange 8).map fun (g : GrpId) => (g.val, Instr.tileComplete c g),
      ∀ j : Job, ((s.core c).unit e.1).exec.find? isTile = some j →
        let shown (t : State) (j : Job) : State := match j.packing with
          | some v => (t.bump (.se c) 1 (bits v 12 4)).setPg (.se c) SE_LAST_STILE v
          | none => t
        let ends (t : State) (j : Job) : State :=
          (((shown t j).bump (unitPage c e.1) 0 1).bump (unitPage c e.1) (if e.1 = 8 then 3 else 2) (bn j.sat)).finishJob c e.1 j
        let t := s.stepPass c e.1
        (reading j = false → exec e.2 s = .next (ends s j)) ∧
        (reading j = true → ((s.core c).unit e.1).passReady j = false → exec e.2 s = .next s) ∧
        (reading j = true → ((s.core c).unit e.1).passReady j = true →
          (∀ w, s.jobPoison c j = some w → exec e.2 s = .next t) ∧
          (s.jobPoison c j = none → j.stage + 1 = passes j → exec e.2 s =
            .next (ends t { j with stage := j.stage + 1, sat := j.sat || (s.passWork c e.1 j).2
                                   packing := if e.1 = 8 ∧ tileNoop j = false ∧ j.k ≠ 0 then some (lastStile ((s.core c).stileSet j))
                                     else j.packing })) ∧
          (s.jobPoison c j = none → j.stage + 2 = passes j → exec e.2 s = exec e.2 t)))

/-- The pairs of a TILE in the loft (R61, R115 to R120, R163): entry (m, n) of each active engine takes its pairs in their order, the
first in place of its value under overwrite; every other entry of every loft, and everything else of the state, is as before; the flag
tells whether one saturated. -/
def Obligations.PairsReachTheLoft : Prop :=
  ∀ (s : State) (c : CoreId) (u cnt slot n : Nat) (vecs : List Vec) (ovr : Bool) (pairs : Nat → Vec → Nat → List Pair),
    u < 9 → slot < 1 <<< slotLog cnt → vecs.length ≤ maxM u cnt →
    let t := s.deliverPairs c u cnt slot (activeEngines n) vecs ovr pairs
    (∀ (e m q : Nat) (v : Vec), e ∈ activeEngines n → vecs[m]? = some v → q < 32 →
      t.1.loftAt (loftKey c u e (loftIndex u cnt slot m q)) =
        (Entry.takeAll ovr (s.loftAt (loftKey c u e (loftIndex u cnt slot m q))) false (pairs e v q)).1) ∧
    (∀ k, (∀ e m q : Nat, e ∈ activeEngines n → m < vecs.length → q < 32 → k ≠ loftKey c u e (loftIndex u cnt slot m q)) →
      t.1.loftAt k = s.loftAt k) ∧
    t.1 = { s with loft := t.1.loft } ∧
    (t.2 = true ↔ ∃ (e m q : Nat) (v : Vec), e ∈ activeEngines n ∧ vecs[m]? = some v ∧ q < 32 ∧
      (Entry.takeAll ovr (s.loftAt (loftKey c u e (loftIndex u cnt slot m q))) false (pairs e v q)).2 = true)

/-- GUARDED_TILE_EVALUATION (R253 to R258, R262, R264): once the TBUILD of its key pair is complete, the oldest guarded TILE of a group is
evaluated: the record takes one or two evaluations, the counters count them, and the TILE may start with its verdicts. While the TBUILD is
under way, and in mode OFF, nothing happens; poison in what it reads faults the core (R421). -/
def Obligations.GuardedEvaluation : Prop :=
  ∀ (c : CoreId) (g : GrpId) (j : Job) (s : State), s.unitUp c = true →
    ((s.core c).unit g.val).queue.find? (fun j => j.guard == .waiting) = some j →
    let built := ∀ u a, j.key = some (u, a) → ∀ e ∈ (s.core c).live, e.1 ≠ u
    (¬ built ∨ s.skipMode c = MODE_OFF → exec (.guardedTileEvaluation c g) s = .next s) ∧
    (built → s.skipMode c ≠ MODE_OFF → ∀ w, s.firstPoison (s.evalReads c j) = some w → exec (.guardedTileEvaluation c g) s =
      .next (s.coreFault c g.val (poisonRec (opcode j.cmd) j.ctx g.val 0 w false))) ∧
    (built → s.skipMode c ≠ MODE_OFF → s.firstPoison (s.evalReads c j) = none →
      (j.n ≤ 128 → exec (.guardedTileEvaluation c g) s =
        .next ((((s.updateRecord c j 1 (bn (s.skipVerdict c j 0))).bump (.fu c) 2 1).bump (.fu c) 3 (bn (s.skipVerdict c j 0))).replaceJob c
          g.val { j with guard := .done (s.skipVerdict c j 0) false })) ∧
      (128 < j.n → exec (.guardedTileEvaluation c g) s =
        .next ((((s.updateRecord c j 2 (bn (s.skipVerdict c j 0) + bn (s.skipVerdict c j 1))).bump (.fu c) 2 2).bump (.fu c) 3
          (bn (s.skipVerdict c j 0) + bn (s.skipVerdict c j 1))).replaceJob c g.val
            { j with guard := .done (s.skipVerdict c j 0) (s.skipVerdict c j 1) })))

/-- DRAIN_COMPLETE, FIN_COMPLETE, OPT_COMPLETE (R122, R125 to R129, R222 to R243, R421): the command in execution writes its result and
completes; a zero shape writes nothing. A DRAIN whose last read has not ended before reads its slot now; one that has writes the entries
it read then. Poison in what it reads faults the core. -/
def Obligations.FinishingUnitCompletes : Prop :=
  ∀ (c : CoreId) (j : Job) (r : List Job) (s : State), s.unitUp c = true → ((s.core c).unit 9).exec = j :: r →
    (opcode j.cmd = OP_DRAIN → j.stage ≤ 1 →
      let k : Job := { j with stage := 1 }
      let o := drainOp c j.cmd j.desc j.m j.n j.slots
      let q : State := if j.stage = 0 then (s.modCore c fun k => { k with drained := s.unitLoft c (engUnit j.cmd) }).replaceJob c 9 k else s
      let v : State := { s with loft := if j.stage = 0 then s.unitLoft c (engUnit j.cmd) else (s.core c).drained }
      let ends (t : State) : State := (t.modCore c fun k => { k with drained := [] }).finDone c k
      (∀ e i, e < 8 → i < 8192 → j.stage = 0 → v.loftAt (loftKey c (engUnit j.cmd) e i) = s.loftAt (loftKey c (engUnit j.cmd) e i)) ∧
      (drainNoop j = true → exec (.drainComplete c) s = .next (ends (if j.stage = 0 then s.replaceJob c 9 k else s))) ∧
      (drainNoop j = false → cf j.cmd 1 9 2 ≠ 2 → ∀ w, s.jobPoison c j = some w →
        exec (.drainComplete c) s = .next (q.coreFault c 9 (poisonRec OP_DRAIN j.ctx 9 2 w false))) ∧
      (drainNoop j = false → cf j.cmd 1 9 2 ≠ 2 → cf j.cmd 1 9 2 ≠ 1 → s.jobPoison c j = none → exec (.drainComplete c) s =
        .next (ends (q.writeOut c k (outRows j.desc false (drainRows v o))))) ∧
      (cf j.cmd 1 9 2 = 1 → drainNoop j = false → s.jobPoison c j = none → exec (.drainComplete c) s =
        .next (ends (q.writeSegs c (drainPairs v o)))) ∧
      (cf j.cmd 1 9 2 = 2 → drainNoop j = false → j.stage = 0 →
        (∀ w, s.jobPoison c j = some w → exec (.drainComplete c) s = .next (s.coreFault c 9 (poisonRec OP_DRAIN j.ctx 9 2 w false))) ∧
        (s.jobPoison c j = none →
          let l := drainRestore s o (cb j.cmd 1 11)
          exec (.drainComplete c) s =
            .next (ends ((if l.2 then l.1.setSlotSat c (engUnit j.cmd) (slotOf j.cmd) true else l.1).replaceJob c 9 k)))) ∧
      (cf j.cmd 1 9 2 = 2 → drainNoop j = false → j.stage = 1 → exec (.drainComplete c) s = .next (ends s))) ∧
    (opcode j.cmd = OP_FIN →
      (∀ w, s.jobPoison c j = some w → exec (.finComplete c) s = .next (s.coreFault c 9 (poisonRec OP_FIN j.ctx 9 2 w false))) ∧
      (s.jobPoison c j = none →
        (j.cnt = 0 ∨ j.desc.len = 0 → exec (.finComplete c) s = .next (s.finDone c j)) ∧
        (j.cnt ≠ 0 → j.desc.len ≠ 0 → exec (.finComplete c) s =
          .next (((s.writeOut c j (outRows j.desc false (finRows s.mem c j).1)).writeSegs c
            ((finRows s.mem c j).2.map fun p => ownSeg c p.1 p.2)).finDone c j)))) ∧
    (opcode j.cmd = OP_OPT →
      (∀ w, s.jobPoison c j = some w → exec (.optComplete c) s = .next (s.coreFault c 9 (poisonRec OP_OPT j.ctx 9 2 w false))) ∧
      (s.jobPoison c j = none →
        let p := (s.mem.optPar (stoBase c + 64 * cf j.cmd 5 0 21)).advance
        let outs := optOuts s.mem c j.cmd p (128 * j.cnt)
        let t := (s.writeSegs c (optSegs s.mem c j)).optMonitor c j p outs
        (j.cnt = 0 → exec (.optComplete c) s = .next (s.finDone c j)) ∧
        (j.cnt ≠ 0 → cb j.cmd 7 21 = false → exec (.optComplete c) s = .next (t.finDone c j)) ∧
        (j.cnt ≠ 0 → cb j.cmd 7 21 = true → exec (.optComplete c) s = .next ((t.writeOut c j
          (outRows j.desc false [{ row := 0, col := 0, vals := outs.map (·.copy), pad := 0, bad := [] }])).finDone c j))))

/-- What completions leave alone: TBUILD, FIN, OPT and a DRAIN that stores values or pairs change no loft entry; a TILE or an STILE
changes no loft entry of another unit (R61, R120, R125): in each case unless the completion ends the core's reset, which clears its loft
(R426). -/
def Obligations.LoftChangesOnlyByTiles : Prop :=
  ∀ (c : CoreId) (s t : State), (t.core c).resetting = (s.core c).resetting →
    (∀ u : UnitId, exec (.tbuildComplete c u) s = .next t → t.loft = s.loft) ∧
    (exec (.finComplete c) s = .next t → t.loft = s.loft) ∧
    (exec (.optComplete c) s = .next t → t.loft = s.loft) ∧
    ((∀ j ∈ ((s.core c).unit 9).exec, cf j.cmd 1 9 2 ≠ 2) → exec (.drainComplete c) s = .next t → t.loft = s.loft) ∧
    (∀ (g : GrpId) (d : CoreId) (v e i : Nat), (d ≠ c ∨ v ≠ g.val) → v < 9 → e < 8 → i < 8192 →
      (∀ j ∈ ((s.core c).unit g.val).exec, slotOf j.cmd < 1 <<< slotLog j.slots ∧ j.m ≤ maxM g.val j.slots) →
      exec (.tileComplete c g) s = .next t → t.loftAt (loftKey d v e i) = s.loftAt (loftKey d v e i)) ∧
    (∀ (d : CoreId) (v e i : Nat), (d ≠ c ∨ v ≠ 8) → v < 9 → e < 8 → i < 8192 →
      (∀ j ∈ ((s.core c).unit 8).exec, slotOf j.cmd < 1 <<< slotLog j.slots ∧ j.m ≤ maxM 8 j.slots) →
      exec (.stileComplete c) s = .next t → t.loftAt (loftKey d v e i) = s.loftAt (loftKey d v e i))

/-! ## DMA and the cellar -/

/-- DMA_TRANSACTION_START is one bc of a DMA engine (R336, R337): of the queues after the one that started last, in turn, the first that
has a transaction ready and may take a tag starts one; ready queues that may not take a tag are counted; with no such queue nothing
starts. A transaction takes a tag that no transaction in flight has (R336), the lowest such tag (the model's choice, log entry 19). -/
def Obligations.DmaTransactionStarts : Prop :=
  (∀ (c : CoreId) (s : State), s.seqUp c = true →
      let p := (List.finRange 8).foldl (fun s q => State.skipIdle 17 s c q) s
      let b := p.bump (.sto c) 8 ((List.finRange 8).filter fun q => (p.ready c q).isSome && !p.mayTag c q).length
      let may (i : Nat) : Bool := (p.ready c (Fin.ofNat 8 ((p.core c).lastQ.val + 1 + i))).isSome &&
        p.mayTag c (Fin.ofNat 8 ((p.core c).lastQ.val + 1 + i))
      ((∀ i, i < 8 → may i = false) → exec (.dmaTransactionStart c) s = .next (b.settle c)) ∧
      (∀ (i : Nat) (r : DmaRun) (fresh : Bool) (body : TxnBody) (t : DmaRun), i < 8 → (∀ k, k < i → may k = false) → may i = true →
        p.ready c (Fin.ofNat 8 ((p.core c).lastQ.val + 1 + i)) = some (r, fresh, body, t) →
        exec (.dmaTransactionStart c) s = .next ((b.startTxn c (Fin.ofNat 8 ((p.core c).lastQ.val + 1 + i)) r fresh body t).settle c))) ∧
  (∀ k : Core, k.txns.length < 512 →
      k.freeTag < 512 ∧ (∀ x ∈ k.txns, x.tag ≠ k.freeTag) ∧ ∀ t, t < k.freeTag → ∃ x ∈ k.txns, x.tag = t)

/-- DMA_TRANSACTION_COMPLETE (R25, R335, R339): a transaction that waits for no cellar answer, that no earlier one of its queue still has
to precede, and that overtakes no signal to the core it writes to, takes effect and frees its tag; any other stays in flight. The data of a
converting MOVE's reads stay with it, as they were when they arrived, and its writes are formed from them (R335). DMA_COMMAND_COMPLETE
(R103, R338): the oldest command of a queue whose transactions are all over completes, and a quantising MOVE records then that its crates
were full. DMA_QUEUE_RESUME (R333): withheld commands leave a halted queue without their signals. -/
def Obligations.DmaCompletions : Prop :=
  ∀ (c : CoreId) (s : State),
    (∀ (tag : TagId) (x : Txn), s.coreUp c = true → (s.core c).txns.find? (fun t => t.tag == tag.val) = some x →
      let free := !(match x.body with
        | .wr .. | .sg _ => true
        | _ => false) && x.cel.isNone && orderFree c x (s.core c).txns && (match s.remoteDst c x.body with
        | some d => !s.signalAhead c d (x.sent.getD (s.core c).nextPost)
        | none => true)
      (free = true → exec (.dmaTransactionComplete c tag) s =
        .next (((((s.applyTxn c x).keepData c x (s.txnData x)).dropTxn c tag.val).convertRun c x.q x.uid).settle c)) ∧
      (free = false → exec (.dmaTransactionComplete c tag) s = .next (s.settle c))) ∧
    (∀ (q : QId) (r : DmaRun) (rest : List DmaRun), s.unitUp c = true → ((s.core c).dmaq[q]).run = r :: rest →
      (r.started = true → r.withheld = false → (∀ t ∈ (s.core c).txns, t.uid ≠ r.job.uid) →
        let d := s.modCore c fun k => k.modQueue q fun d => { d with run := rest }
        (r.full = none → exec (.dmaCommandComplete c q) s = .next ((d.complete c r.job).settle c)) ∧
        (∀ (n : Nat) (first : Option Nat), r.full = some (n, first) → exec (.dmaCommandComplete c q) s =
          .next (((d.crateFull c r.job { segs := [], clips := 0, excess := n, first := first }).complete c r.job).settle c))) ∧
      ((r.started = false ∨ r.withheld = true ∨ ∃ t ∈ (s.core c).txns, t.uid = r.job.uid) →
        exec (.dmaCommandComplete c q) s = .next s)) ∧
    (∀ (fn : FnId) (q : QId), s.reaches fn c = true →
      (((s.core c).dmaq[q]).halted = true → exec (.dmaQueueResume fn c q) s =
        .next (((s.discardRuns c q (·.withheld)).modCore c fun k => k.modQueue q fun d => { d with halted := false }).settle c)) ∧
      (((s.core c).dmaq[q]).halted = false → exec (.dmaQueueResume fn c q) s = .next s))

/-- What a transaction of a MOVE stores (R204, R268, R334): the destination's bytes are those that it has received, or else the source's
as the function's key sees them now; every other byte is as before; a word written whole loses its FE, and a word that is not written
keeps FE and poison. A write into another core's storeroom counts as an arrival there (R309). -/
def Obligations.TransactionsMoveData : Prop :=
  ∀ (s : State) (c : CoreId) (x : Txn) (src dst n : Nat), x.body = .move src dst n → x.wrote = false → 0 < n → inCellar dst = false →
    s.mapped dst n = true → ¬ (skipBase c ≤ dst ∧ dst < skipBase c + 0x40) →
    let t := s.applyTxn c x
    (∀ d, x.got = some d → d.length = n → ∀ i, i < n → t.mem.byte (dst + i) = (d.getD i (0, false)).1) ∧
    (x.got = none → s.mapped src n = true → ∀ i, i < n → t.mem.byte (dst + i) = s.mem.see x.key (src + i)) ∧
    ((x.got = none ∨ ∃ d, x.got = some d ∧ d.length = n) →
      (∀ a, (a < dst ∨ dst + n ≤ a) → t.mem.byte a = s.mem.byte a) ∧
      (∀ w, dst ≤ 8 * w → 8 * w + 8 ≤ dst + n → t.mem.feAt w = false) ∧
      (∀ w, (8 * w + 8 ≤ dst ∨ dst + n ≤ 8 * w) → t.mem.feAt w = s.mem.feAt w ∧ t.mem.poisonAt w = s.mem.poisonAt w) ∧
      t = { s with regs := t.regs, mem := t.mem, cores := t.cores } ∧
      (∀ d : CoreId, t.core d = { s.core d with touched := (s.core d).touched || (decide (d ≠ c) && s.place dst == .sto d) }))

/-- Cellar ports (R332, R333, R343): a response gives a transaction that reads its data, the lines that arrive poisoned poisoned and
counted, and stores those of one that writes; of two that share a line, one of which writes, the one granted first is answered first. A
timeout, unless CEL_TIMEOUT is 0, and the loss of the port's link, which takes every transaction outstanding on the port, end it: a read
delivers every word poisoned, its data free (log entry 30); a write, of whose late lines the device stored any or none (log entry 30),
and none while another has to precede it, halts its queue and withholds its command's signal; each line's request is recorded. Of a tag
that no transaction holds it is the fetch of a command that times out: the command arrives poisoned (log entry 30). With its link down
the port is no longer mapped, and no transaction waits for it. -/
def Obligations.CellarPorts : Prop :=
  let lost (p : CelId) (s : State) (c : CoreId) (x : Txn) (down : Bool) (ls : List Nat) : State :=
    let wr := (s.celAccess c x).2
    let s1 : State :=
      if wr then
        ((if s.mayWrite1 c x then (s.countReads c x).lateWrite ls x.key (((x.body.writes c).map (·.1)).getD 0) (match x.body with
            | .put _ d => d
            | _ => s.txnData x)
          else s.countReads c x).dropTxn c x.tag).modCore c fun k => k.modQueue x.q fun d =>
            { d with halted := true, run := d.run.map fun r => if r.job.uid = x.uid then { r with withheld := true } else r }
      else ((s.countReads c x).modTxn c x.tag fun t => { t with got := some (x.body.reads.flatMap fun e => lostBytes e.1 e.2) }).afterRead c x
    ls.foldl (fun (s : State) l => s.recordTmo p c.val x.q.val wr down l) s1
  (∀ a n, (lostBytes a n).length = n ∧ ∀ e ∈ lostBytes a n, e.2 = true) ∧
  (∀ (c : CoreId) (tag : TagId) (x : Txn) (p : CelId) (lines ls : List Nat) (s : State), s.coreUp c = true →
    (s.core c).txns.find? (fun t => t.tag == tag.val) = some x → x.cel = some p →
    (s.grantedAhead p c x = true → exec (.cellarResponse c tag lines) s = .next s) ∧
    (s.grantedAhead p c x = false → s.celAccess c x = (ls, false) →
      let m := s.modMem fun m => (ls.filter lines.contains).foldl (fun m l => m.poisonLine l true) m
      exec (.cellarResponse c tag lines) s =
        .next (((((m.countReads c x).modTxn c x.tag fun t => { t with got := some (m.txnData x) }).bump (.cel p) 2
          (ls.filter fun l => m.mem.poisonAt (8 * l)).length).afterRead c x).sendLeg c tag.val .data (celBay p))) ∧
    (s.grantedAhead p c x = false → s.celAccess c x = (ls, true) →
      (s.mayWrite1 c x = false → exec (.cellarResponse c tag lines) s = .next s) ∧
      (s.mayWrite1 c x = true → exec (.cellarResponse c tag lines) s =
        .next (((s.writeNow c x).modTxn c tag.val fun t => { t with cel := none }).sendLeg c tag.val .done (celBay p)))) ∧
    ((bits (s.pg (.cel p) CEL_TIMEOUT) 0 16 = 0 ∨ (s.celAccess c x).1.filter lines.contains = []) →
      exec (.cellarTimeout c tag lines) s = .next (s.settle c)) ∧
    (bits (s.pg (.cel p) CEL_TIMEOUT) 0 16 ≠ 0 → (s.celAccess c x).1.filter lines.contains ≠ [] → exec (.cellarTimeout c tag lines) s =
      .next ((lost p s c x false ((s.celAccess c x).1.filter lines.contains)).settle c))) ∧
  (∀ (p : CelId) (s : State) (c : CoreId) (x : Txn), s.grantedAhead p c x = true ↔ ∃ (d : CoreId) (y : Txn) (n l : Nat),
    y ∈ (s.core d).txns ∧ (d ≠ c ∨ y.tag ≠ x.tag) ∧ y.cel = some p ∧ y.turn = some n ∧ (∀ m, x.turn = some m → n < m) ∧
    ((s.celAccess c x).2 = true ∨ (s.celAccess d y).2 = true) ∧ l ∈ (s.celAccess c x).1 ∧ l ∈ (s.celAccess d y).1) ∧
  (∀ (c : CoreId) (tag : TagId) (lines : List Nat) (s : State), s.coreUp c = true → (s.core c).txns.find? (fun t => t.tag == tag.val) = none →
    exec (.cellarTimeout c tag lines) s = .next (((List.finRange 4).foldl (fun (s : State) p =>
      let ls := lines.filter (s.awaitsLine c p)
      if bits (s.pg (.cel p) CEL_TIMEOUT) 0 16 = 0 then s
      else (ls.foldl (fun (s : State) l => s.recordTmo p c.val 0 false false l) s).modCore c fun k => { k with lateRead := ls ++ k.lateRead })
        s).settle c)) ∧
  (∀ (s : State) (c : CoreId) (x : CtxId) (pc : Nat), (s.ctx c x).head = none → pc = (s.pg (.ctx c x) CTX_PC).toNat →
    pc < (s.pg (.ctx c x) CTX_LEN).toNat → (∀ i, i < 32 → s.inReach c (s.streamAt c x pc + i) = true) →
    (∃ l ∈ (s.core c).lateRead, s.streamAt c x pc / 64 ≤ l ∧ l ≤ (s.streamAt c x pc + 31) / 64) →
    ∃ w : Cmd, s.fetch c x = .cmd w (some (s.streamAt c x pc / 8))) ∧
  (∀ (p : CelId) (s : State), s.pkgUp = true →
    (bit (s.pg (.cel p) CEL_STAT) 0 = false → exec (.cellarLinkDown p) s = .next s) ∧
    (bit (s.pg (.cel p) CEL_STAT) 0 = true →
      let e := (List.finRange 64).foldl (fun (s : State) c =>
        (((s.core c).txns.filter fun t => t.cel == some p).foldl (fun s x => lost p s c x true (s.celAccess c x).1) s).settle c) s
      let d : State := { e with cores := e.cores.map fun k =>
        { k with txns := k.txns.map fun t => if t.cel = some p then { t with cel := none, turn := none } else t } }
      ∃ t : State, exec (.cellarLinkDown p) s = .next t ∧ t = { d with regs := t.regs, host := t.host } ∧ t.celSize p = 0 ∧
        bit (t.pg (.cel p) PG_EVT_RAW) EVT_STATE = true ∧
        ∀ (q : Page) (o : Nat), o < 0x1000 → (q ≠ .cel p ∨ (o ≠ CEL_STAT ∧ o ≠ PG_EVT_RAW)) →
          (q ≠ .pkg ∨ (o ≠ PG_CNT 3 ∧ o ≠ PG_CNT 3 + 4)) → t.pg q o = d.pg q o))

/-! ## Synchronisation -/

/-- The release loop (R301): waits leave the head of the queue, none is bypassed, each takes what it waits for from the count, and the
loop ends at the first that the count does not cover. -/
def Obligations.ReleaseLoop : Prop :=
  ∀ (q : List Wait) (n : Nat), ∃ rest : List Wait, q = (releaseScan q n).1 ++ rest ∧
    (releaseScan q n).2 + ((releaseScan q n).1.map (·.n)).sum = n ∧
    (∀ w ∈ rest.head?, (releaseScan q n).2 < w.n)

/-- A signal on a word without waits (R289, R290, R296): the count rises and saturates at 2^32 - 1, `last` becomes the signaller's, `ovf`
is set where the sum does not fit, FE tells a count above 0, poison stays, waiters is 0; every other byte, FE and poison bit is as before.
-/
def Obligations.SignalCounts : Prop :=
  ∀ (s : State) (c : CoreId) (word n : Nat) (g : W16), n ≠ 0 → (s.core c).queueOn word = [] →
    let t := s.applySignal c word n g
    let old := s.syncAt c word
    t.stoWordAt c word =
      { data := SyncWord.data { old with count := min (old.count + n) 0xFFFF_FFFF, last := g, ovf := old.ovf || decide (0xFFFF_FFFF < old.count + n) } 0
        fe := true, poison := (s.stoWordAt c word).poison } ∧
    (∀ a, a / 8 ≠ stoWord c word → t.mem.byte a = s.mem.byte a) ∧
    (∀ w, w ≠ stoWord c word → t.mem.feAt w = s.mem.feAt w ∧ t.mem.poisonAt w = s.mem.poisonAt w) ∧
    (∀ d : CoreId, d ≠ c → t.core d = s.core d) ∧ (t.core c).ctxs = (s.core c).ctxs ∧ (t.core c).waits = (s.core c).waits ∧
    (t.core c).live = (s.core c).live ∧ t.loft = s.loft

/-- Signals that reach a core over the mesh (R25, R296 to R298, R307): the oldest, those apart that an earlier posted write of their own
core still has to precede, is applied and acknowledged; from a core that SYNC_PEERS excludes it is refused, counted and acknowledged as
refused; a decrement above the count is refused with the count found. MESH_ACKNOWLEDGEMENT (R208, R209): the posting is over; a SIGNAL
that waited for it completes, or, a decrement refused, its context has found UNDERFLOW or SYNC_MAP; a posting of no command lets a FENCE
go on. -/
def Obligations.MeshSignals : Prop :=
  (∀ (c : CoreId) (s : State), s.coreUp c = true → (∀ m ∈ (s.core c).inbox, s.writeAhead m.src c m.post = true) →
      exec (.syncSignalArrival c) s = .next s ∧ exec (.syncDecrement c) s = .next s) ∧
  (∀ (s : State) (b c : CoreId) (post : Nat), s.writeAhead b c post = true ↔ ∃ t ∈ (s.core b).txns, t.wrote = false ∧
      (∃ n, t.sent = some n ∧ n ≤ post) ∧ s.remoteDst b t.body = some c ∧ orderFree b t (s.core b).txns = true) ∧
  (∀ (c : CoreId) (m : SyncMsg) (a b : List SyncMsg) (s : State), s.coreUp c = true → (s.core c).inbox = a ++ m :: b → m ∉ a →
      (∀ e ∈ a, s.writeAhead e.src c e.post = true) → s.writeAhead m.src c m.post = false →
      let i := (s.modCore c fun k => { k with inbox := a ++ b }).touch c
      (m.dec = true → exec (.syncSignalArrival c) s = .next s) ∧
      (m.dec = false → exec (.syncDecrement c) s = .next s) ∧
      (m.dec = false → s.peer c m.src = false → exec (.syncSignalArrival c) s = .next ((i.bump (.sync c) 3 1).sendAck c m .refused)) ∧
      (m.dec = true → s.peer c m.src = false → exec (.syncDecrement c) s = .next ((i.bump (.sync c) 3 1).sendAck c m .refused)) ∧
      (m.dec = false → s.peer c m.src = true → exec (.syncSignalArrival c) s =
        .next (((i.applySignal c m.word m.n m.gcid).sendAck c m .applied).settle c)) ∧
      (m.dec = true → s.peer c m.src = true →
        (m.n ≤ (i.syncAt c m.word).count → exec (.syncDecrement c) s =
          .next (((i.putSync c m.word { i.syncAt c m.word with count := (i.syncAt c m.word).count - m.n, last := m.gcid }).countSync c).sendAck
            c m .applied)) ∧
        ((i.syncAt c m.word).count < m.n → exec (.syncDecrement c) s =
          .next (((i.putSync c m.word { i.syncAt c m.word with refused := true }).countSync c).sendAck c m
            (.underflow (w32 (i.syncAt c m.word).count) m.word c))))) ∧
  (∀ (c : CoreId) (a : AckMsg) (rest : List AckMsg) (s : State), s.coreUp c = true → (s.core c).acks = a :: rest →
      let i := s.modCore c fun k => { k with acks := rest, posts := k.posts.filter fun p => p.num != a.post }
      let p := (s.core c).posts.find? fun p => p.num == a.post
      (p.bind (·.job) = none → exec (.meshAcknowledgement c) s = .next (i.settle c)) ∧
      (∀ j : Job, p.bind (·.job) = some j →
        ((∀ j' n, (s.ctx c j.ctx).hold = .decrement j' n → n ≠ a.post) → exec (.meshAcknowledgement c) s = .next ((i.complete c j).settle c)) ∧
        (∀ j' : Job, (s.ctx c j.ctx).hold = .decrement j' a.post →
          (a.out = .applied → exec (.meshAcknowledgement c) s = .next (((i.unholdCtx c j.ctx).complete c j).settle c)) ∧
          (a.out = .refused → exec (.meshAcknowledgement c) s =
            .next (((i.retire c j.uid).foundFault c j.ctx (refusedRec j.cmd) j.off (some j.cmd)).settle c)) ∧
          (∀ cnt word core, a.out = .underflow cnt word core → exec (.meshAcknowledgement c) s =
            .next (((i.retire c j.uid).foundFault c j.ctx
              (underflowRec j.cmd word core cnt.toNat (0x1_0000_0000 - j.cmd[2].toNat)) j.off (some j.cmd)).settle c)))))

/-- Routes of the mesh: in a bay of another column than the destination's, along the row towards that column; in the destination's column,
along the column towards its row; in the destination, out. The route is a function of the two bays alone, so it is fixed and not adaptive
(R23). -/
def Obligations.MeshRoutes : Prop :=
  ∀ b dst : BayId,
    (b.val % 4 < dst.val % 4 → route b dst = .east ∧ (neighbour b .east).1.val = b.val + 1) ∧
    (dst.val % 4 < b.val % 4 → route b dst = .west ∧ (neighbour b .west).1.val + 1 = b.val) ∧
    (b.val % 4 = dst.val % 4 → b.val / 4 < dst.val / 4 → route b dst = .south ∧ (neighbour b .south).1.val = b.val + 4) ∧
    (b.val % 4 = dst.val % 4 → dst.val / 4 < b.val / 4 → route b dst = .north ∧ (neighbour b .north).1.val + 4 = b.val) ∧
    (b = dst → route b dst = .loc)

/-- ROUTER_GRANT is one mesh cycle of a router output (R24, R26; buffers without a bound, log entry 10): with none at the head of an input
nothing moves; a flit granted leaves the head of its input, to the neighbour's input or, at its bay, out of the mesh; every flit left
waiting for the output, wherever it stands in its buffer, has waited one cycle more. What a router output grants (R26): an input that
presents a flit for it; a request that has waited 16 cycles when there is one; else a response when there is one; a flit whenever there
is one. -/
def Obligations.RouterGrants : Prop :=
  (∀ (b : BayId) (out : Dir) (s : State), s.pkgUp = true →
      (s.mesh.grant b out = none → exec (.routerGrant b out) s = .next { s with mesh := s.mesh.wait1 b out }) ∧
      (∀ (d k : Nat) (f : MeshFlit) (rest : List MeshFlit), s.mesh.grant b out = some (d, k) → s.mesh.bufs[meshIndex b d k] = f :: rest →
        let m := ({ s.mesh with bufs := s.mesh.bufs.set (meshIndex b d k) rest,
                                last := s.mesh.last.set (meshIndex b (dirNum out) k) d } : Mesh).wait1 b out
        let nb := neighbour b out
        (out = .loc → exec (.routerGrant b out) s = .next (({ s with mesh := m } : State).arriveFlit f)) ∧
        (out ≠ .loc → exec (.routerGrant b out) s =
          .next { s with mesh := { m with bufs := vmod m.bufs (meshIndex nb.1 nb.2 k) fun l => l ++ [{ f with waited := 0 }] } }))) ∧
  (∀ (m : Mesh) (b : BayId) (out : Dir),
      (∀ d k, d < 5 → k < 2 → (m.wait1 b out).bufs[meshIndex b d k] = m.bufs[meshIndex b d k].map fun f =>
        if route b f.dst = out then { f with waited := f.waited + 1 } else f) ∧
      (∀ d k, m.grant b out = some (d, k) → d < 5 ∧ (k = 0 ∨ k = 1) ∧ (m.head b d k out).isSome = true) ∧
      (∀ d k, d < 5 → k < 2 → (m.head b d k out).isSome = true → m.grant b out ≠ none) ∧
      (∀ d f, d < 5 → m.head b d 0 out = some f → 16 ≤ f.waited →
        ∃ e g, m.grant b out = some (e, 0) ∧ m.head b e 0 out = some g ∧ 16 ≤ g.waited) ∧
      (∀ d f, d < 5 → m.head b d 1 out = some f → (∀ e g, e < 5 → m.head b e 0 out = some g → g.waited < 16) →
        ∃ e, m.grant b out = some (e, 1)))

/-- The end of waits (R302, R304, R305, R309, R310, R315): a released context becomes READY; a wait whose time is out leaves the table and
its context has found SYNC_TIMEOUT, a word's release loop runs with the word's tmo bit set, a line loses the core's arrival unless
another context of the core still waits; the deadlock detector records once, with what each context waits for (R310).
SYNC_HOST_SIG_WRITE signals the word of SYNC_HOST_ADDR with the host as signaller; 0 does nothing (R308). SYNC_DBG_ADDR_WRITE latches
the word named and its queue, counts a sync operation in SYNC_OPS and changes no memory (R319, R321). -/
def Obligations.WaitsEnd : Prop :=
  (∀ (c : CoreId) (s : State), s.coreUp c = true →
      (∀ x : CtxId, (s.ctx c x).hold = .released → (s.ctx c x).cur = .wait → ∃ t : State, exec (.waiterReady c x) s = .next t ∧
        (t.ctx c x).cur = .ready ∧ (t.ctx c x).hold = .free ∧ t = { s with cores := t.cores } ∧
        (∀ y : CtxId, y ≠ x → t.ctx c y = s.ctx c y) ∧ ∀ d : CoreId, d ≠ c → t.core d = s.core d) ∧
      (∀ (x : CtxId) (w : Wait), (s.core c).waitOf x = some w →
        ((w.remain ≠ some 0 ∨ (s.ctx c x).run = .frozen) → exec (.syncTimeout c x) s = .next s) ∧
        (w.remain = some 0 → (s.ctx c x).run ≠ .frozen →
          let d := (s.dropWaits c [w]).bump (.sync c) 4 1
          let r (cnt : Nat) : Rec :=
            mkRec 0x0202 (opcode w.job.cmd + w.vid.toNat <<< 8 + w.kind.code <<< 16 + w.line.val <<< 19 + w.tclass.val <<< 23)
              (w.word + c.val <<< 24) cnt w.n
          let found (t : State) (n : Nat) : State := (t.foundFault c x (r n) w.job.off (some w.job.cmd)).settle c
          (w.kind = .preWait → exec (.syncTimeout c x) s = .next (found (d.rerunQueue c w.word true) (s.syncAt c w.word).count)) ∧
          (w.kind = .wait → exec (.syncTimeout c x) s =
            .next (found ((d.rerunQueue c w.word true).retire c w.job.uid) (s.syncAt c w.word).count)) ∧
          ((w.kind = .barrier ∨ w.kind = .rerun) → exec (.syncTimeout c x) s =
            .next (found ((d.leaveLine c w.line).retire c w.job.uid) (s.missing w.line))))) ∧
      ((s.pg (.sync c) SYNC_DLK_WINDOW ≠ 0 → (s.pg (.sync c) SYNC_DLK_WINDOW).toNat ≤ (s.core c).dlk → (s.core c).dlkFired = false →
          ∃ t : State, exec (.deadlock c) s = .next t ∧ (t.core c).dlkFired = true ∧ t.pg (.sync c) PG_ERR_CODE = 0x0203 ∧
            (∀ (x : CtxId), (∀ w, (s.core c).waitOf x = some w → t.pg (.sync c) (PG_ERR_INFO0 + 4 * x.val) =
                w32 ((if w.kind = .barrier ∨ w.kind = .rerun then w.line.val else w.word) + w.kind.code <<< 24)) ∧
              ((s.core c).waitOf x = none → t.pg (.sync c) (PG_ERR_INFO0 + 4 * x.val) = 0)) ∧
            bit (t.pg (.sync c) PG_EVT_RAW) EVT_ERR = true ∧ (t.core c).waits = (s.core c).waits ∧ t.mem = s.mem) ∧
        ((s.core c).dlkFired = true → exec (.deadlock c) s = .next s))) ∧
  (∀ (fn : FnId) (c : CoreId) (s : State), s.reaches fn c = true →
      (exec (.syncHostSigWrite fn c 0) s = .next s) ∧
      (∀ n : W32, n ≠ 0 → exec (.syncHostSigWrite fn c n) s =
        .next ((((s.carry hostBay (bayOf c) false).touch c).applySignal c (bits (s.pg (.sync c) SYNC_HOST_ADDR) 0 24) n.toNat gcidHost).settle c)) ∧
      (∀ v : W32, ∃ t : State, exec (.syncDbgAddrWrite fn c v) s = .next t ∧ t = { s with regs := t.regs } ∧
        t.pg (.sync c) SYNC_DBG_ADDR = w32 (bits v 0 24) ∧
        t.pg (.sync c) SYNC_DBG_LO = (s.stoWordAt c (bits v 0 24)).data.setWidth 32 ∧
        t.pg (.sync c) SYNC_DBG_HI = ((s.stoWordAt c (bits v 0 24)).data >>> 32).setWidth 32 ∧
        t.pg (.sync c) SYNC_DBG_WAIT = dbgWait ((s.core c).queueOn (bits v 0 24)) (s.stoWordAt c (bits v 0 24)) ∧
        (bit (s.pg (.sync c) PG_CNT_CTRL) 0 = true →
          t.pg64 (.sync c) (PG_CNT 0) = min (s.pg64 (.sync c) (PG_CNT 0) + 1) 0xFFFF_FFFF_FFFF_FFFF) ∧
        ∀ (p : Page) (o : Nat), o < 0x1000 →
          ¬ (p = .sync c ∧ (o = SYNC_DBG_ADDR ∨ o = SYNC_DBG_LO ∨ o = SYNC_DBG_HI ∨ o = SYNC_DBG_WAIT ∨ o = PG_CNT 0 ∨ o = PG_CNT 0 + 4)) →
          t.pg p o = s.pg p o))

/-- RAFTER_LINE_ASSERT (R312 to R318): while a masked core has not arrived, or the mask is empty, nothing happens; else the masked arrive
bits clear, the line is counted, and in every core of the mask without a core fault every wait on the line is released: a BARRIER realigns
and completes, a pooled RERUN takes the outcome of the pooled sum; the cores in ascending number (log entry 10, DESIGN CHOICE). The arrive
bits of an asserting line: those of the mask clear, the others stay (R312). -/
def Obligations.RafterLines : Prop :=
  (∀ (l : LineId) (s : State), s.pkgUp = true →
      ((s.rafMask l = 0 ∨ s.missing l ≠ 0) → exec (.rafterLineAssert l) s = .next s) ∧
      (s.rafMask l ≠ 0 → s.missing l = 0 → exec (.rafterLineAssert l) s =
        .next ((List.finRange 64).foldl (fun s' c =>
          if (s.rafMask l).testBit c.val && !(s'.core c).fault then
            (((s'.core c).waits.filter fun w => w.onLine l).foldl (fun s w => s.releaseLine c w)
              (s'.dropWaits c ((s'.core c).waits.filter fun w => w.onLine l))).settle c
          else s') ((s.setArr l (s.rafArr l - s.rafMask l)).bump .pkg 0 1)))) ∧
  (∀ (s : State) (l : LineId) (i : Nat), s.missing l = 0 → i < 64 →
      ((s.setArr l (s.rafArr l - s.rafMask l)).rafArr l).testBit i = ((s.rafArr l).testBit i && !(s.rafMask l).testBit i))

/-! ## Contexts from outside -/

/-- DOORBELL and CONTEXT_START (R182, R407, R423): the owner's doorbell to page 4c + x of BAR4 makes the context pending and is counted; a
second one before the start is recorded as DOORBELL_OVERRUN, 0x0701 (R419); while a core fault stands, and from a function that does not
own the core, it does nothing. A read of BAR4 returns zero, in recovery mode Unsupported Request (R442). A pending doorbell starts a
HALTED context, a FAULTED one only when it was rung there, and a restored WAIT by its arrival at its word or line. FREEZE (R183, R423):
setting the bit makes a context FROZEN over the state it was in; clearing it brings that state back, a restored wait arriving at its
word or line again; while a core fault stands the context stays FROZEN. CONTEXT_SAVE, CONTEXT_RESTORE and their end (R184, R185, R306):
they start in HALTED, FAULTED or FROZEN and otherwise do nothing. A save writes the save area, as far as it lies in the storeroom, and
no other byte. A restore that meets poison faults the context (R421); any other removes the context's wait and its hold, sets its
registers from the area, priv only for function 0, and its state, its loops and its wait; that a pre-wait which had passed is performed
again, that FROZEN returns to WAIT or READY, and that bytes beyond the storeroom are free, is log entry 31. -/
def Obligations.ContextControl : Prop :=
  (∀ (c : CoreId) (x : CtxId) (s : State),
      (∀ (fn : FnId) (low : Nat), low < 0x1000 →
        let off : BitVec 20 := BitVec.ofNat 20 (0x4000 * c.val + 0x1000 * x.val + low)
        (s.owner c ≠ fn.val → exec (.doorbell fn off false) s = .next s) ∧
        (s.hostUp fn = true → exec (.doorbell fn off true) s =
          .next { s with host := { s.host with cpl := [if s.recovery then urCpl else dataCpl (toLe 4 0)] } }) ∧
        (s.reaches fn c = true → s.owner c = fn.val →
          ((s.core c).fault = true → exec (.doorbell fn off false) s = .next s) ∧
          ((s.core c).fault = false → (s.ctx c x).pend = true → exec (.doorbell fn off false) s =
            .next (s.record (.ctx c x) (mkRec 0x0701 0 0 0 0))) ∧
          ((s.core c).fault = false → (s.ctx c x).pend = false → exec (.doorbell fn off false) s =
            .next (((s.modCtx c x fun t => { t with pend := true, late := !(t.run == .halted || t.run == .faulted) }).bump
              (.ctx c x) 3 1).bump .pkg 2 1)))) ∧
      (s.seqUp c = true → (s.ctx c x).pend = true → (s.ctx c x).saveOp = .none → (s.ctx c x).resetting = false →
        ((s.ctx c x).run = .halted ∨ ((s.ctx c x).run = .faulted ∧ (s.ctx c x).late = false) →
          ∃ t : State, exec (.contextStart c x) s = .next t ∧
            (t.ctx c x).run = .ready ∧ (t.ctx c x).pend = false ∧ (t.ctx c x).loops = (s.ctx c x).loops ∧ t = { s with cores := t.cores } ∧
            (∀ y : CtxId, y ≠ x → t.ctx c y = s.ctx c y) ∧ ∀ d : CoreId, d ≠ c → t.core d = s.core d) ∧
        ((s.ctx c x).run = .wait → (s.ctx c x).again.isSome = true → exec (.contextStart c x) s =
          .next ((s.modCtx c x fun t => { t with pend := false, late := false }).arriveAgain c x))) ∧
      (s.seqUp c = true → ((s.ctx c x).pend = false ∨ (s.ctx c x).run = .ready ∨ (s.ctx c x).run = .hold ∨ (s.ctx c x).run = .frozen ∨
          ((s.ctx c x).run = .faulted ∧ (s.ctx c x).late = true) ∨ ((s.ctx c x).run = .wait ∧ (s.ctx c x).again = none)) →
        exec (.contextStart c x) s = .next s)) ∧
  (∀ (fn : FnId) (c : CoreId) (x : CtxId) (s : State), s.reaches fn c = true →
      ((s.ctx c x).run ≠ .frozen → exec (.freeze fn c x true) s =
        .next (s.modCtx c x fun t => { t with frz := true, under := (s.ctx c x).run, run := .frozen })) ∧
      ((s.ctx c x).run = .frozen → exec (.freeze fn c x true) s = .next (s.modCtx c x fun t => { t with frz := true })) ∧
      ((s.core c).fault = true → exec (.freeze fn c x false) s = .next (s.modCtx c x fun t => { t with frz := false })) ∧
      ((s.core c).fault = false → (s.ctx c x).run = .frozen → (s.ctx c x).under ≠ .wait → exec (.freeze fn c x false) s =
        .next (s.modCtx c x fun t => { t with frz := false, run := (s.ctx c x).under })) ∧
      ((s.core c).fault = false → (s.ctx c x).run = .frozen → (s.ctx c x).under = .wait → exec (.freeze fn c x false) s =
        .next ((s.modCtx c x fun t => { t with frz := false, run := .wait }).arriveAgain c x)) ∧
      ((s.core c).fault = false → (s.ctx c x).run ≠ .frozen → ((s.ctx c x).run ≠ .wait ∨ (s.ctx c x).again = none) →
        exec (.freeze fn c x false) s = .next (s.modCtx c x fun t => { t with frz := false })) ∧
      ((s.core c).fault = false → (s.ctx c x).run = .wait → (s.ctx c x).again.isSome = true → exec (.freeze fn c x false) s =
        .next ((s.modCtx c x fun t => { t with frz := false }).arriveAgain c x))) ∧
  (∀ (c : CoreId) (x : CtxId) (s : State),
      (∀ fn : FnId, s.reaches fn c = true →
        ((s.ctx c x).saveOp = .none → ((s.ctx c x).run = .halted ∨ (s.ctx c x).run = .faulted ∨ (s.ctx c x).run = .frozen) →
          exec (.contextSave fn c x) s = .next (s.modCtx c x fun t => { t with saveOp := .save }) ∧
          exec (.contextRestore fn c x) s = .next (s.modCtx c x fun t => { t with saveOp := .restore (fn == 0) })) ∧
        (((s.ctx c x).saveOp ≠ .none ∨ ((s.ctx c x).run ≠ .halted ∧ (s.ctx c x).run ≠ .faulted ∧ (s.ctx c x).run ≠ .frozen)) →
          exec (.contextSave fn c x) s = .next s ∧ exec (.contextRestore fn c x) s = .next s)) ∧
      (s.coreUp c = true → (s.ctx c x).saveOp = .save → ∃ t : State, exec (.saveRestoreComplete c x) s = .next t ∧
        (∀ i, i < s.saveLen c x → t.mem.byte (stoBase c + s.saveOff c x + i) = (s.saveArea c x).getD i 0) ∧
        (∀ a, (a < stoBase c + s.saveOff c x ∨ stoBase c + s.saveOff c x + s.saveLen c x ≤ a) → t.mem.byte a = s.mem.byte a) ∧
        (t.ctx c x).saveOp = .none ∧ t.regs = s.regs ∧ (t.core c).waits = (s.core c).waits) ∧
      (∀ pf : Bool, s.coreUp c = true → (s.ctx c x).saveOp = .restore pf →
        let bad := s.firstPoison [⟨.own, stoBase c + s.saveOff c x, s.saveLen c x⟩]
        let d := s.modCtx c x fun t => { t with saveOp := .none }
        let r := (d.removeWait c x).dropHold c x
        let b := (List.range SAVE_BYTES).map fun i => if i < r.saveLen c x then r.mem.byte (stoBase c + r.saveOff c x + i)
          else Config.unmappedByte (stoBase c + r.saveOff c x + i)
        let a := r.areaRegs c x b pf
        let w := a.areaWait c x b
        let st := bits (area32 b 4) 0 3
        let inner : CtxState := if st = 1 then .ready else if st = 3 then .hold else if st = 4 then .faulted
          else if st = 2 ∨ st = 5 then (if w.isSome then .wait else .ready) else .halted
        (∀ p, bad = some p → exec (.saveRestoreComplete c x) s =
          .next (d.foundFault c x (poisonRec 0 x 10 4 p ((s.core c).eccRead.contains p || (s.ctx c x).bad == some (p, true))) (s.headOff c x)
            (s.ctx c x).head)) ∧
        (bad = none → exec (.saveRestoreComplete c x) s = .next ((a.modCtx c x fun t =>
          { t with run := if st = 5 ∨ (a.ctx c x).frz = true ∨ (a.core c).fault = true then .frozen else inner
                   under := inner
                   pend := bit (area32 b 4) 3
                   late := false
                   head := if (∀ v, w = some v → v.kind = .preWait) ∧ areaCmd b ≠ Cmd.zero then some (areaCmd b) else none
                   pre := false
                   desc := none
                   bad := none
                   loops := areaLoops b
                   hold := if inner = .hold then .head else .free
                   again := if inner = .wait then w else none }).settle c)) ∧
        (a.pg (.ctx c x) CTX_PC = area32 b 0x00 ∧ a.pg (.ctx c x) CTX_HALT = area32 b 0x0C &&& 0xFFFF ∧
          bits (a.pg (.ctx c x) CTX_CFG) 0 2 = bits (area32 b 0x08) 0 2 ∧
          bit (a.pg (.ctx c x) CTX_CFG) 2 = (bit (area32 b 0x08) 2 && (pf || bit (r.pg (.ctx c x) CTX_CFG) 2)) ∧
          (∀ i, i < 8 → a.pg (.ctx c x) (CTX_SHAPE i) = area32 b (0x10 + 4 * i)) ∧
          (∀ i, i < 256 → a.pg (.ctx c x) (CTX_MAP i) = area32 b (0x100 + 4 * i) &&& rwMask (.ctx c x) (CTX_MAP i)) ∧
          (∀ (p : Page) (o : Nat), o < 0x1000 → (p ≠ .ctx c x ∨ (o ≠ CTX_PC ∧ o ≠ CTX_CFG ∧ o ≠ CTX_HALT ∧ inRun o (CTX_SHAPE 0) 4 8 = false ∧
            inRun o (CTX_MAP 0) 4 256 = false)) → a.pg p o = r.pg p o) ∧ a = { r with regs := a.regs })))

/-- Where a save area holds what (R185): 1,280 bytes; CTX_PC at 0x00, the state and the pending doorbell at 0x04, CTX_CFG at 0x08,
CTX_HALT at 0x0C, the shapes from 0x10, the loop levels from 0x30, the wait's record at 0xB0, the head command at 0xC0 (the command that
waits, a RERUN or PHASE that holds, or the next one), the map from 0x100. A restore finds there the loop levels that the area marks active,
and no other, and of a wait its kind, its word or line, what it waits for, its class and the time it has left. -/
def Obligations.SaveAreaLayout : Prop :=
  (∀ (s : State) (c : CoreId) (x : CtxId),
    let b := s.saveArea c x
    b.length = SAVE_BYTES ∧ area32 b 0x00 = s.pg (.ctx c x) CTX_PC ∧ area32 b 0x04 = s.ctxState c x ∧
    area32 b 0x08 = s.pg (.ctx c x) CTX_CFG ∧ area32 b 0x0C = s.pg (.ctx c x) CTX_HALT ∧
    (∀ i, i < 8 → area32 b (0x10 + 4 * i) = s.pg (.ctx c x) (CTX_SHAPE i)) ∧
    (∀ l ∈ (s.ctx c x).loops, l.lvl < 8 → (∀ m ∈ (s.ctx c x).loops, m.lvl = l.lvl → m = l) →
      area32 b (0x30 + 16 * l.lvl) = w32 (l.start % 0x100_0000) ∧ area32 b (0x34 + 16 * l.lvl) = w32 (l.stop % 0x100_0000) ∧
        area32 b (0x38 + 16 * l.lvl) = w32 l.count ∧ area32 b (0x3C + 16 * l.lvl) = 1) ∧
    areaKind b = (s.savedWait c x).map (·.kind) ∧
    areaCmd b = (match s.savedWait c x, (s.ctx c x).hold with
      | some w, _ => w.job.cmd
      | none, .rerun j => j.cmd
      | none, .phase j _ _ => j.cmd
      | none, _ => (s.ctx c x).head.getD Cmd.zero) ∧
    (∀ i, i < 256 → area32 b (0x100 + 4 * i) = s.pg (.ctx c x) (CTX_MAP i))) ∧
  (∀ (b : List Byte) (l : Loop), l ∈ areaLoops b ↔ l.lvl < 8 ∧ bit (area32 b (0x3C + 16 * l.lvl)) 0 = true ∧
    l.start = bits (area32 b (0x30 + 16 * l.lvl)) 0 24 ∧ l.stop = bits (area32 b (0x34 + 16 * l.lvl)) 0 24 ∧
    l.count = (area32 b (0x38 + 16 * l.lvl)).toNat) ∧
  (∀ (s : State) (c : CoreId) (x : CtxId) (b : List Byte),
    (areaKind b = none → s.areaWait c x b = none) ∧
    (∀ k, areaKind b = some k → ∃ w, s.areaWait c x b = some w ∧ w.ctx = x ∧ w.kind = k ∧ w.job.cmd = areaCmd b ∧
      w.tclass.val = bits (area32 b 0xB0) 16 3 ∧
      w.remain = (if area32 b 0xB8 = 0xFFFF_FFFF then none else some (area32 b 0xB8).toNat) ∧
      ((k = .preWait ∨ k = .wait) → w.vid.toNat = bits (area32 b 0xB0) 8 8 ∧ w.n = (area32 b 0xB4).toNat ∧
        w.word = bits (area32 b 0xBC) 0 24) ∧
      ((k = .barrier ∨ k = .rerun) → w.line.val = bits (area32 b 0xB0) 24 4)))

/-- CONTEXT_RESET (R306, R425): the context issues nothing more and leaves the wait table; with nothing in flight it is HALTED at once, or
returns to HALTED from FROZEN, its doorbell and its loop levels are gone and CTX_HALT is 0xFFFE; shapes, map, memory and loft stay. While
a core fault stands it does nothing. CORE_RESET (R426): commands not started are discarded; with no DMA transaction in flight, the
contexts, units, queues and waits are as after reset at once, the core's block-specific registers have their reset values, STO_INIT apart,
its lofts hold (+0, +0) and its arrive bits are clear; headers stay, and with no unit command in execution, or after a core fault, so do
memory, every other register and every other core's state; a command in execution leaves of its destination what it had presented, in
its runs alone (that a part of it is, log entry 12). With a transaction in flight the core issues nothing, what its units have in
execution stays there, and the reset ends with the last. -/
def Obligations.Resets : Prop :=
  (∀ (fn : FnId) (c : CoreId) (x : CtxId) (s : State), s.reaches fn c = true →
      (((s.core c).fault = true ∨ (s.core c).resetting = true) → exec (.contextReset fn c x) s = .next s) ∧
      ((s.core c).fault = false → (s.core c).resetting = false → exec (.contextReset fn c x) s =
        .next (((s.modCtx c x fun t => { t with resetting := true, head := none, bad := none, again := none }).removeWait c x).settle c)) ∧
      ((s.core c).fault = false → s.calm c = true → (s.core c).waitOf x = none → (s.core c).busy x = false → (s.ctx c x).hold = .free →
        (∀ q : QId, ((s.core c).dmaq[q]).halted = false) →
        ∃ t : State, exec (.contextReset fn c x) s = .next t ∧ (t.ctx c x).cur = .halted ∧ (t.ctx c x).pend = false ∧ (t.ctx c x).loops = [] ∧
          (t.ctx c x).resetting = false ∧ t.pg (.ctx c x) CTX_HALT = 0xFFFE ∧
          (∀ (p : Page) (o : Nat), o < 0x1000 → (p ≠ .ctx c x ∨ o ≠ CTX_HALT) → t.pg p o = s.pg p o) ∧
          t.mem = s.mem ∧ t.loft = s.loft ∧ (∀ y : CtxId, y ≠ x → t.ctx c y = s.ctx c y) ∧ ∀ d : CoreId, d ≠ c → t.core d = s.core d)) ∧
  (∀ (fn : FnId) (c : CoreId) (s : State), s.reaches fn c = true →
      ((s.core c).resetting = true → exec (.coreReset fn c) s = .next s) ∧
      ((s.core c).resetting = false → (s.core c).txns = [] → ∃ t : State, exec (.coreReset fn c) s = .next t ∧
        (t.core c).ctxs = Vector.replicate 4 Ctx.reset ∧ (t.core c).waits = [] ∧ (t.core c).live = [] ∧ (t.core c).fault = false ∧
        (∀ u, ((t.core c).unit u).queue = [] ∧ ((t.core c).unit u).exec = []) ∧
        (∀ q : QId, ((t.core c).dmaq[q]).queue = [] ∧ ((t.core c).dmaq[q]).run = [] ∧ ((t.core c).dmaq[q]).halted = false) ∧
        (∀ (p : Page) (o : Nat), p.core? = some c → 0x100 ≤ o → o < 0x1000 → (p ≠ .sto c ∨ o ≠ STO_INIT) → t.pg p o = State.reset.pg p o) ∧
        t.pg (.sto c) STO_INIT = 1 ∧
        (∀ l : LineId, (t.rafArr l).testBit c.val = false) ∧
        (∀ u e i, u < 9 → e < 8 → i < 8192 → t.loftAt (loftKey c u e i) = { s := 0, c := 0 } ∧
          ∀ d : CoreId, d ≠ c → t.loftAt (loftKey d u e i) = s.loftAt (loftKey d u e i)) ∧
        (∀ a, inCellar a = false → (∀ g ∈ s.runningSegs c, a < g.addr ∨ g.addr + g.data.length ≤ a) → t.mem.byte a = s.mem.byte a) ∧
        t.mgmt = s.mgmt ∧ t.host = s.host ∧
        (((s.core c).fault = true ∨ ∀ u, ((s.core c).unit u).exec = []) → t.mem = s.mem ∧
          (∀ (p : Page) (o : Nat), o < 0x1000 → (p.core? ≠ some c ∨ o < 0x100) → (p ≠ .pkg ∨ o < 0x280 ∨ 0x300 ≤ o) → t.pg p o = s.pg p o) ∧
          ∀ d : CoreId, d ≠ c → t.core d = s.core d)) ∧
      ((s.core c).resetting = false → (s.core c).txns ≠ [] → ∃ t : State, exec (.coreReset fn c) s = .next t ∧
        (t.core c).resetting = true ∧ (t.core c).txns = (s.core c).txns ∧ (t.core c).waits = [] ∧ (t.core c).live = [] ∧
        (∀ u, ((t.core c).unit u).queue = [] ∧ ((t.core c).unit u).exec = ((s.core c).unit u).exec) ∧
        (∀ x w, exec (.nop c x w) t = .next t) ∧ t = { s with cores := t.cores }))

/-! ## Memory arrays -/

/-- ECC and scrubbing (R267, R280 to R282, R327, R343): a read that finds one flipped bit is corrected, counted and recorded in
STO_CE_ADDR, and the bit stands until an idle bc of its shelf writes it back; one that finds more rewrites the word with poison and its data
and FE as read, and records it, and no other word changes; delivered to an engine or the finishing unit it is a core fault that names the
command whose read the port makes (R220, R273, R421), of a read-modify-write it is delivered to none (R269).
The scrubber asks for its next line, unless its interval is 0. A burst of the attic that stays uncorrectable is rewritten with poison, no
other word changes, and the transaction that read it delivers what it found. SHELF_GRANT is one bc of a shelf (R269, R277, R278): the
second access of a read-modify-write needs no arbitration. ATTIC_REFRESH and ATTIC_PATROL_SCRUB move the refresh and the patrol line
(R328). ARBITER_GRANT is one grant (R341, R343): an owed refresh goes first, and the transaction granted at an attic channel reads or writes
there, one at a cellar port takes its place among the requests of its lines. -/
def Obligations.MemoryArrays : Prop :=
  ((∀ (c : CoreId) (s : State), s.coreUp c = true →
      (∀ (w : BitVec 24) (p : BitVec 3) (fl : BitVec 74), eccPort p.toNat = true →
        let f := s.mem.flipsAt (stoWord c w.toNat) ^^^ fl
        (flipCount f = 1 → exec (.storeroomEccCorrected c w p fl) s =
          .next (((s.bump (.sto c) 3 1).setPg (.sto c) STO_CE_ADDR (w32 (w.toNat + p.toNat <<< 24 + 1 <<< 31))).modMem fun m =>
            { m with flips := smSet noFlip m.flips (stoWord c w.toNat) f })) ∧
        (flipCount f ≠ 1 → exec (.storeroomEccCorrected c w p fl) s = .next s)) ∧
      (∀ h : ShelfId, let f := (s.core c).shelves[h]
        (∀ e, f.waiting = [] → f.lock = none → f.scrubWait = none → (s.mem.flips.find? fun e => inShelf c h e.1) = some e →
          exec (.correctionWriteback c h) s = .next { s with mem := { s.mem with flips := s.mem.flips.filter fun d => d.1 != e.1 } }) ∧
        ((f.waiting ≠ [] ∨ f.lock ≠ none ∨ f.scrubWait ≠ none) → exec (.correctionWriteback c h) s = .next s)) ∧
      (∀ (w : BitVec 24) (p : BitVec 3) (l : BitVec 4) (rmw : Bool) (fl : BitVec 74), eccPort p.toNat = true →
        let f := s.mem.flipsAt (stoWord c w.toNat) ^^^ fl
        let x := s.stoWordAt c w.toNat
        let u := ((s.setStoWord c w.toNat { data := x.data ^^^ f.setWidth 64, fe := x.fe != f.getLsbD 64, poison := true }).bump
          (.sto c) 4 1).record (.sto c) (mkRec 0x0301 w.toNat (p.toNat + bn rmw <<< 3 + l.toNat <<< 4 + shelfOf w.toNat <<< 8) 0 0)
        let n := if p = 2 then 9 else min l.toNat 8
        (flipCount f < 2 → exec (.stoEccUncorr c w p l rmw fl) s = .next s) ∧
        let first (f : Job → Bool) : Option Job :=
          (((s.core c).unit n).exec.find? f).orElse fun _ => ((s.core c).unit n).queue.find? f
        let reader : Option Job :=
          if p = 0 then ((((s.core c).unit n).exec.find? reading).orElse fun _ => ((s.core c).unit n).queue.find? isTile).orElse fun _ =>
            ((s.core c).unit n).exec.find? isTile
          else if p = 1 then first isBuild else first fun _ => true
        (2 ≤ flipCount f → (rmw = true ∨ p = 3 ∨ p = 7) → exec (.stoEccUncorr c w p l rmw fl) s = .next u) ∧
        (2 ≤ flipCount f → rmw = false → p = 4 → exec (.stoEccUncorr c w p l rmw fl) s =
          .next (u.modCore c fun k => { k with eccRead := stoWord c w.toNat :: k.eccRead })) ∧
        (2 ≤ flipCount f → rmw = false → p.toNat ≤ 2 →
          (∀ j, reader = some j →
            exec (.stoEccUncorr c w p l rmw fl) s = .next (u.coreFault c n (poisonRec (opcode j.cmd) j.ctx n p.toNat w.toNat true))) ∧
          (reader = none →
            exec (.stoEccUncorr c w p l rmw fl) s = .next (u.coreFault c n (poisonRec 0 0 n p.toNat w.toNat true)))) ∧
        u.stoWordAt c w.toNat = { data := x.data ^^^ f.setWidth 64, fe := x.fe != f.getLsbD 64, poison := true } ∧
        (∀ a, a / 8 ≠ stoWord c w.toNat → u.mem.byte a = s.mem.byte a) ∧
        (∀ v, v ≠ stoWord c w.toNat → u.mem.feAt v = s.mem.feAt v ∧ u.mem.poisonAt v = s.mem.poisonAt v ∧ u.mem.flipsAt v = s.mem.flipsAt v) ∧
        u.mem.flipsAt (stoWord c w.toNat) = 0 ∧ u.pg (.sto c) PG_ERR_CODE = 0x0301 ∧ u.pg (.sto c) PG_ERR_INFO0 = w32 w.toNat ∧
        bit (u.pg (.sto c) PG_EVT_RAW) EVT_ERR = true ∧ u.cores = s.cores ∧ u.loft = s.loft) ∧
      (∀ h : ShelfId, (bits (s.pg (.sto c) STO_SCRUB) 0 16 = 0 → exec (.storeroomScrub c h) s = .next s) ∧
        (bits (s.pg (.sto c) STO_SCRUB) 0 16 ≠ 0 → exec (.storeroomScrub c h) s =
          .next (s.modCore c fun k => { k with shelves := vmod k.shelves h fun f =>
            { f with line := (f.line + 1) % 65536, scrubWait := some (f.scrubWait.getD 0) } })))) ∧
    (∀ (t : StackId) (a : BitVec 48) (req : BitVec 7) (tag : Option TagId) (scrub : Bool) (fs : List W64) (s : State), s.stackUp t = true →
      (scrub = true → s.patrolled t (s.atticChannel a.toNat) ≠ some (a.toNat / 64) → exec (.atticEccUncorr t a req tag scrub fs) s = .next s) ∧
      (a.toNat % 8 = 0 → a.toNat / 8 % 8 + fs.length ≤ 8 → s.place a.toNat = .attic → s.atticStack a.toNat = t →
        (scrub = true → s.patrolled t (s.atticChannel a.toNat) = some (a.toNat / 64)) →
        (∃ i, i < fs.length ∧ s.mem.poisonAt (a.toNat / 8 + i) = false) →
        ∃ u : State, exec (.atticEccUncorr t a req tag scrub fs) s = .next u ∧
          (∀ i, i < fs.length → u.mem.poisonAt (a.toNat / 8 + i) = true ∧ (u.mem.word (a.toNat / 8 + i)).data =
            if s.mem.poisonAt (a.toNat / 8 + i) then (s.mem.word (a.toNat / 8 + i)).data else (s.mem.word (a.toNat / 8 + i)).data ^^^ fs.getD i 0) ∧
          (∀ b, (b < a.toNat ∨ a.toNat + 8 * fs.length ≤ b) → u.mem.byte b = s.mem.byte b) ∧
          (∀ w, u.mem.feAt w = s.mem.feAt w ∧ ((w < a.toNat / 8 ∨ a.toNat / 8 + fs.length ≤ w) → u.mem.poisonAt w = s.mem.poisonAt w)) ∧
          u.pg (.att t) PG_ERR_CODE = 0x0302 ∧ u.pg (.att t) PG_ERR_INFO0 = w32 a.toNat ∧
          (∀ (c : CoreId) (g : TagId) (x : Txn), scrub = false → req.toNat = c.val → tag = some g →
            (s.core c).txns.find? (fun t => t.tag == g.val) = some x →
            (x.got = none → s.readPort x.body = none →
              (u.core c).txns.find? (fun t => t.tag == g.val) = some { x with got := some (u.txnData x) }) ∧
            (∀ d, x.got = some d → x.wrote = false → ∃ e, (u.core c).txns.find? (fun t => t.tag == g.val) = some { x with got := some e } ∧
              ∀ r n i, x.body.reads = [(r, n)] → d.length = n → i < n → u.mapped r n = true →
                e.getD i (0, false) = if a.toNat / 8 ≤ (r + i) / 8 ∧ (r + i) / 8 < a.toNat / 8 + fs.length then
                  (u.mem.read x.key r n).getD i (0, false) else d.getD i (0, false)))))) ∧
  ((∀ (c : CoreId) (h : ShelfId) (l : List ShelfAcc) (s : State), s.coreUp c = true →
      let f := (s.core c).shelves[h].present h l
      let counted (g : Shelf) (stray aged : Bool) : State :=
        (((s.modCore c fun k => { k with shelves := k.shelves.set h g }).bump (.sto c) 0 (bn (decide (2 ≤ f.asking)))).bump (.sto c) 1
          (bn stray)).bump (.sto c) 2 (bn aged)
      (∀ a, f.lock = some a → exec (.shelfGrant c h l) s =
        .next (counted { f.wait1 with lock := none, served := [a] } (!s.bound c h a.port) false)) ∧
      (f.lock = none →
        (f.grant (s.bound c h) = none → exec (.shelfGrant c h l) s = .next (counted (f.after none) false false)) ∧
        (∀ p aged, f.grant (s.bound c h) = some (.port p aged) → exec (.shelfGrant c h l) s =
          .next (counted (f.after (some (.port p aged))) (!s.bound c h p) aged)) ∧
        (∀ aged, f.grant (s.bound c h) = some (.scrubber aged) → exec (.shelfGrant c h l) s =
          .next (counted (f.after (some (.scrubber aged))) false aged)))) ∧
    (∀ (t : StackId) (ch : Fin 32) (s : State), s.stackUp t = true →
      exec (.atticRefresh t ch) s = .next { s with arbs := vmod s.arbs (arbIndex (.attic t ch)) fun b => { b with refresh := true } } ∧
      (∀ cor : Bool, bits (s.pg (.att t) ATT_SCRUB) 0 16 = 0 → exec (.atticPatrolScrub t ch cor) s = .next s) ∧
      (∀ cor : Bool, bits (s.pg (.att t) ATT_SCRUB) 0 16 ≠ 0 → exec (.atticPatrolScrub t ch cor) s =
        .next { ((s.bump (.att t) 0 64).bump (.att t) 2 (bn cor)) with
          patrol := vmod s.patrol (Fin.ofNat 256 (32 * t.val + ch.val)) fun n => (n + 1) % CHANNEL_LINES })) ∧
    (∀ (a : ArbId) (arrived : List ArbReq) (ns ce : Nat) (s : State),
      (match a with
       | .attic t _ => s.stackUp t
       | .cellar p => s.pkgUp && bit (s.pg (.cel p) CEL_STAT) 0) = true →
      let b : Arbiter := { s.arbs[arbIndex a] with
        waiting := ((s.arbs[arbIndex a]).waiting.map fun q => { q with waited := q.waited + ns }) ++ arrived.filter fun q => s.arbMay a q.req }
      let put (v : Arbiter) : State := { s with arbs := s.arbs.set (arbIndex a) v }
      (b.refresh = true → exec (.arbiterGrant a arrived ns ce) s = .next (put { b with refresh := false, granted := none })) ∧
      (b.refresh = false → b.waiting = [] → exec (.arbiterGrant a arrived ns ce) s = .next (put { b with granted := none })) ∧
      (b.refresh = false → ∀ q aged v, s.arbGrant a b = some (q, aged, v) →
        let g := (put v).bump (arbPage a) 4 (bn aged)
        let k : State := match a with
          | .attic t _ => g.bump (.att t) 2 ce
          | .cellar _ => g
        ((q.tag = none ∨ 64 ≤ q.req.val) → exec (.arbiterGrant a arrived ns ce) s = .next k) ∧
        (∀ t : TagId, q.tag = some t → q.req.val < 64 → exec (.arbiterGrant a arrived ns ce) s =
          .next (k.grantTxn a b.count (Fin.ofNat 64 q.req.val) t.val)))) ∧
    (∀ (c : CoreId) (m tag : Nat) (x : Txn) (s : State), (s.core c).txns.find? (fun x => x.tag == tag) = some x →
      (∀ p : CelId, (x.cel = some p → x.turn = none → s.grantTxn (.cellar p) m c tag = s.modTxn c tag fun t => { t with turn := some m }) ∧
        ((x.cel ≠ some p ∨ x.turn ≠ none) → s.grantTxn (.cellar p) m c tag = s)) ∧
      (∀ (t : StackId) (ch : Fin 32),
        (∀ r n, x.got = none → x.body.reads = [(r, n)] → s.arbAt r = some (.attic t ch) →
          s.grantTxn (.attic t ch) m c tag = s.receive c x (s.txnData x)) ∧
        (∀ d n, x.cel = none → x.got ≠ none → x.wrote = false → x.body.writes c = some (d, n) → s.arbAt d = some (.attic t ch) →
          s.mayWrite1 c x = true → s.grantTxn (.attic t ch) m c tag = s.writeNow c x))))

/-- What an arbiter grants (R340, R341): a transaction that waits, of its requester the oldest; when one waits, one is granted. The oldest
of the aged transactions comes before all others and moves no turn. With none aged a requester in its turn is granted; its turn ends after
as many grants as its weight, or when it has nothing waiting, and passes to the next requester in ascending index with a transaction
waiting, the lowest following the highest. What a shelf grants (R274, R275, R277): something whenever something
requests, and only what requests; an aged request before all others; with none aged, a bound port before an unbound one, and the scrubber
last. With a read of an engine port go the reads of its other lanes of the same line, of each lane the oldest access. -/
def Obligations.ArbitersAreFair : Prop :=
  (∀ (s : State) (a : ArbId) (b : Arbiter),
      let limit := bits (s.pg (arbPage a) ARB_AGE) 0 16
      (∀ q, s.arbAged a b.waiting = some q → q ∈ b.waiting ∧ limit ≠ 0 ∧ limit ≤ q.waited ∧
        ∀ p ∈ b.waiting, p.waited ≤ q.waited ∧ (p.waited = q.waited → q.req ≤ p.req)) ∧
      (s.arbAged a b.waiting = none → limit ≠ 0 → ∀ p ∈ b.waiting, p.waited < limit) ∧
      (∀ q aged v, s.arbGrant a b = some (q, aged, v) → q ∈ b.waiting ∧ v.granted = some q ∧ v.waiting = b.waiting.erase q ∧
        v.refresh = b.refresh ∧ (aged = false → b.waiting.find? (fun p => p.req.val == q.req.val) = some q)) ∧
      (b.waiting ≠ [] → s.arbGrant a b ≠ none) ∧
      (∀ q, s.arbAged a b.waiting = some q → ∃ v, s.arbGrant a b = some (q, true, v) ∧ v.turn = b.turn ∧ v.used = b.used) ∧
      (s.arbAged a b.waiting = none → (b.ended = true ∨ s.arbWeight a b.turn ≤ b.used ∨ ∀ p ∈ b.waiting, p.req.val ≠ b.turn) → b.waiting ≠ [] →
        ∃ q v, s.arbGrant a b = some (q, false, v) ∧ v.turn = q.req.val ∧ v.used = 1 ∧
          (∀ p ∈ b.waiting, (q.req.val + 80 - b.turn % 81) % 81 ≤ (p.req.val + 80 - b.turn % 81) % 81) ∧
          (v.ended = true ↔ s.arbWeight a q.req.val ≤ 1 ∨ ∀ p ∈ v.waiting, p.req.val ≠ q.req.val)) ∧
      (s.arbAged a b.waiting = none → b.ended = false → b.used < s.arbWeight a b.turn → (∃ p ∈ b.waiting, p.req.val = b.turn) →
        ∃ q v, s.arbGrant a b = some (q, false, v) ∧ q.req.val = b.turn ∧ v.turn = b.turn ∧ v.used = b.used + 1 ∧
          (v.ended = true ↔ s.arbWeight a b.turn ≤ b.used + 1 ∨ ∀ p ∈ v.waiting, p.req.val ≠ b.turn))) ∧
  (∀ (f : Shelf) (bound : Fin 5 → Bool),
      (f.grant bound = none ↔ (∀ p, f.asks p = false) ∧ f.scrubWait = none) ∧
      (∀ p aged, f.grant bound = some (.port p aged) → f.asks p = true ∧ (aged = true → bound p = false ∧ 16 ≤ f.age p)) ∧
      (∀ aged, f.grant bound = some (.scrubber aged) → (∃ n, f.scrubWait = some n ∧ (aged = true → 256 ≤ n)) ∧
        (aged = false → ∀ p, f.asks p = false)) ∧
      (∀ p, f.asks p = true → bound p = false → 16 ≤ f.age p → ∃ g, f.agedGrant bound = some g ∧ f.grant bound = some g) ∧
      (f.agedGrant bound = none → ∀ p, f.asks p = true → bound p = true → ∃ q, f.grant bound = some (.port q false) ∧ bound q = true) ∧
      (∀ p aged a, f.laneTurn p = some a →
        a.port = p ∧ (f.after (some (.port p aged))).lock = (if a.rmw then some a else none) ∧
          a ∈ (f.after (some (.port p aged))).served ∧
          ∀ b ∈ (f.after (some (.port p aged))).served, b = a ∨
            (b.port = a.port ∧ a.port.val ≤ 1 ∧ a.write = false ∧ b.write = false ∧ b.word.toNat / 8 = a.word.toNat / 8)))

/-! ## Links -/

/-- LINK_TRAINING_COMPLETE: with fewer lanes than LNK_CTRL.maxw allows the port records LINK_DEGRADED, an event and no fault, with the
lane mask in PG_ERR_INFO0; either way it goes UP (R350). -/
def Obligations.DegradedTraining : Prop :=
  ∀ (i : PortId) (lanes : Byte) (peer : W16) (pp : BitVec 4) (s : State), s.pkgUp = true → s.lnkState i = LNK_TRAINING →
    bit (s.pg (.lnk i) LNK_CTRL) 0 = true → lanes ∈ laneGroups → laneCount lanes ≤ s.maxLanes i →
    ∃ t : State, exec (.linkTrainingComplete i lanes peer pp) s = .next t ∧ t.lnkState i = LNK_UP ∧
      (laneCount lanes < s.maxLanes i → t.pg (.lnk i) PG_ERR_CODE = 0x0403 ∧ t.pg (.lnk i) PG_ERR_INFO0 = lanes.setWidth 32 ∧
        bit (t.pg (.lnk i) PG_EVT_RAW) EVT_ERR = true ∧ bit (t.pg (.lnk i) PG_EVT_RAW) EVT_FAULT = bit (s.pg (.lnk i) PG_EVT_RAW) EVT_FAULT) ∧
      (s.maxLanes i ≤ laneCount lanes → t.pg (.lnk i) PG_ERR_CODE = s.pg (.lnk i) PG_ERR_CODE) ∧
      bits (t.pg (.lnk i) LNK_STAT) 2 8 = lanes.toNat ∧ t.pg (.lnk i) LNK_PEER_ID = w32 (peer.toNat + pp.toNat <<< 16 + 1 <<< 31) ∧
      t.ports[i] = Port.trained ∧ (∀ k : PortId, k ≠ i → t.ports[k] = s.ports[k]) ∧ t.mem = s.mem ∧ t.cores = s.cores

/-- LNK_CTRL_WRITE by function 0 (R349, R371, R375): en from 0 to 1 begins training; en from 1 to 0 declares LINK_LOST of an UP port with
reason disabled, and disables one that trains. Pulls (R369): LNK_PULL_GO is ignored while one runs; with a destination that is no one
memory it ends with status 3, on a port that is not UP with status 2; else it runs and its reads go out. It ends when every read has been
answered, with MISS if one missed, and signals its word. That go reads 0, and the rounds of a pull, is log entry 29. -/
def Obligations.LinkRegisterWrites : Prop :=
  (∀ (i : PortId) (v : W32) (s : State), s.pkgUp = true → s.hostUp 0 = true →
      let w := s.setPg (.lnk i) LNK_CTRL (v &&& 7)
      (bit v 0 = true → bit (s.pg (.lnk i) LNK_CTRL) 0 = false → exec (.lnkCtrlWrite 0 i v) s = .next (w.setLnkState i LNK_TRAINING)) ∧
      (bit v 0 = true → bit (s.pg (.lnk i) LNK_CTRL) 0 = true → exec (.lnkCtrlWrite 0 i v) s = .next w) ∧
      (bit v 0 = false → s.lnkState i = LNK_UP → exec (.lnkCtrlWrite 0 i v) s = .next (w.linkLost i 4)) ∧
      (bit v 0 = false → s.lnkState i = LNK_TRAINING → exec (.lnkCtrlWrite 0 i v) s = .next (w.setLnkState i LNK_DISABLED)) ∧
      (bit v 0 = false → s.lnkState i ≠ LNK_UP → s.lnkState i ≠ LNK_TRAINING → exec (.lnkCtrlWrite 0 i v) s = .next w) ∧
      (∀ fn : FnId, fn ≠ 0 → exec (.lnkCtrlWrite fn i v) s = .next s)) ∧
  (∀ (i : PortId) (s : State), s.pkgUp = true →
      let p : Page := .lnk i
      let len := (s.pg p LNK_PULL_LEN).toNat
      let dst := p42 (s.pg p LNK_PULL_DST_LO) (s.pg p LNK_PULL_DST_HI)
      let sg := s.pg p LNK_PULL_SIG
      let good := s.atticOrSto dst (64 * len) && !(bit sg 31 && !s.enabled (sigWordCore sg))
      (s.hostUp 0 = true →
        (bit (s.pg p LNK_PULL_STAT) 0 = true → exec (.lnkPullGo 0 i) s = .next s) ∧
        (bit (s.pg p LNK_PULL_STAT) 0 = false → good = false → exec (.lnkPullGo 0 i) s = .next (s.pullEnds i 3)) ∧
        (bit (s.pg p LNK_PULL_STAT) 0 = false → good = true → s.linkUp i = false → exec (.lnkPullGo 0 i) s = .next (s.pullEnds i 2)) ∧
        (bit (s.pg p LNK_PULL_STAT) 0 = false → good = true → s.linkUp i = true → exec (.lnkPullGo 0 i) s =
          .next (State.pullPump 1024 ((s.setPg p LNK_PULL_STAT 1).modPort i fun u =>
            { u with pull := some { asked := 0, total := len, hid := (s.pg p LNK_PULL_HID).setWidth 8, off := s.pg p LNK_PULL_OFF, dst := dst,
                                    sig := sg, rid := s.ports[i].nextRid, out := [], nextTag := 0, miss := false }
                     nextRid := u.nextRid + 1 }) i))) ∧
      (∀ pl : Pull, s.linkUp i = true → s.ports[i].pull = some pl →
        (pl.total ≤ pl.asked → pl.out = [] → exec (.pullComplete i) s =
          .next (if bit pl.sig 31 then (s.pullEnds i (if pl.miss then 1 else 0)).linkSignal i pl.sig 1
            else s.pullEnds i (if pl.miss then 1 else 0))) ∧
        ((pl.asked < pl.total ∨ pl.out ≠ []) → exec (.pullComplete i) s = .next s)))

/-- Flits (R352, R353, R355, R359, R378): what FEC corrected and could not correct is counted; a flit that fails its check asks for a
replay; one out of sequence is discarded; one in sequence is accepted and its messages are parsed. A replay drives every flit of the replay
buffer again; an idle flit goes out when no message byte waits; returned credits add up. An accepted flit and the acknowledgements (R352,
R353): the next sequence number is expected; the flits acknowledged leave the replay buffer, in order; the message bytes join those
received. That an unanswered nak is one flag, and what the wire holds, is log entry 29. -/
def Obligations.Flits : Prop :=
  (∀ (i : PortId) (s : State), s.portUp i = true →
      (∀ f : Flit, f.wf = true →
        let r := (s.bump (.lnk i) 3 f.fecCorr).bump (.lnk i) 4 f.fecUncorr
        (f.good = false → exec (.flitReceive i f) s = .next (r.modPort i fun p => { p with sendNak := true })) ∧
        (f.good = true → f.seq ≠ s.ports[i].rxSeq → exec (.flitReceive i f) s = .next r) ∧
        (f.good = true → f.seq = s.ports[i].rxSeq → exec (.flitReceive i f) s =
          .next (State.parseRx (f.body.length + 32) (r.modPort i fun p => p.accept f) i))) ∧
      (s.ports[i].nak ≠ none → exec (.nakReplay i) s =
        .next ((s.bump (.lnk i) 2 s.ports[i].replay.length).modPort i fun p => { p with nak := none, wire := p.wire ++ p.replay })) ∧
      (s.ports[i].txBytes = [] → s.ports[i].replay.length < 512 → exec (.idleFlit i) s = .next (s.modPort i fun p => p.sendFlit [] true)) ∧
      (∀ v n rest, s.ports[i].creditIn = (v, n) :: rest → exec (.creditReturn i) s =
        .next (State.pullPump 1024 (s.modPort i fun p =>
          { p with creditIn := rest, credit := p.credit.set v.toFin (p.credit[v.toFin] + n.toNat) }) i))) ∧
  (∀ (p : Port) (f : Flit), p.txBytes = [] →
      (p.accept f).rxSeq = p.rxSeq + 1 ∧ (p.accept f).rxBytes = p.rxBytes ++ f.body ∧ (p.accept f).sendNak = false ∧
      (∀ (a b : List Flit) (g : Flit), p.replay = a ++ g :: b → g.seq = f.ack → (∀ h ∈ a, h.seq ≠ f.ack) → (p.accept f).replay = b) ∧
      ((∀ h ∈ p.replay, h.seq ≠ f.ack) → (p.accept f).replay = p.replay) ∧
      (p.accept f).nak = (if f.nak then some f.ack else p.nak))

/-- The sender counts consecutive naks for the same seq: a nak for the seq of the nak before it counts one more, one for another seq
counts 1, and a flit without a nak ends the count; with 8 the port declares LINK_LOST with reason RETRY, 3 (R354). -/
def Obligations.RetryLimit : Prop :=
  (∀ (p : Port) (f : Flit),
    (f.nak = false → (p.accept f).nakRun = 0) ∧
    (f.nak = true → (p.accept f).nakSeq = f.ack + 1 ∧
      (p.accept f).nakRun = if p.nakRun ≠ 0 ∧ p.nakSeq = f.ack + 1 then p.nakRun + 1 else 1)) ∧
  (∀ (i : PortId) (s : State), s.portUp i = true →
    (8 ≤ s.ports[i].nakRun → exec (.retryLimit i) s = .next (s.linkLost i 3)) ∧
    (s.ports[i].nakRun < 8 → exec (.retryLimit i) s = .next s))

/-- A message as bytes is parsed as the message, and the bytes behind it stay (R356, R357). -/
def Obligations.MessagesRoundTrip : Prop :=
  ∀ (m : Msg) (rest : List Byte), m.kind ∈ [MSG_WR, MSG_SIG, MSG_RD, MSG_RDR, MSG_ACK] → m.bad = false →
    m.len.toNat ≤ 32 → m.gcid.toNat < 0x2000 → m.status.toNat ≤ (if m.kind = MSG_RDR ∨ m.kind = MSG_ACK then 1 else 0) →
    (m.pm = true → hasPayload m.kind = true) → m.payload.length = (if hasPayload m.kind then 64 * m.len.toNat else 0) →
    m.poison.length = m.payload.length / 8 → (m.pm = false → ∀ b ∈ m.poison, b = false) →
    parseMsg (m.bytes ++ rest) = some (m, rest)

/-- WR, SIG, RD, RDR and ACK take the oldest message of their channel when it is of their kind, and owe its credits (R359, R365 to R369);
a message dropped at its hatch is recorded as HATCH_MISS with its reason and answered with MISS, one applied is answered without. What an
answer repeats of its message is log entry 29, DEDUCED. -/
def Obligations.LinkMessages : Prop :=
  ∀ (i : PortId) (s : State), s.portUp i = true →
    (∀ (ctl : Bool) (m : Msg) (rest : List Msg), s.ports[i].rxq[(chanOf ctl).toFin] = m :: rest →
      let u := (s.modPort i fun p => { p with rxq := p.rxq.set (chanOf ctl).toFin rest }).oweCredits i m
      (m.kind = MSG_WR →
        (u.hatchDrop i m = none → exec (.wr i ctl) s =
          .next (((u.linkWrite i (u.hatchBase i m.hid.toNat + 64 * m.off.toNat)
            (withPoison (m.payload.take (64 * m.len.toNat)) m.poison)).modPort i
              fun p => { p with filter := filterAfter p.filter m false }).sendLink i (answerMsg i m MSG_ACK false))) ∧
        (∀ why, u.hatchDrop i m = some why → exec (.wr i ctl) s =
          .next (((u.dropMsg i m why).modPort i fun p => { p with filter := filterAfter p.filter m true }).sendLink i
            (answerMsg i m MSG_ACK true)))) ∧
      (m.kind = MSG_SIG →
        (∀ c, u.hatchDrop i m = none → u.hatchCore i m.hid.toNat = some c → exec (.sig i ctl) s =
          .next ((((((u.modPort i fun p => { p with filter := filterAfter p.filter m false }).carry (linkBay i) (bayOf c) false).touch
            c).applySignal c
            ((u.hatchBase i m.hid.toNat - stoBase c) / 8 + m.sw.toNat) m.n.toNat (remoteGcid i m.gcid)).sendLink i
              (answerMsg i m MSG_ACK false)).settle c)) ∧
        (∀ why, u.hatchDrop i m = some why → exec (.sig i ctl) s =
          .next (((u.dropMsg i m why).modPort i fun p => { p with filter := filterAfter p.filter m false }).sendLink i
            (answerMsg i m MSG_ACK true)))) ∧
      (m.kind ≠ MSG_WR → exec (.wr i ctl) s = .next s) ∧ (m.kind ≠ MSG_SIG → exec (.sig i ctl) s = .next s)) ∧
    (∀ (m : Msg) (rest : List Msg), s.ports[i].rxq[VC_REQ.toFin] = m :: rest → m.kind = MSG_RD → exec (.rd i) s =
      .next (((s.modPort i fun p => { p with rxq := p.rxq.set VC_REQ.toFin rest }).oweCredits i m).applyRd i m)) ∧
    (∀ (m : Msg) (rest : List Msg), s.ports[i].rxq[VC_RSP.toFin] = m :: rest →
      let u := (s.modPort i fun p => { p with rxq := p.rxq.set VC_RSP.toFin rest }).oweCredits i m
      (m.kind = MSG_RDR → exec (.rdr i) s = .next (u.applyRdr i m)) ∧
      (m.kind = MSG_ACK → exec (.ack i) s = .next ((u.applyAck i m).settle (Fin.ofNat 64 (m.tag.toNat / 512)))))

/-- A partner's WR changes no byte outside the open hatches of its port, and its RD changes none at all (R363 to R367). -/
def Obligations.HatchesConfine : Prop :=
  (∀ (i : PortId) (ctl : Bool) (s t : State), exec (.wr i ctl) s = .next t →
    (∀ a, t.mem.byte a ≠ s.mem.byte a → ∃ h, s.hatchOpen i h = true ∧ s.hatchBase i h ≤ a ∧ a < s.hatchBase i h + 64 * s.hatchSize i h) ∧
    t.loft = s.loft ∧ t.mgmt.fuses = s.mgmt.fuses ∧ t.power = s.power) ∧
  (∀ (i : PortId) (s t : State), exec (.rd i) s = .next t → t.mem = s.mem ∧ t.cores = s.cores ∧ t.loft = s.loft)

/-- LOSS_OF_SIGNAL and HEARTBEAT_TIMEOUT declare LINK_LOST of an UP port with reasons 1 and 2 (R371, R372): the port is LOST, what it
received and had not passed on is discarded, every hatch is closed, the pull is over, the record names the reason and the partner, peer and
port of LNK_PEER_ID, with the messages dropped, and the RSIGNALs of the port have nothing in flight or waiting. -/
def Obligations.LinkLost : Prop :=
  ∀ (i : PortId) (s : State), s.portUp i = true →
    exec (.lossOfSignal i) s = .next (s.linkLost i 1) ∧ exec (.heartbeatTimeout i) s = .next (s.linkLost i 2) ∧
    ∀ why, 1 ≤ why → why ≤ 4 →
      let t := s.linkLost i why
      t.lnkState i = LNK_LOST ∧ bits (t.pg (.lnk i) LNK_STAT) 10 3 = why ∧
      (∀ v : Fin 4, t.ports[i].rxq[v] = []) ∧ t.ports[i].rxBytes = [] ∧ t.ports[i].pull = none ∧
      (∀ h, h < 64 → t.hatchOpen i h = false) ∧ t.pg (.lnk i) PG_ERR_CODE = 0x0401 ∧ t.pg (.lnk i) PG_ERR_INFO0 = w32 why ∧
      t.pg (.lnk i) (PG_ERR_INFO0 + 4) = w32 (bits (s.pg (.lnk i) LNK_PEER_ID) 0 20) ∧
      t.pg (.lnk i) (PG_ERR_INFO0 + 8) = w32 ((s.ports[i].rxq.toList.map List.length).sum) ∧
      bit (t.pg (.lnk i) PG_EVT_RAW) EVT_ERR = true ∧
      (∀ (c : CoreId), ∀ x ∈ (t.core c).txns, ∀ off, x.body ≠ .wr i off ∧ x.body ≠ .sg i) ∧
      (∀ (c : CoreId) (q : QId), ∀ j ∈ ((t.core c).dmaq[q]).queue, opcode j.cmd = OP_RSIGNAL → rsPort j.cmd = i → dmaNoop j = true) ∧
      (∀ k : PortId, k ≠ i → t.ports[k] = s.ports[k])

/-! ## Power, heat, variants -/

/-- CURRENT_SAMPLE, JUNCTION_SENSOR_SAMPLE, AVSBUS_READ (R12, R263, R328, R382, R383, R392): a sample gives each island's power, its
current at its setpoint, and the package's, the last AVSBus reading corrected by what the islands' power has changed since (log entry 23);
P_pkg and P_c are the averages of 100 of them, to nearest even. The bands of each island stand in FU_SKIP_SENSE, by its hottest sensor, the
stack temperatures in ATT_STAT; a count of samples within the budget, and one of cool samples, go on or start again. The power cap, the
thermal throttle and the trip (R392 to R394, R466): a cap comes when the samples exceed a limit, a throttle at 95 °C, each recorded as
THERM_THROTTLE with its cause and ALERT_N asserted, and every island above V2 is to go to V2; they lift after 100 samples in a row below
the limit, and the islands go back to their decided variants, but for one whose PHASE waits for its decision. At 110 °C THERMTRIP_N
asserts, PWR_TRIP_LOG takes the sensor, and the package stops. DROOP_STRETCH and DROOP_RESTORE (R391, R396): a rail below the setpoint by
more than PWR_DROOP_CFG stretches the island's clock, counted once; it ends after 64 consecutive cycles above the middle of the two, the
time stretched counted in ns, each cycle at its variant. -/
def Obligations.PowerEvents : Prop :=
  (∀ s : State,
      (∀ p : PowerSample, s.pkgUp = true →
        let isl : Vector Nat 64 := Vector.ofFn fun c => if s.enabled c then p.cur[c] * s.setpoint c else 0
        let pkg := ((List.finRange 10).map fun k => s.power.volts[k] * s.power.amps[k]).sum + isl.toList.sum - s.power.atRead
        ∃ t : State, exec (.currentSample p) s = .next t ∧
          t = { ((s.bump .pwr 2 (bn s.thr)).bump .pwr 3 (bn s.pcap)) with power := t.power } ∧
          t.power = { s.power with samples := ((pkg, isl) :: s.power.samples).take 100, averages := (t.power.pPkg :: s.power.averages).take 1000,
                                   under := if t.power.pPkg ≤ 1000000 * s.budget then s.power.under + 1 else 0 } ∧
          (∀ f : Nat × Vector Nat 64 → Nat, let n := t.power.samples.length
            let m := meanUw (t.power.samples.map f)
            1 ≤ n ∧ 2 * n * m ≤ 2 * (t.power.samples.map f).sum + n ∧ 2 * (t.power.samples.map f).sum ≤ 2 * n * m + n ∧
              (2 * (t.power.samples.map f).sum + n = 2 * n * m ∨ 2 * (t.power.samples.map f).sum = 2 * n * m + n → m % 2 = 0)) ∧
          t.power.pPkg = meanUw (t.power.samples.map (·.1)) ∧ ∀ c, t.power.pCore c = meanUw (t.power.samples.map (·.2[c]))) ∧
      (∀ j : JunctionSample, s.pkgUp = true → ∃ t : State, exec (.junctionSensorSample j) s = .next t ∧
        t.power = { s.power with temp := j.sensor, rail := j.rail, cool := if s.coolSample j then s.power.cool + 1 else 0 } ∧
        (s.coolSample j = true ↔ ∀ i, s.sensorThere i = true → j.sensor[i] < 95 - (bits (s.pg .pwr PWR_THM_HYST) 0 4 : Int)) ∧
        (∀ c : CoreId, (∀ k, k < 4 → j.sensor[Fin.ofNat 304 (4 * c.val + k)] ≤ hottest j.sensor c) ∧
          ∃ k, k < 4 ∧ hottest j.sensor c = j.sensor[Fin.ofNat 304 (4 * c.val + k)]) ∧
        (∀ c : CoreId, s.enabled c = true → t.pg (.fu c) FU_SKIP_SENSE = w32 (tempBand (hottest j.sensor c) + voltBand j.rail[c] <<< 3)) ∧
        (∀ u : StackId, u ∈ s.stacks → bits (t.pg (.att u) ATT_STAT) 8 8 = j.stackTemp[u] % 256 ∧
          bit (t.pg (.att u) ATT_STAT) 1 = decide (85 < j.stackTemp[u])) ∧
        (∀ (p : Page) (o : Nat), o < 0x1000 → o ≠ FU_SKIP_SENSE → o ≠ ATT_STAT → t.pg p o = s.pg p o) ∧
        t = { s with regs := t.regs, power := t.power }) ∧
      (∀ v a d : Vector Nat 10, s.alive = true → exec (.avsbusRead v a d) s =
        .next { s with power := { s.power with volts := v, amps := a, temps := d, atRead := s.power.islands } })) ∧
  (∀ s : State,
      let capped (t : State) : Prop := ∀ c : CoreId, s.enabled c = true → (t.island c).goal =
        (match (s.island c).goal with
         | some g => some (capVar true g)
         | none => if (s.island c).var < 2 then some 2 else none)
      let freed (t : State) : Prop := ∀ c : CoreId, s.enabled c = true →
        (((∃ j x, (s.ctx c 0).hold = .phase j x none) ∨ (s.island c).var = (s.island c).decided) → (t.island c).goal = none) ∧
        ((∀ j x, (s.ctx c 0).hold ≠ .phase j x none) → (s.island c).var ≠ (s.island c).decided →
          (t.island c).goal = some (s.island c).decided)
      (s.overPower = none ↔ s.power.summed ≤ 2600000000 ∧
        (s.power.averages.length = 1000 → s.power.averages.sum ≤ 1000000000 * s.budget)) ∧
      (s.pkgUp = true →
        (s.pcap = true → exec .powerCapOnset s = .next s) ∧
        (s.overPower = none → exec .powerCapOnset s = .next s) ∧
        (∀ w, s.pcap = false → s.overPower = some w → ∃ t : State, exec .powerCapOnset s = .next t ∧ t.pcap = true ∧ t.thr = s.thr ∧
          t.pg .pwr PG_ERR_CODE = 0x0501 ∧ t.pg .pwr PG_ERR_INFO0 = 1 ∧ t.pg .pwr (PG_ERR_INFO0 + 4) = w32 (w % 0x1_0000) ∧
          t.pins.alert = true ∧ t.power.under = 0 ∧ capped t) ∧
        ((s.pcap = false ∨ s.power.under < 100) → exec .powerCapLift s = .next s) ∧
        (s.pcap = true → 100 ≤ s.power.under → ∃ t : State, exec .powerCapLift s = .next t ∧ t.pcap = false ∧ t.thr = s.thr ∧
          t.pins.alert = (s.thr || s.recovery) ∧ (s.thr = false → freed t)) ∧
        (∀ (n : BitVec 10) (d : W16),
          ((s.thr = true ∨ 303 < n.toNat ∨ d.toNat < 95) → exec (.thermThrottle n d) s = .next s) ∧
          (s.thr = false → n.toNat ≤ 303 → 95 ≤ d.toNat → ∃ t : State, exec (.thermThrottle n d) s = .next t ∧ t.thr = true ∧
            t.pcap = s.pcap ∧ bit (t.pg .pwr PWR_STAT) 14 = decide (256 ≤ n.toNat) ∧ t.pg .pwr PG_ERR_CODE = 0x0501 ∧
            t.pg .pwr PG_ERR_INFO0 = w32 (n.toNat <<< 1) ∧ t.pins.alert = true ∧ t.power.cool = 0 ∧ capped t)) ∧
        ((s.thr = false ∨ s.power.cool < 100) → exec .throttleLift s = .next s) ∧
        (s.thr = true → 100 ≤ s.power.cool → ∃ t : State, exec .throttleLift s = .next t ∧ t.thr = false ∧ t.pcap = s.pcap ∧
          t.pins.alert = (s.pcap || s.recovery) ∧ (s.pcap = false → freed t))) ∧
      (s.alive = true → ∀ (n : BitVec 10) (d : Byte),
        ((303 < n.toNat ∨ d.toNat < 110) → exec (.thermalTrip n d) s = .next s) ∧
        (n.toNat ≤ 303 → 110 ≤ d.toNat → ∃ t : State, exec (.thermalTrip n d) s = .next t ∧ t.pins.thermtrip = true ∧ t.alive = false ∧
          t.pg .pwr PWR_TRIP_LOG = w32 (n.toNat + d.toNat <<< 10 + 1 <<< 31) ∧ t.mem = s.mem ∧ t.cores = s.cores ∧
          ∀ p : PortId, t.pinLevel (.lnkLanes p) = .idle))) ∧
  (∀ (c : CoreId) (s : State), s.coreUp c = true →
      (∀ rail, (s.island c).stretched = false → rail + s.droopMv < s.setpoint c → exec (.droopStretch c rail) s =
        .next ((s.modIsland c fun i => { i with stretched := true }).bump .pwr 4 1)) ∧
      (∀ rail, ((s.island c).stretched = true ∨ s.setpoint c ≤ rail + s.droopMv) → exec (.droopStretch c rail) s = .next s) ∧
      (∀ (cyc : Vector Nat 4) (above rail : Nat),
        ((s.island c).stretched = true → 64 ≤ above → above ≤ cyc.toList.sum → 2 * s.setpoint c < 2 * rail + s.droopMv →
          exec (.droopRestore c cyc above rail) s =
            .next ((s.modIsland c fun i => { i with stretched := false }).bump .pwr 5
              (rneDiv (2000 * ((List.finRange 4).map fun v => 248400 / varMhz v * cyc[v]).sum) 248400))) ∧
        (((s.island c).stretched = false ∨ above < 64 ∨ cyc.toList.sum < above ∨ 2 * rail + s.droopMv ≤ 2 * s.setpoint c) →
          exec (.droopRestore c cyc above rail) s = .next s)))

/-- The variant chosen for a phase entry and a mask (R385, R387): candidates are the variants offered, with a duration, allowed, and under
a throttle or a cap not V0 or V1; the first whose projected power P_pkg - Σ P_c + pw(v) is within PWR_BUDGET is chosen; with none, the
slowest candidate; without candidates, the slowest that PWR_VALLOW and the cap allow, or V3. Energies are in µJ, durations in ns, powers
in µW. -/
def Obligations.ChoosesVariants : Prop :=
  ∀ (s : State) (m : W64) (e : PhaseEntry),
    let cs := s.candidates e
    let ok (v : Fin 4) : Prop := s.vallow v = true ∧ (s.capped = true → 2 ≤ v.val)
    (∀ v, v ∈ cs ↔ ((if e.offer = 0 then v = 0 else e.offer.getLsbD v.val = true) ∧ e.dur[v] ≠ 0) ∧ ok v) ∧
    (∀ v, s.fits m e v = true ↔ (1000000000 * e.energy[v] : Int) ≤
      ((1000000 * s.budget : Nat) - (s.power.pPkg : Int) + (((List.finRange 64).map fun c => if m.getLsbD c.val then s.power.pCore c else 0).sum : Nat)) *
        (e.dur[v] : Int)) ∧
    (∀ v ∈ cs, s.fits m e v = true → (∀ u ∈ cs, u < v → s.fits m e u = false) → s.choose m e = (v, 0, true)) ∧
    (∀ v ∈ cs, (∀ u ∈ cs, s.fits m e u = false) → (∀ u ∈ cs, u ≤ v) → s.choose m e = (v, 0, false)) ∧
    (cs = [] → ∀ v, ok v → (∀ u, ok u → u ≤ v) → (s.choose m e).1 = v) ∧
    (cs = [] → (∀ v, ¬ ok v) → (s.choose m e).1 = 3)

/-- A recorded decision stands (R168, R386): as long as it is kept, every core that arrives at the instance gets the same variant, member
and exit. -/
def Obligations.DecisionsStand : Prop :=
  ∀ (c : CoreId) (i : Instr) (s t : State), (i = .phaseDecision c ∨ i = .poolDecision c ∨ i = .variantChange c) → exec i s = .next t →
    ∀ (x n : Nat) (d d' : Decision), s.decision? x n = some d → t.decision? x n = some d' →
      d'.var = d.var ∧ d'.member = d.member ∧ d'.exit = d.exit ∧ d'.cause = d.cause

/-- PHASE_DECISION, POOL_DECISION, VARIANT_CHANGE, PHASE_TABLE_LOAD and its end (R168, R381, R384, R386, R388): a held PHASE takes the
recorded decision of its instance, made now if there is none; a core outside the mask goes on, at a pool behind its exit; while the
table is loaded, or the instance's window is full, it stays held. A PHASE that gives its island no variant leaves it to return to its
decided one, where a throttle or a cap has lifted meanwhile (R392, R393). A member goes on at its own offset. An island that has a
change to make makes it, and its PHASE ends. What a PHASE, a pool or a member does whose entry was not copied is log entry 33. -/
def Obligations.PhaseDecisions : Prop :=
  (∀ (c : CoreId) (j : Job) (x : Nat) (s : State), s.seqUp c = true → (s.ctx c 0).hold = .phase j x none →
    (bit (s.pg .pwr PWR_PT_CTL) 0 = true → exec (.phaseDecision c) s = .next s ∧ exec (.poolDecision c) s = .next s) ∧
    (bit (s.pg .pwr PWR_PT_CTL) 0 = false →
      (s.phase? x = none → exec (.phaseDecision c) s = .next (s.phaseBeyond c j x)) ∧
      (∀ e : PhaseEntry, s.phase? x = some e →
        let n := s.instOf c x
        (e.pool = 0xFFFF → maskHas e.mask c = false → exec (.phaseDecision c) s = .next ((s.restoreVar c).phaseEnd c j 0)) ∧
        (e.pool ≠ 0xFFFF → maskHas e.mask c = false → exec (.poolDecision c) s = .next ((s.restoreVar c).phaseEnd c j (j.off + 9))) ∧
        (maskHas e.mask c = true → s.windowFull x n e.mask = true → exec (.phaseDecision c) s = .next s ∧ exec (.poolDecision c) s = .next s) ∧
        (e.pool = 0xFFFF → maskHas e.mask c = true → s.windowFull x n e.mask = false →
          let d := (s.decide? x n e false).2
          let u := ((s.decide? x n e false).1.take c d).countArrival c x
          (s.decision? x n = none → d = s.decidePhase x n e) ∧
          (d.exit = false → d.member = none → exec (.phaseDecision c) s = .next (u.takeVariant c j x x d.var d.cause 0))) ∧
        (e.pool ≠ 0xFFFF → maskHas e.mask c = true → s.windowFull x n e.mask = false →
          let d := (s.decide? x n e true).2
          let u := ((s.decide? x n e true).1.take c d).countArrival c x
          (d.exit = true → exec (.poolDecision c) s = .next ((u.restoreVar c).phaseEnd c j (j.off + 9))) ∧
          (∀ k, d.exit = false → d.member = some k → exec (.poolDecision c) s =
            .next (u.takeVariant c j x (((u.power.pools[e.pool.toNat]?).map fun q => q.member[Fin.ofNat 8 k]).getD x) d.var d.cause
              (j.off + 1 + k))))))) ∧
  (∀ (c : CoreId) (s : State), (s.restoreVar c = { s with cores := (s.restoreVar c).cores }) ∧
    ((s.capped = true ∨ (s.island c).goal.isSome = true ∨ (s.island c).var = (s.island c).decided) → ((s.restoreVar c).island c) = s.island c) ∧
    (s.capped = false → (s.island c).goal = none → (s.island c).var ≠ (s.island c).decided →
      (s.restoreVar c).island c = { s.island c with goal := some (s.island c).decided, onset := false })) ∧
  (∀ (c : CoreId) (g : Fin 4) (s : State), s.coreUp c = true → (s.island c).goal = some g →
    let v := capVar s.capped g
    let r := s.runAt c v (s.capCause (s.island c).decided v (s.island c).cause)
    (r.island c).var = v ∧ (s.capped = true → 2 ≤ v.val) ∧
    (∀ j x next, (s.ctx c 0).hold = .phase j x (some next) → exec (.variantChange c) s = .next (r.phaseEnd c j next)) ∧
    ((∀ j x next, (s.ctx c 0).hold ≠ .phase j x (some next)) → exec (.variantChange c) s = .next r)) ∧
  (∀ s : State, s.pkgUp = true →
    (s.hostUp 0 = true → exec (.phaseTableLoad 0) s = .next (s.setField .pwr PWR_PT_CTL 0 1 1)) ∧
    (bit (s.pg .pwr PWR_PT_CTL) 0 = false → exec .phaseTableLoadDone s = .next s) ∧
    (bit (s.pg .pwr PWR_PT_CTL) 0 = true → ∃ t : State, exec .phaseTableLoadDone s = .next t ∧ bit (t.pg .pwr PWR_PT_CTL) 0 = false ∧
      t.power = { s.power with phases := t.power.phases, pools := t.power.pools, decisions := [], counts := [], poolRun := [] } ∧
      t.power.phases.length = min 8192 (bits (s.pg .pwr PWR_PT_CNT) 0 14) ∧ t.power.pools.length = min 256 (bits (s.pg .pwr PWR_POOL_CNT) 0 9) ∧
      (∀ i, i < t.power.phases.length →
        t.phase? i = some (s.phaseAt (p42 (s.pg .pwr PWR_PT_BASE_LO) (s.pg .pwr PWR_PT_BASE_HI) + 48 * i))) ∧
      bit (t.pg .pwr PG_EVT_RAW) EVT_DONE = true ∧ t.mem = s.mem))

/-! ## Management -/

/-- A management command in the mailbox (R450 to R452, R455, R442): the row whose op runs, and has not been carried out, carries it out
with MBX_ARG0 and the bytes of MBX_DATA that MBX_CMD counts; in recovery mode ops other than INFO, STAGE, RECOVER and LOG end with
NOT_IN_MODE. Over I3C the six ops of R452 are answered at once, in recovery mode too, with the vendor ID; an op that is neither one of them
nor TELEMETRY with BAD_CMD, by whichever row it is given (log entry 20). MAILBOX_COMMAND_COMPLETE (R450): the result of the command carried
out stands in MBX_STAT, busy clear, and its bytes in MBX_DATA from the start; an undefined op ends with BAD_CMD; the done event is latched;
a defined op that has not been carried out goes on. Writing MBX_GO starts a command. -/
def Obligations.ManagementServed : Prop :=
  (∀ (e : StartEnv) (okf : Bool), ∀ r ∈ mgtRows e okf, ∀ s : State, s.serves = true →
      (s.mbxBusy = true → s.mgmt.served = none → s.mbxOp = r.op →
        ((s.recovery = false ∨ r.op ∈ recoveryOps) → exec (r.row .mailbox) s =
          .next ((r.act s (s.pg .mbx MBX_ARG0) s.mbxData).1.modMgmt fun m =>
            { m with served := some (r.act s (s.pg .mbx MBX_ARG0) s.mbxData).2 })) ∧
        (s.recovery = true → r.op ∉ recoveryOps → exec (r.row .mailbox) s =
          .next (s.modMgmt fun m => { m with served := some (fail ST_NOT_IN_MODE) }))) ∧
      ((s.mbxBusy = false ∨ s.mgmt.served ≠ none ∨ s.mbxOp ≠ r.op) → exec (r.row .mailbox) s = .next s) ∧
      (∀ (o : Byte) (a0 a1 : W32) (d : List Byte),
        (o.toNat ∉ i3cOps → o.toNat ≠ OP_TELEMETRY → exec (r.row (.i3c o a0 a1 d)) s =
          .next (s.modMgmt fun m => { m with i3c := some { fail ST_BAD_CMD with vendor := some m.fuses.vendor } })) ∧
        (o.toNat ∈ i3cOps → o.toNat = r.op → exec (r.row (.i3c o a0 a1 d)) s =
          .next ((r.act s a0 d).1.modMgmt fun m => { m with i3c := some { (r.act s a0 d).2 with vendor := some m.fuses.vendor } })) ∧
        ((o.toNat ∈ i3cOps ∨ o.toNat = OP_TELEMETRY) → o.toNat ≠ r.op → exec (r.row (.i3c o a0 a1 d)) s = .next s))) ∧
  (∀ s : State, s.serves = true →
      (s.mbxBusy = true →
        (∀ v : Served, s.mgmt.served = some v → ∃ t : State, exec .mailboxCommandComplete s = .next t ∧
          t.pg .mbx MBX_STAT = w32 (v.status <<< 8 + v.data.length % 4096 <<< 16) ∧ t.mgmt.served = none ∧
          (∀ i, i < v.data.length → i < 2048 → bits (t.pg .mbx (MBX_DATA (i / 4))) (8 * (i % 4)) 8 = (v.data.getD i 0).toNat) ∧
          (∀ r, v.ret0 = some r → t.pg .mbx MBX_RET0 = r) ∧ bit (t.pg .mbx PG_EVT_RAW) EVT_DONE = true ∧ t.mem = s.mem) ∧
        (s.mgmt.served = none → definedOp s.mbxOp = false → ∃ t : State, exec .mailboxCommandComplete s = .next t ∧
          t.pg .mbx MBX_STAT = 0x100 ∧ bit (t.pg .mbx PG_EVT_RAW) EVT_DONE = true) ∧
        (s.mgmt.served = none → definedOp s.mbxOp = true → exec .mailboxCommandComplete s = .next s)) ∧
      (s.mbxBusy = false → exec .mailboxCommandComplete s = .next s) ∧
      (s.hostUp 0 = true → s.mbxBusy = false → exec (.registerWrite 0 (BitVec.ofNat 26 (Page.mbx.base + MBX_GO)) 4 1) s =
        .next (s.setField .mbx MBX_STAT 0 1 1)))

/-- What management commands do (R443, R444, R448, R449, R451, R453, R456, R457): STAGE stores its bytes in the staging area and no other;
SVN_ADVANCE burns a thermometer field up to the running image's svn, at most 64, and no further; CEL_KEY gives a function a new key, a
fresh draw, or none, and its bit of CEL_XTS_EN with it; UNMEASURE empties a slot; DBG_CHALLENGE opens a nonce of 32 bytes, which any token
ends; DBG_LOCK goes back to level 0; LOG reports the newest index; COMMIT and RECOVER with a rejected image record IMAGE_REJECT and change
nothing else of the management state but the log's queue, and RECOVER outside recovery mode changes nothing. -/
def Obligations.ManagementEffects : Prop :=
  ∀ (s : State) (a0 : W32) (d : List Byte),
    (a0.toNat + d.length ≤ STAGING_SIZE → (s.doStage a0 d).2 = ok [] ∧
      ∀ a, (s.doStage a0 d).1.mgmt.psrByte a =
        if STAGING_AT + a0.toNat ≤ a ∧ a < STAGING_AT + a0.toNat + d.length then d.getD (a - STAGING_AT - a0.toNat) 0 else s.mgmt.psrByte a) ∧
    (STAGING_SIZE < a0.toNat + d.length → s.doStage a0 d = (s, fail ST_BAD_ARG)) ∧
    (∀ k, k ≤ 64 → s.mgmt.fuses.svnFw = BitVec.ofNat 64 (2 ^ k - 1) →
      (s.doSvn 1 d).1.mgmt.fuses.svnFw = BitVec.ofNat 64 (2 ^ max k (min s.mgmt.svnFw 64) - 1) ∧
        (s.doSvn 1 d).1.mgmt.fuses.minSvn 1 = max k (min s.mgmt.svnFw 64)) ∧
    (∀ k, k ≤ 64 → s.mgmt.fuses.svnMc = BitVec.ofNat 64 (2 ^ k - 1) →
      (s.doSvn 2 d).1.mgmt.fuses.svnMc = BitVec.ofNat 64 (2 ^ max k (min s.mgmt.svnMc 64) - 1) ∧
        (s.doSvn 2 d).1.mgmt.fuses.minSvn 2 = max k (min s.mgmt.svnMc 64)) ∧
    (bit a0 8 = false → (s.doCelKey a0 d).1.mgmt.keys[slotArg a0] = some (s.free + 1) ∧ s.free < (s.doCelKey a0 d).1.free ∧
      ∀ f : FnId, f ≠ slotArg a0 → (s.doCelKey a0 d).1.mgmt.keys[f] = s.mgmt.keys[f]) ∧
    (bit a0 8 = true → (s.doCelKey a0 d).1.mgmt.keys[slotArg a0] = none) ∧
    (∀ p : CelId, bit ((s.doCelKey a0 d).1.pg (.cel p) CEL_XTS_EN) (slotArg a0).val = !bit a0 8) ∧
    (s.doUnmeasure a0 d).1.mgmt.slots[slotArg a0] = none ∧
    (∃ n, (s.doChallenge a0 d).2 = ok n ∧ n.length = 32 ∧ (s.doChallenge a0 d).1.mgmt.nonce = some n) ∧
    (d.length = 256 → (s.doUnlock a0 d).1.mgmt.nonce = none ∧
      (∀ k, s.tokenFail d = some k → (s.doUnlock a0 d).2 = fail ST_REJECTED ∧ (s.doUnlock a0 d).1.mgmt.level = s.mgmt.level ∧
        (s.doUnlock a0 d).1.pg .sec PG_ERR_CODE = 0x0602) ∧
      (s.tokenFail d = none → (s.doUnlock a0 d).1.mgmt.level = leNat ((d.drop 4).take 4))) ∧
    (s.doLock a0 d).1.mgmt.level = 0 ∧
    (s.doLog a0 d).2.ret0 = some (w32 s.mgmt.newest) ∧ (s.doLog a0 d).1 = s ∧
    (∀ (okf : Bool) (ty k : Nat) (v : W32), s.verifyStaged ((if bit a0 0 then [1] else []) ++ (if bit a0 1 then [2] else [])) = some (ty, k, v) →
      let r := s.doCommit okf a0 d
      r.2 = fail ST_REJECTED ∧ r.1.pg .sec PG_ERR_CODE = 0x0601 ∧ r.1.pg .sec PG_ERR_INFO0 = w32 (ty + k <<< 4) ∧
        r.1.mgmt = { s.mgmt with logq := r.1.mgmt.logq, lost := r.1.mgmt.lost }) ∧
    (∀ (e : StartEnv) (ty k : Nat) (v : W32), s.recovery = true → s.verifyStaged (if bit a0 0 then [1, 2] else [1]) = some (ty, k, v) →
      let r := s.doRecover e a0 d
      r.2 = fail ST_REJECTED ∧ r.1.pg .sec PG_ERR_CODE = 0x0601 ∧ r.1.pg .sec PG_ERR_INFO0 = w32 (ty + k <<< 4) ∧
        r.1.mgmt = { s.mgmt with logq := r.1.mgmt.logq, lost := r.1.mgmt.lost }) ∧
    (∀ e : StartEnv, s.recovery = false → s.doRecover e a0 d = (s, fail ST_NOT_IN_MODE))

/-- The controller's own commands (R452 to R455, R460): TELEMETRY answers with PWR_STAT and PWR_ISL of every core; the endpoint ID is set
and read (0x00 and 0xFF apart, and the free MCTP versions: log entry 35); the message types are one, 0x7E; LOG_RECORD writes the oldest
code waiting into the ring, as a record of 64 bytes that is then the newest, and raises an in-band interrupt; the watchdog flags itself,
cuts a COMMIT short, and enters recovery mode when the firmware is rejected, but not by a COMMIT of it, which the next package reset
finds. The TAP (R458): BYPASS selects one bit, captured 0; IDCODE the 32 bits of the device; SAMPLE/PRELOAD takes the pins and loads the
cells; EXTEST, CLAMP and HIGHZ act while PERST_N is asserted, on the pins of the chain (EXTEST and CLAMP not on the input AVS_SDATA),
and are BYPASS otherwise; a private instruction is BYPASS below level 2, and at level 2 the model refuses it, since the spec gives it no
effect; TRST_N brings the reset state back (IDCODE selected, and the chain's order: the model's choices, log entry 25). -/
def Obligations.ControllerCommands : Prop :=
  (∀ s : State, s.serves = true →
      exec .telemetry s = .next (s.modMgmt fun m => { m with i3c := some { ok (toLe 4 s.pwrStat.toNat ++
        (List.finRange 64).flatMap fun c => toLe 4 (s.pwrIsl c).toNat) with vendor := some m.fuses.vendor } }) ∧
      (∀ e : Byte, e ≠ 0 → e ≠ 0xFF → exec (.setEndpointId e) s = .next (s.modMgmt fun m => { m with eid := e, i3c := some (ok [e]) })) ∧
      exec .getEndpointId s = .next (s.modMgmt fun m => { m with i3c := some (ok [s.mgmt.eid]) }) ∧
      (∀ y : Byte, exec (.getMctpVersionSupport y) s = .next (s.modMgmt fun m => { m with i3c := some (ok (Config.mctpVersions y)) })) ∧
      exec .getMessageTypeSupport s = .next (s.modMgmt fun m => { m with i3c := some (ok [1, 0x7E]) }) ∧
      (∀ (l : LogSrc) (rest : List LogSrc) (time : W64), s.mgmt.logq = l :: rest → s.mgmt.logNext < LOG_RING →
        let b := recordBytes l time s.mgmt.boot s.mgmt.lost
        ∃ t : State, exec (.logRecord time) s = .next t ∧ t.mgmt.logq = rest ∧ t.mgmt.ibi = s.mgmt.ibi + 1 ∧ t.mgmt.lost = false ∧
          b.length = 64 ∧ crcOk b = true ∧ t.mgmt.newest = s.mgmt.logNext ∧ t.mgmt.recordAt t.mgmt.newest = some b ∧
          crcOk (run t.mgmt.psrByte LOG_HEADER 64) = true ∧
          (∀ a, (a < LOG_AT + 64 * s.mgmt.logNext ∨ LOG_AT + 64 * s.mgmt.logNext + 64 ≤ a) → (a < LOG_HEADER ∨ LOG_HEADER + 64 ≤ a) →
            t.mgmt.psrByte a = s.mgmt.psrByte a) ∧ t = { s with mgmt := t.mgmt }) ∧
      (∀ fw : Bool, ∃ t : State, exec (.watchdogRestart fw) s = .next t ∧ bit (t.pg .sec SEC_STAT) 5 = true ∧
        t.mgmt.committing = #v[false, false] ∧
        (∀ i : Fin 2, t.mgmt.flashBad[i] = (s.mgmt.flashBad[i] || s.mgmt.committing[i])) ∧ t.mem = s.mem ∧ t.cores = s.cores ∧
        t.mgmt.served = (if s.mgmt.committing[0] || s.mgmt.committing[1] then some (fail ST_FLASH_ERR) else s.mgmt.served) ∧
        (∀ k v, s.mgmt.committing[0] = false → s.verifyFlash 1 fw = some (k, v) → t.pg .pkg PKG_STAT = 3 ∧ t.pg .sec PG_ERR_CODE = 0x0601 ∧
          bit (t.pg .sec SEC_STAT) 1 = false ∧ bit (t.pg .sec SEC_STAT) 2 = false ∧ bit (t.pg .sec SEC_STAT) 0 = true) ∧
        (s.mgmt.committing[0] = true ∨ s.verifyFlash 1 fw = none → t.pg .pkg PKG_STAT = s.pg .pkg PKG_STAT))) ∧
  (∀ s : State, s.pins.vddMgt = true →
      let tap (t : Tap) : State := s.modMgmt fun m => { m with tap := t }
      exec .bypass s = .next (tap { s.mgmt.tap with ir := .bypass, dr := [false] }) ∧
      exec .idcode s = .next (tap { s.mgmt.tap with ir := .idcode, dr := (List.range 32).map fun i => bit s.idcode i }) ∧
      (∀ ps cs : List Bool, exec (.samplePreload ps cs) s = .next (tap { ir := .sample, dr := s.sampled ++ ps, cells := cs })) ∧
      (s.pins.perst = true → exec .extest s = .next (tap { s.mgmt.tap with ir := .extest, dr := s.mgmt.tap.cells }) ∧
        exec .clamp s = .next (tap { s.mgmt.tap with ir := .clamp, dr := [false] }) ∧
        exec .highz s = .next (tap { s.mgmt.tap with ir := .highz, dr := [false] })) ∧
      (∀ (i : Nat) (p : Pin), chainPins[i]? = some p → ∀ t : Tap,
        ((t.ir = .extest ∨ t.ir = .clamp) → p ≠ .avsSdata → (tap t).pinAt p = if t.cells.getD i false then .high else .low) ∧
        (t.ir = .highz → (tap t).pinAt p = .highZ) ∧
        ((t.ir = .bypass ∨ t.ir = .idcode ∨ t.ir = .sample) → (tap t).pinAt p = s.pinLevel p)) ∧
      (s.pins.perst = false → ∀ i ∈ [Instr.extest, .clamp, .highz], exec i s = exec .bypass s) ∧
      (∀ op : Byte, s.mgmt.level ≠ 2 → exec (.privateTapInstruction op) s = exec .bypass s) ∧
      (∀ op : Byte, s.mgmt.level = 2 → exec (.privateTapInstruction op) s = .refused (.privateTap op)) ∧
      exec .trstNAssertion s = .next (tap Tap.reset))
end

