-- ==== Sys2Proof/Laws/Maps.lean ====
section
/-! SUPPORT. Laws of the sparse maps and number sets of Store.lean: read after write, and the canonical form. -/

namespace Sys2Proof.Machine
open Sys2Proof

/-! ## Keys above a bound -/

/-- Every key is above a number. -/
def Above (k : Nat) (m : List (Nat × β)) : Prop := ∀ p ∈ m, k < p.1

theorem smSorted_cons (a : Nat) (v : β) (m : List (Nat × β)) : smSorted ((a, v) :: m) = true ↔ Above a m ∧ smSorted m = true := by
  induction m generalizing a v with
  | nil => simp [smSorted, Above]
  | cons b r ih =>
    obtain ⟨b, w⟩ := b
    rw [smSorted, Bool.and_eq_true, decide_eq_true_iff, ih]
    constructor
    · rintro ⟨h, hb, hr⟩
      refine ⟨?_, hb, hr⟩
      intro p hp
      rcases List.mem_cons.1 hp with rfl | hp
      · exact h
      · exact lt_trans h (hb p hp)
    · rintro ⟨h, hb, hr⟩
      exact ⟨h (b, w) (by simp), hb, hr⟩

theorem smSorted_filter (q : Nat × β → Bool) (m : List (Nat × β)) (h : smSorted m = true) : smSorted (m.filter q) = true := by
  induction m with
  | nil => rfl
  | cons a r ih =>
    obtain ⟨a, v⟩ := a
    obtain ⟨ha, hr⟩ := (smSorted_cons a v r).1 h
    rw [List.filter_cons]
    split
    · exact (smSorted_cons a v _).2 ⟨fun p hp => ha p (List.mem_of_mem_filter hp), ih hr⟩
    · exact ih hr

theorem smSorted_erase (m : List (Nat × β)) (k : Nat) (h : smSorted m = true) : smSorted (smErase m k) = true :=
  smSorted_filter _ m h

theorem smIns_mem (k : Nat) (v : β) (m : List (Nat × β)) (p : Nat × β) : p ∈ smIns k v m ↔ p = (k, v) ∨ p ∈ m := by
  induction m with
  | nil => simp [smIns]
  | cons a r ih =>
    obtain ⟨a, w⟩ := a
    rw [smIns]
    split
    · simp
    · simp only [List.mem_cons, ih]; tauto

theorem smSorted_ins (k : Nat) (v : β) (m : List (Nat × β)) (h : smSorted m = true) (hk : ∀ p ∈ m, p.1 ≠ k) :
    smSorted (smIns k v m) = true := by
  induction m with
  | nil => rfl
  | cons a r ih =>
    obtain ⟨a, w⟩ := a
    obtain ⟨ha, hr⟩ := (smSorted_cons a w r).1 h
    have hak : a ≠ k := hk (a, w) (by simp)
    rw [smIns]
    split
    · rename_i hlt
      refine (smSorted_cons k v _).2 ⟨?_, h⟩
      intro p hp
      rcases List.mem_cons.1 hp with rfl | hp
      · exact hlt
      · exact lt_trans hlt (ha p hp)
    · rename_i hle
      refine (smSorted_cons a w _).2 ⟨?_, ih hr fun p hp => hk p (by simp [hp])⟩
      intro p hp
      rcases (smIns_mem k v r p).1 hp with rfl | hp
      · simp only; omega
      · exact ha p hp

theorem smErase_mem (m : List (Nat × β)) (k : Nat) (p : Nat × β) : p ∈ smErase m k ↔ p ∈ m ∧ p.1 ≠ k := by
  simp [smErase]

/-! ## The canonical form -/

theorem smWf_iff [DecidableEq β] (d : Nat → β) (m : List (Nat × β)) :
    smWf d m = true ↔ smSorted m = true ∧ ∀ p ∈ m, p.2 ≠ d p.1 := by
  simp [smWf, List.all_eq_true]

theorem smWf_nil [DecidableEq β] (d : Nat → β) : smWf d [] = true := rfl

theorem smWf_filter [DecidableEq β] (d : Nat → β) (q : Nat × β → Bool) (m : List (Nat × β)) (h : smWf d m = true) :
    smWf d (m.filter q) = true := by
  obtain ⟨h1, h2⟩ := (smWf_iff d m).1 h
  exact (smWf_iff d _).2 ⟨smSorted_filter q m h1, fun p hp => h2 p (List.mem_of_mem_filter hp)⟩

/-- Setting a key keeps the canonical form. -/
theorem smWf_set [DecidableEq β] (d : Nat → β) (m : List (Nat × β)) (k : Nat) (v : β) (h : smWf d m = true) :
    smWf d (smSet d m k v) = true := by
  have he : smWf d (smErase m k) = true := smWf_filter d _ m h
  rw [smSet]
  split
  · exact he
  · rename_i hv
    obtain ⟨h1, h2⟩ := (smWf_iff d _).1 he
    refine (smWf_iff d _).2 ⟨smSorted_ins k v _ h1 fun p hp => ((smErase_mem m k p).1 hp).2, ?_⟩
    intro p hp
    rcases (smIns_mem k v _ p).1 hp with rfl | hp
    · exact hv
    · exact h2 p hp

theorem smSorted_put (m : List (Nat × β)) (k : Nat) (v : β) (h : smSorted m = true) : smSorted (smIns k v (smErase m k)) = true :=
  smSorted_ins k v _ (smSorted_erase m k h) fun p hp => ((smErase_mem m k p).1 hp).2

/-! ## Read after write -/

theorem smGet_erase_same (d : Nat → β) (m : List (Nat × β)) (k : Nat) : smGet d (smErase m k) k = d k := by
  induction m with
  | nil => rfl
  | cons a r ih =>
    obtain ⟨a, v⟩ := a
    by_cases h : a = k <;> simp_all [smErase, smGet]

theorem smGet_erase_other (d : Nat → β) (m : List (Nat × β)) (k j : Nat) (h : j ≠ k) : smGet d (smErase m k) j = smGet d m j := by
  induction m with
  | nil => rfl
  | cons a r ih =>
    obtain ⟨a, v⟩ := a
    by_cases h1 : a = k
    · have : a ≠ j := fun e => h (by omega)
      simp_all [smErase, smGet]
    · simp_all [smErase, smGet]

theorem smGet_ins_same (d : Nat → β) (m : List (Nat × β)) (k : Nat) (v : β) (hk : ∀ p ∈ m, p.1 ≠ k) : smGet d (smIns k v m) k = v := by
  induction m with
  | nil => simp [smIns, smGet]
  | cons a r ih =>
    obtain ⟨a, w⟩ := a
    have : a ≠ k := hk (a, w) (by simp)
    rw [smIns]
    split
    · simp [smGet]
    · simp only [smGet, this, if_false]
      exact ih fun p hp => hk p (by simp [hp])

theorem smGet_ins_other (d : Nat → β) (m : List (Nat × β)) (k j : Nat) (v : β) (h : j ≠ k) : smGet d (smIns k v m) j = smGet d m j := by
  induction m with
  | nil => simp [smIns, smGet, Ne.symm h]
  | cons a r ih =>
    obtain ⟨a, w⟩ := a
    rw [smIns]
    split
    · simp [smGet, Ne.symm h]
    · simp [smGet, ih]

/-- A key that was set reads as the value. -/
@[simp] theorem smGet_set_same [DecidableEq β] (d : Nat → β) (m : List (Nat × β)) (k : Nat) (v : β) : smGet d (smSet d m k v) k = v := by
  rw [smSet]
  split
  · rename_i h; rw [smGet_erase_same, h]
  · exact smGet_ins_same d _ k v fun p hp => ((smErase_mem m k p).1 hp).2

/-- Every other key reads as before. -/
theorem smGet_set_other [DecidableEq β] (d : Nat → β) (m : List (Nat × β)) (k j : Nat) (v : β) (h : j ≠ k) :
    smGet d (smSet d m k v) j = smGet d m j := by
  rw [smSet]
  split
  · exact smGet_erase_other d m k j h
  · rw [smGet_ins_other d _ k j v h, smGet_erase_other d m k j h]

/-- The same for a map that keeps every key ever written. -/
@[simp] theorem smGet_put_same (d : Nat → β) (m : List (Nat × β)) (k : Nat) (v : β) : smGet d (smIns k v (smErase m k)) k = v :=
  smGet_ins_same d _ k v fun p hp => ((smErase_mem m k p).1 hp).2

theorem smGet_put_other (d : Nat → β) (m : List (Nat × β)) (k j : Nat) (v : β) (h : j ≠ k) :
    smGet d (smIns k v (smErase m k)) j = smGet d m j := by
  rw [smGet_ins_other d _ k j v h, smGet_erase_other d m k j h]

/-- A filter that keeps a key leaves its value. -/
theorem smGet_filter (d : Nat → β) (q : Nat → Bool) (m : List (Nat × β)) (j : Nat) :
    smGet d (m.filter fun p => q p.1) j = if q j then smGet d m j else d j := by
  induction m with
  | nil => simp [smGet]
  | cons a r ih =>
    obtain ⟨a, v⟩ := a
    by_cases h1 : q a
    · by_cases h2 : a = j
      · subst h2; simp [h1, smGet]
      · simp [h1, smGet, h2, ih]
    · by_cases h2 : a = j
      · subst h2; simp_all
      · simp [h1, smGet, h2, ih]

/-! ## Sets of numbers -/

theorem nsSorted_cons (a : Nat) (m : List Nat) : nsSorted (a :: m) = true ↔ (∀ b ∈ m, a < b) ∧ nsSorted m = true := by
  induction m generalizing a with
  | nil => simp [nsSorted]
  | cons b r ih =>
    rw [nsSorted, Bool.and_eq_true, decide_eq_true_iff, ih]
    constructor
    · rintro ⟨h, hb, hr⟩
      refine ⟨?_, hb, hr⟩
      intro c hc
      rcases List.mem_cons.1 hc with rfl | hc
      · exact h
      · exact lt_trans h (hb c hc)
    · rintro ⟨h, hb, hr⟩
      exact ⟨h b (by simp), hb, hr⟩

theorem nsSorted_filter (q : Nat → Bool) (m : List Nat) (h : nsSorted m = true) : nsSorted (m.filter q) = true := by
  induction m with
  | nil => rfl
  | cons a r ih =>
    obtain ⟨ha, hr⟩ := (nsSorted_cons a r).1 h
    rw [List.filter_cons]
    split
    · exact (nsSorted_cons a _).2 ⟨fun p hp => ha p (List.mem_of_mem_filter hp), ih hr⟩
    · exact ih hr

theorem nsIns_mem (k : Nat) (m : List Nat) (j : Nat) : j ∈ nsIns k m ↔ j = k ∨ j ∈ m := by
  induction m with
  | nil => simp [nsIns]
  | cons a r ih =>
    rw [nsIns]
    split
    · simp
    · split
      · subst_vars; simp
      · simp only [List.mem_cons, ih]; tauto

theorem nsSorted_ins (k : Nat) (m : List Nat) (h : nsSorted m = true) : nsSorted (nsIns k m) = true := by
  induction m with
  | nil => rfl
  | cons a r ih =>
    obtain ⟨ha, hr⟩ := (nsSorted_cons a r).1 h
    rw [nsIns]
    split
    · rename_i hlt
      refine (nsSorted_cons k _).2 ⟨?_, h⟩
      intro b hb
      rcases List.mem_cons.1 hb with rfl | hb
      · exact hlt
      · exact lt_trans hlt (ha b hb)
    · split
      · exact h
      · refine (nsSorted_cons a _).2 ⟨?_, ih hr⟩
        intro b hb
        rcases (nsIns_mem k r b).1 hb with rfl | hb
        · omega
        · exact ha b hb

theorem nsErase_mem (k : Nat) (m : List Nat) (j : Nat) : j ∈ nsErase k m ↔ j ∈ m ∧ j ≠ k := by simp [nsErase]

/-- Setting a membership keeps the canonical form. -/
theorem nsSorted_put (k : Nat) (on : Bool) (m : List Nat) (h : nsSorted m = true) : nsSorted (nsPut k on m) = true := by
  rw [nsPut]
  split
  · exact nsSorted_ins k _ (nsSorted_filter _ m h)
  · exact nsSorted_filter _ m h

/-- Membership after setting one. -/
theorem nsPut_mem (k : Nat) (on : Bool) (m : List Nat) (j : Nat) : j ∈ nsPut k on m ↔ if j = k then on = true else j ∈ m := by
  rw [nsPut]
  split
  · rw [nsIns_mem, nsErase_mem]; by_cases h : j = k <;> simp_all
  · rw [nsErase_mem]; by_cases h : j = k <;> simp_all

@[simp] theorem nsPut_contains (k : Nat) (on : Bool) (m : List Nat) (j : Nat) :
    (nsPut k on m).contains j = if j = k then on else m.contains j := by
  have := nsPut_mem k on m j
  by_cases h : j = k
  · simp_all
  · simp_all

end Sys2Proof.Machine
end

