-- ==== Sys2Proof/Laws/Memory.lean ====
section
/-! SUPPORT. Laws of the memory: every operation keeps the canonical form, and a byte reads as it was last written. -/

namespace Sys2Proof.Machine
open Sys2Proof

/-! ## The canonical form -/

theorem Mem.wf_iff (m : Mem) : m.wf = true ↔
    smWf zeroByte m.data = true ∧ smSorted m.cellar = true ∧ nsSorted m.fe = true ∧ nsSorted m.poison = true ∧ smWf noKey m.key = true ∧
      smWf noFlip m.flips = true := by
  simp [Mem.wf, and_assoc]

theorem Mem.wf_reset : Mem.reset.wf = true := rfl

theorem Mem.wf_setByte (m : Mem) (a : Nat) (b : Byte) (h : m.wf = true) : (m.setByte a b).wf = true := by
  obtain ⟨h1, h2, h3, h4, h5, h6⟩ := m.wf_iff.1 h
  rw [Mem.setByte]
  split
  · exact (Mem.wf_iff _).2 ⟨h1, smSorted_put _ _ _ h2, h3, h4, h5, h6⟩
  · exact (Mem.wf_iff _).2 ⟨smWf_set _ _ _ _ h1, h2, h3, h4, h5, h6⟩

theorem Mem.wf_setBytes (l : List Byte) (m : Mem) (a : Nat) (h : m.wf = true) : (m.setBytes a l).wf = true := by
  induction l generalizing m a with
  | nil => exact h
  | cons b r ih => exact ih _ _ (m.wf_setByte a b h)

theorem Mem.wf_setFe (m : Mem) (w : Nat) (on : Bool) (h : m.wf = true) : (m.setFe w on).wf = true := by
  obtain ⟨h1, h2, h3, h4, h5, h6⟩ := m.wf_iff.1 h
  exact (Mem.wf_iff _).2 ⟨h1, h2, nsSorted_put _ _ _ h3, h4, h5, h6⟩

theorem Mem.wf_setPoison (m : Mem) (w : Nat) (on : Bool) (h : m.wf = true) : (m.setPoison w on).wf = true := by
  obtain ⟨h1, h2, h3, h4, h5, h6⟩ := m.wf_iff.1 h
  exact (Mem.wf_iff _).2 ⟨h1, h2, h3, nsSorted_put _ _ _ h4, h5, h6⟩

theorem Mem.wf_setKey (m : Mem) (line k : Nat) (h : m.wf = true) : ({ m with key := smSet noKey m.key line k } : Mem).wf = true := by
  obtain ⟨h1, h2, h3, h4, h5, h6⟩ := m.wf_iff.1 h
  exact (Mem.wf_iff _).2 ⟨h1, h2, h3, h4, smWf_set _ _ _ _ h5, h6⟩

theorem Mem.wf_setFlips (m : Mem) (w : Nat) (f : BitVec 74) (h : m.wf = true) :
    ({ m with flips := smSet noFlip m.flips w f } : Mem).wf = true := by
  obtain ⟨h1, h2, h3, h4, h5, h6⟩ := m.wf_iff.1 h
  exact (Mem.wf_iff _).2 ⟨h1, h2, h3, h4, h5, smWf_set _ _ _ _ h6⟩

theorem Mem.wf_fixWord (m : Mem) (w : Nat) (h : m.wf = true) : (m.fixWord w).wf = true := by
  obtain ⟨h1, h2, h3, h4, h5, h6⟩ := m.wf_iff.1 h
  exact (Mem.wf_iff _).2 ⟨h1, h2, h3, h4, h5, smWf_filter _ _ _ h6⟩

/-- A filter of each list keeps the form. -/
theorem Mem.wf_filter (m : Mem) (p : Host.Cell → Bool) (q r : Nat → Bool) (t : Nat × BitVec 74 → Bool) (h : m.wf = true) :
    ({ m with data := m.data.filter p, fe := m.fe.filter q, poison := m.poison.filter r, flips := m.flips.filter t } : Mem).wf = true := by
  obtain ⟨h1, h2, h3, h4, h5, h6⟩ := m.wf_iff.1 h
  exact (Mem.wf_iff _).2 ⟨smWf_filter _ _ _ h1, h2, nsSorted_filter _ _ h3, nsSorted_filter _ _ h4, h5, smWf_filter _ _ _ h6⟩

theorem Mem.wf_setWord (m : Mem) (w : Nat) (x : StoWord) (h : m.wf = true) : (m.setWord w x).wf = true :=
  Mem.wf_fixWord _ _ (Mem.wf_setPoison _ _ _ (Mem.wf_setFe _ _ _ (Mem.wf_setBytes _ _ _ h)))

theorem Mem.wf_writeChunk (m : Mem) (a : Nat) (l : List (Byte × Bool)) (h : m.wf = true) : (m.writeChunk a l).wf = true := by
  have hb := Mem.wf_fixWord _ (a / 8) (Mem.wf_setBytes (l.map (·.1)) m a h)
  rw [Mem.writeChunk]
  split
  · exact Mem.wf_setPoison _ _ _ (Mem.wf_setFe _ _ _ hb)
  · exact Mem.wf_setPoison _ _ _ hb

theorem foldl_keeps (P : α → Prop) (f : α → β → α) (hf : ∀ a b, P a → P (f a b)) (l : List β) (a : α) (h : P a) : P (l.foldl f a) := by
  induction l generalizing a with
  | nil => exact h
  | cons b r ih => exact ih _ (hf a b h)

theorem forRange_keeps (P : α → Prop) (n : Nat) (f : Nat → α → α) (hf : ∀ i a, P a → P (f i a)) (a : α) (h : P a) :
    P (forRange n f a) := foldl_keeps P _ (fun a i => hf i a) _ a h

theorem Mem.wf_poisonLine (m : Mem) (line : Nat) (on : Bool) (h : m.wf = true) : (m.poisonLine line on).wf = true :=
  forRange_keeps (fun m : Mem => m.wf = true) _ _ (fun _ m h => m.wf_setPoison _ _ h) m h

theorem Mem.wf_writeLine (m : Mem) (k a : Nat) (l : List (Byte × Bool)) (h : m.wf = true) : (m.writeLine k a l).wf = true := by
  rw [Mem.writeLine]
  apply Mem.wf_poisonLine
  apply Mem.wf_setKey
  apply Mem.wf_setBytes
  split
  · exact Mem.wf_setBytes _ _ _ h
  · exact h

/-- Every write keeps the form. -/
theorem Mem.wf_write (m : Mem) (k a : Nat) (l : List (Byte × Bool)) (h : m.wf = true) : (m.write k a l).wf = true := by
  rw [Mem.write]
  split
  · exact foldl_keeps (fun m : Mem => m.wf = true) _ (fun m c h => m.wf_writeLine _ _ _ h) _ _ h
  · exact foldl_keeps (fun m : Mem => m.wf = true) _ (fun m c h => m.wf_writeChunk _ _ h) _ _ h

/-! ## Bytes after writes -/

/-- A byte reads as it was last written; a write leaves every other byte. -/
theorem Mem.byte_setByte (m : Mem) (a b : Nat) (v : Byte) : (m.setByte a v).byte b = if b = a then v else m.byte b := by
  by_cases hab : b = a
  · subst hab
    by_cases hc : inCellar b <;> simp [Mem.setByte, Mem.byte, hc]
  · by_cases hc : inCellar a <;> by_cases hd : inCellar b <;>
      simp [Mem.setByte, Mem.byte, hc, hd, hab, smGet_put_other, smGet_set_other]

@[simp] theorem Mem.byte_setFe (m : Mem) (w : Nat) (on : Bool) (b : Nat) : (m.setFe w on).byte b = m.byte b := rfl
@[simp] theorem Mem.byte_setPoison (m : Mem) (w : Nat) (on : Bool) (b : Nat) : (m.setPoison w on).byte b = m.byte b := rfl
@[simp] theorem Mem.byte_fixWord (m : Mem) (w b : Nat) : (m.fixWord w).byte b = m.byte b := rfl
@[simp] theorem Mem.feAt_fixWord (m : Mem) (w b : Nat) : (m.fixWord w).feAt b = m.feAt b := rfl
@[simp] theorem Mem.poisonAt_fixWord (m : Mem) (w b : Nat) : (m.fixWord w).poisonAt b = m.poisonAt b := rfl
@[simp] theorem Mem.feAt_setPoison (m : Mem) (w : Nat) (on : Bool) (b : Nat) : (m.setPoison w on).feAt b = m.feAt b := rfl
@[simp] theorem Mem.poisonAt_setFe (m : Mem) (w : Nat) (on : Bool) (b : Nat) : (m.setFe w on).poisonAt b = m.poisonAt b := rfl

@[simp] theorem Mem.poisonAt_setPoison (m : Mem) (w : Nat) (on : Bool) (b : Nat) :
    (m.setPoison w on).poisonAt b = if b = w then on else m.poisonAt b := nsPut_contains ..

@[simp] theorem Mem.feAt_setFe (m : Mem) (w : Nat) (on : Bool) (b : Nat) :
    (m.setFe w on).feAt b = if b = w then on else m.feAt b := nsPut_contains ..

@[simp] theorem Mem.feAt_setByte (m : Mem) (a w : Nat) (v : Byte) : (m.setByte a v).feAt w = m.feAt w := by
  by_cases h : inCellar a <;> simp [Mem.setByte, Mem.feAt, h]

@[simp] theorem Mem.poisonAt_setByte (m : Mem) (a w : Nat) (v : Byte) : (m.setByte a v).poisonAt w = m.poisonAt w := by
  by_cases h : inCellar a <;> simp [Mem.setByte, Mem.poisonAt, h]

@[simp] theorem Mem.feAt_setBytes (l : List Byte) (m : Mem) (a w : Nat) : (m.setBytes a l).feAt w = m.feAt w := by
  induction l generalizing m a with
  | nil => rfl
  | cons b r ih => simp [Mem.setBytes, ih]

@[simp] theorem Mem.poisonAt_setBytes (l : List Byte) (m : Mem) (a w : Nat) : (m.setBytes a l).poisonAt w = m.poisonAt w := by
  induction l generalizing m a with
  | nil => rfl
  | cons b r ih => simp [Mem.setBytes, ih]

/-- A run of bytes reads as written; every other byte as before. -/
theorem Mem.byte_setBytes (l : List Byte) (m : Mem) (a b : Nat) :
    (m.setBytes a l).byte b = if a ≤ b ∧ b < a + l.length then l.getD (b - a) 0 else m.byte b := by
  induction l generalizing m a with
  | nil => simp only [Mem.setBytes, List.length_nil]; rw [if_neg (by omega)]
  | cons v r ih =>
    rw [Mem.setBytes, ih, Mem.byte_setByte]
    by_cases h1 : b = a
    · subst h1; simp
    · rw [if_neg h1]
      by_cases h2 : a + 1 ≤ b ∧ b < a + 1 + r.length
      · have h3 : a ≤ b ∧ b < a + (v :: r).length := by simp only [List.length_cons]; omega
        have h4 : b - a = (b - (a + 1)) + 1 := by omega
        rw [if_pos h2, if_pos h3, h4, List.getD_cons_succ]
      · have h3 : ¬(a ≤ b ∧ b < a + (v :: r).length) := by simp only [List.length_cons]; omega
        rw [if_neg h2, if_neg h3]

theorem toLe_length (k n : Nat) : (toLe k n).length = k := by
  induction k generalizing n with
  | zero => rfl
  | succ k ih => simp [toLe, ih]

/-- Bytes outside a word that is set. -/
theorem Mem.byte_setWord_other (m : Mem) (w b : Nat) (x : StoWord) (h : b / 8 ≠ w) : (m.setWord w x).byte b = m.byte b := by
  rw [Mem.setWord, Mem.byte_fixWord, Mem.byte_setPoison, Mem.byte_setFe, Mem.byte_setBytes, toLe_length, if_neg (by omega)]

theorem Mem.byte_writeChunk (m : Mem) (a b : Nat) (l : List (Byte × Bool)) :
    (m.writeChunk a l).byte b = if a ≤ b ∧ b < a + l.length then (l.map (·.1)).getD (b - a) 0 else m.byte b := by
  have h := Mem.byte_setBytes (l.map (·.1)) m a b
  rw [List.length_map] at h
  rw [Mem.writeChunk]
  split <;> simp [h]

/-- The pieces of a run written one after another are the run. -/
theorem Mem.byte_foldChunks (f : Nat) (m : Mem) (a b : Nat) (l : List (Byte × Bool)) (hf : l.length ≤ f) :
    ((splitAtBounds 8 f a l).foldl (fun m c => m.writeChunk c.1 c.2) m).byte b =
      if a ≤ b ∧ b < a + l.length then (l.map (·.1)).getD (b - a) 0 else m.byte b := by
  induction f generalizing m a l with
  | zero =>
    have hl : l = [] := List.length_eq_zero_iff.1 (by omega)
    subst hl
    simp only [splitAtBounds, List.foldl_nil, List.length_nil]; rw [if_neg (by omega)]
  | succ f ih =>
    cases l with
    | nil => simp only [splitAtBounds, List.foldl_nil, List.length_nil]; rw [if_neg (by omega)]
    | cons v r =>
      generalize hL : v :: r = L at *
      have hlen : 1 ≤ L.length := by rw [← hL]; simp
      have hs : splitAtBounds 8 (f + 1) a L = (a, L.take (min (8 - a % 8) L.length)) ::
          splitAtBounds 8 f (a + min (8 - a % 8) L.length) (L.drop (min (8 - a % 8) L.length)) := by rw [← hL]; rfl
      rw [hs]
      set k := min (8 - a % 8) L.length with hk
      have hk1 : 1 ≤ k := by omega
      have hk2 : k ≤ L.length := by omega
      rw [List.foldl_cons, ih _ _ _ (by rw [List.length_drop]; omega), Mem.byte_writeChunk, List.length_drop, List.length_take]
      by_cases h1 : a + k ≤ b ∧ b < a + k + (L.length - k)
      · have h2 : a ≤ b ∧ b < a + L.length := by omega
        rw [if_pos h1, if_pos h2, List.getD_eq_getElem?_getD, List.getD_eq_getElem?_getD, List.map_drop, List.getElem?_drop]
        congr 2; omega
      · rw [if_neg h1]
        by_cases h3 : a ≤ b ∧ b < a + min k L.length
        · have h2 : a ≤ b ∧ b < a + L.length := by omega
          rw [if_pos h3, if_pos h2, List.getD_eq_getElem?_getD, List.getD_eq_getElem?_getD, List.map_take, List.getElem?_take_of_lt (by omega)]
        · have h2 : ¬(a ≤ b ∧ b < a + L.length) := by omega
          rw [if_neg h3, if_neg h2]

/-- A write of bytes outside the cellar: each reads as written, every other byte as before. -/
theorem Mem.byte_write (m : Mem) (k a b : Nat) (l : List (Byte × Bool)) (h : inCellar a = false) :
    (m.write k a l).byte b = if a ≤ b ∧ b < a + l.length then (l.map (·.1)).getD (b - a) 0 else m.byte b := by
  rw [Mem.write, if_neg (by simp [h])]
  exact Mem.byte_foldChunks _ m a b l (le_refl _)

end Sys2Proof.Machine
end

