-- ==== Sys2Proof/Laws/State.lean ====
section
/-! SUPPORT. The field lemmas of State: what each named update leaves as it is. One lemma per update and field, by rfl. -/

namespace Sys2Proof.Machine
open Sys2Proof

/-! ## `State.setReg` -/

@[simp] theorem State.setReg_pending (s : State) (off : Nat) (v : W32) : (s.setReg off v).pending = s.pending := rfl
@[simp] theorem State.setReg_high (s : State) (off : Nat) (v : W32) : (s.setReg off v).high = s.high := rfl
@[simp] theorem State.setReg_info (s : State) (off : Nat) (v : W32) : (s.setReg off v).info = s.info := rfl
@[simp] theorem State.setReg_cores (s : State) (off : Nat) (v : W32) : (s.setReg off v).cores = s.cores := rfl
@[simp] theorem State.setReg_mem (s : State) (off : Nat) (v : W32) : (s.setReg off v).mem = s.mem := rfl
@[simp] theorem State.setReg_loft (s : State) (off : Nat) (v : W32) : (s.setReg off v).loft = s.loft := rfl
@[simp] theorem State.setReg_mesh (s : State) (off : Nat) (v : W32) : (s.setReg off v).mesh = s.mesh := rfl
@[simp] theorem State.setReg_ports (s : State) (off : Nat) (v : W32) : (s.setReg off v).ports = s.ports := rfl
@[simp] theorem State.setReg_arbs (s : State) (off : Nat) (v : W32) : (s.setReg off v).arbs = s.arbs := rfl
@[simp] theorem State.setReg_patrol (s : State) (off : Nat) (v : W32) : (s.setReg off v).patrol = s.patrol := rfl
@[simp] theorem State.setReg_power (s : State) (off : Nat) (v : W32) : (s.setReg off v).power = s.power := rfl
@[simp] theorem State.setReg_host (s : State) (off : Nat) (v : W32) : (s.setReg off v).host = s.host := rfl
@[simp] theorem State.setReg_mgmt (s : State) (off : Nat) (v : W32) : (s.setReg off v).mgmt = s.mgmt := rfl
@[simp] theorem State.setReg_pins (s : State) (off : Nat) (v : W32) : (s.setReg off v).pins = s.pins := rfl
@[simp] theorem State.setReg_free (s : State) (off : Nat) (v : W32) : (s.setReg off v).free = s.free := rfl

/-! ## `State.setPg` -/

@[simp] theorem State.setPg_pending (s : State) (p : Page) (o : Nat) (v : W32) : (s.setPg p o v).pending = s.pending := rfl
@[simp] theorem State.setPg_high (s : State) (p : Page) (o : Nat) (v : W32) : (s.setPg p o v).high = s.high := rfl
@[simp] theorem State.setPg_info (s : State) (p : Page) (o : Nat) (v : W32) : (s.setPg p o v).info = s.info := rfl
@[simp] theorem State.setPg_cores (s : State) (p : Page) (o : Nat) (v : W32) : (s.setPg p o v).cores = s.cores := rfl
@[simp] theorem State.setPg_mem (s : State) (p : Page) (o : Nat) (v : W32) : (s.setPg p o v).mem = s.mem := rfl
@[simp] theorem State.setPg_loft (s : State) (p : Page) (o : Nat) (v : W32) : (s.setPg p o v).loft = s.loft := rfl
@[simp] theorem State.setPg_mesh (s : State) (p : Page) (o : Nat) (v : W32) : (s.setPg p o v).mesh = s.mesh := rfl
@[simp] theorem State.setPg_ports (s : State) (p : Page) (o : Nat) (v : W32) : (s.setPg p o v).ports = s.ports := rfl
@[simp] theorem State.setPg_arbs (s : State) (p : Page) (o : Nat) (v : W32) : (s.setPg p o v).arbs = s.arbs := rfl
@[simp] theorem State.setPg_patrol (s : State) (p : Page) (o : Nat) (v : W32) : (s.setPg p o v).patrol = s.patrol := rfl
@[simp] theorem State.setPg_power (s : State) (p : Page) (o : Nat) (v : W32) : (s.setPg p o v).power = s.power := rfl
@[simp] theorem State.setPg_host (s : State) (p : Page) (o : Nat) (v : W32) : (s.setPg p o v).host = s.host := rfl
@[simp] theorem State.setPg_mgmt (s : State) (p : Page) (o : Nat) (v : W32) : (s.setPg p o v).mgmt = s.mgmt := rfl
@[simp] theorem State.setPg_pins (s : State) (p : Page) (o : Nat) (v : W32) : (s.setPg p o v).pins = s.pins := rfl
@[simp] theorem State.setPg_free (s : State) (p : Page) (o : Nat) (v : W32) : (s.setPg p o v).free = s.free := rfl

/-! ## `State.setPg64` -/

@[simp] theorem State.setPg64_pending (s : State) (p : Page) (o v : Nat) : (s.setPg64 p o v).pending = s.pending := rfl
@[simp] theorem State.setPg64_high (s : State) (p : Page) (o v : Nat) : (s.setPg64 p o v).high = s.high := rfl
@[simp] theorem State.setPg64_info (s : State) (p : Page) (o v : Nat) : (s.setPg64 p o v).info = s.info := rfl
@[simp] theorem State.setPg64_cores (s : State) (p : Page) (o v : Nat) : (s.setPg64 p o v).cores = s.cores := rfl
@[simp] theorem State.setPg64_mem (s : State) (p : Page) (o v : Nat) : (s.setPg64 p o v).mem = s.mem := rfl
@[simp] theorem State.setPg64_loft (s : State) (p : Page) (o v : Nat) : (s.setPg64 p o v).loft = s.loft := rfl
@[simp] theorem State.setPg64_mesh (s : State) (p : Page) (o v : Nat) : (s.setPg64 p o v).mesh = s.mesh := rfl
@[simp] theorem State.setPg64_ports (s : State) (p : Page) (o v : Nat) : (s.setPg64 p o v).ports = s.ports := rfl
@[simp] theorem State.setPg64_arbs (s : State) (p : Page) (o v : Nat) : (s.setPg64 p o v).arbs = s.arbs := rfl
@[simp] theorem State.setPg64_patrol (s : State) (p : Page) (o v : Nat) : (s.setPg64 p o v).patrol = s.patrol := rfl
@[simp] theorem State.setPg64_power (s : State) (p : Page) (o v : Nat) : (s.setPg64 p o v).power = s.power := rfl
@[simp] theorem State.setPg64_host (s : State) (p : Page) (o v : Nat) : (s.setPg64 p o v).host = s.host := rfl
@[simp] theorem State.setPg64_mgmt (s : State) (p : Page) (o v : Nat) : (s.setPg64 p o v).mgmt = s.mgmt := rfl
@[simp] theorem State.setPg64_pins (s : State) (p : Page) (o v : Nat) : (s.setPg64 p o v).pins = s.pins := rfl
@[simp] theorem State.setPg64_free (s : State) (p : Page) (o v : Nat) : (s.setPg64 p o v).free = s.free := rfl

/-! ## `State.setField` -/

@[simp] theorem State.setField_pending (s : State) (p : Page) (o lo len v : Nat) : (s.setField p o lo len v).pending = s.pending := rfl
@[simp] theorem State.setField_high (s : State) (p : Page) (o lo len v : Nat) : (s.setField p o lo len v).high = s.high := rfl
@[simp] theorem State.setField_info (s : State) (p : Page) (o lo len v : Nat) : (s.setField p o lo len v).info = s.info := rfl
@[simp] theorem State.setField_cores (s : State) (p : Page) (o lo len v : Nat) : (s.setField p o lo len v).cores = s.cores := rfl
@[simp] theorem State.setField_mem (s : State) (p : Page) (o lo len v : Nat) : (s.setField p o lo len v).mem = s.mem := rfl
@[simp] theorem State.setField_loft (s : State) (p : Page) (o lo len v : Nat) : (s.setField p o lo len v).loft = s.loft := rfl
@[simp] theorem State.setField_mesh (s : State) (p : Page) (o lo len v : Nat) : (s.setField p o lo len v).mesh = s.mesh := rfl
@[simp] theorem State.setField_ports (s : State) (p : Page) (o lo len v : Nat) : (s.setField p o lo len v).ports = s.ports := rfl
@[simp] theorem State.setField_arbs (s : State) (p : Page) (o lo len v : Nat) : (s.setField p o lo len v).arbs = s.arbs := rfl
@[simp] theorem State.setField_patrol (s : State) (p : Page) (o lo len v : Nat) : (s.setField p o lo len v).patrol = s.patrol := rfl
@[simp] theorem State.setField_power (s : State) (p : Page) (o lo len v : Nat) : (s.setField p o lo len v).power = s.power := rfl
@[simp] theorem State.setField_host (s : State) (p : Page) (o lo len v : Nat) : (s.setField p o lo len v).host = s.host := rfl
@[simp] theorem State.setField_mgmt (s : State) (p : Page) (o lo len v : Nat) : (s.setField p o lo len v).mgmt = s.mgmt := rfl
@[simp] theorem State.setField_pins (s : State) (p : Page) (o lo len v : Nat) : (s.setField p o lo len v).pins = s.pins := rfl
@[simp] theorem State.setField_free (s : State) (p : Page) (o lo len v : Nat) : (s.setField p o lo len v).free = s.free := rfl

/-! ## `State.modCore` -/

@[simp] theorem State.modCore_pending (s : State) (c : CoreId) (f : Core → Core) : (s.modCore c f).pending = s.pending := rfl
@[simp] theorem State.modCore_regs (s : State) (c : CoreId) (f : Core → Core) : (s.modCore c f).regs = s.regs := rfl
@[simp] theorem State.modCore_high (s : State) (c : CoreId) (f : Core → Core) : (s.modCore c f).high = s.high := rfl
@[simp] theorem State.modCore_info (s : State) (c : CoreId) (f : Core → Core) : (s.modCore c f).info = s.info := rfl
@[simp] theorem State.modCore_mem (s : State) (c : CoreId) (f : Core → Core) : (s.modCore c f).mem = s.mem := rfl
@[simp] theorem State.modCore_loft (s : State) (c : CoreId) (f : Core → Core) : (s.modCore c f).loft = s.loft := rfl
@[simp] theorem State.modCore_mesh (s : State) (c : CoreId) (f : Core → Core) : (s.modCore c f).mesh = s.mesh := rfl
@[simp] theorem State.modCore_ports (s : State) (c : CoreId) (f : Core → Core) : (s.modCore c f).ports = s.ports := rfl
@[simp] theorem State.modCore_arbs (s : State) (c : CoreId) (f : Core → Core) : (s.modCore c f).arbs = s.arbs := rfl
@[simp] theorem State.modCore_patrol (s : State) (c : CoreId) (f : Core → Core) : (s.modCore c f).patrol = s.patrol := rfl
@[simp] theorem State.modCore_power (s : State) (c : CoreId) (f : Core → Core) : (s.modCore c f).power = s.power := rfl
@[simp] theorem State.modCore_host (s : State) (c : CoreId) (f : Core → Core) : (s.modCore c f).host = s.host := rfl
@[simp] theorem State.modCore_mgmt (s : State) (c : CoreId) (f : Core → Core) : (s.modCore c f).mgmt = s.mgmt := rfl
@[simp] theorem State.modCore_pins (s : State) (c : CoreId) (f : Core → Core) : (s.modCore c f).pins = s.pins := rfl
@[simp] theorem State.modCore_free (s : State) (c : CoreId) (f : Core → Core) : (s.modCore c f).free = s.free := rfl

/-! ## `State.modCtx` -/

@[simp] theorem State.modCtx_pending (s : State) (c : CoreId) (x : CtxId) (f : Ctx → Ctx) : (s.modCtx c x f).pending = s.pending := rfl
@[simp] theorem State.modCtx_regs (s : State) (c : CoreId) (x : CtxId) (f : Ctx → Ctx) : (s.modCtx c x f).regs = s.regs := rfl
@[simp] theorem State.modCtx_high (s : State) (c : CoreId) (x : CtxId) (f : Ctx → Ctx) : (s.modCtx c x f).high = s.high := rfl
@[simp] theorem State.modCtx_info (s : State) (c : CoreId) (x : CtxId) (f : Ctx → Ctx) : (s.modCtx c x f).info = s.info := rfl
@[simp] theorem State.modCtx_mem (s : State) (c : CoreId) (x : CtxId) (f : Ctx → Ctx) : (s.modCtx c x f).mem = s.mem := rfl
@[simp] theorem State.modCtx_loft (s : State) (c : CoreId) (x : CtxId) (f : Ctx → Ctx) : (s.modCtx c x f).loft = s.loft := rfl
@[simp] theorem State.modCtx_mesh (s : State) (c : CoreId) (x : CtxId) (f : Ctx → Ctx) : (s.modCtx c x f).mesh = s.mesh := rfl
@[simp] theorem State.modCtx_ports (s : State) (c : CoreId) (x : CtxId) (f : Ctx → Ctx) : (s.modCtx c x f).ports = s.ports := rfl
@[simp] theorem State.modCtx_arbs (s : State) (c : CoreId) (x : CtxId) (f : Ctx → Ctx) : (s.modCtx c x f).arbs = s.arbs := rfl
@[simp] theorem State.modCtx_patrol (s : State) (c : CoreId) (x : CtxId) (f : Ctx → Ctx) : (s.modCtx c x f).patrol = s.patrol := rfl
@[simp] theorem State.modCtx_power (s : State) (c : CoreId) (x : CtxId) (f : Ctx → Ctx) : (s.modCtx c x f).power = s.power := rfl
@[simp] theorem State.modCtx_host (s : State) (c : CoreId) (x : CtxId) (f : Ctx → Ctx) : (s.modCtx c x f).host = s.host := rfl
@[simp] theorem State.modCtx_mgmt (s : State) (c : CoreId) (x : CtxId) (f : Ctx → Ctx) : (s.modCtx c x f).mgmt = s.mgmt := rfl
@[simp] theorem State.modCtx_pins (s : State) (c : CoreId) (x : CtxId) (f : Ctx → Ctx) : (s.modCtx c x f).pins = s.pins := rfl
@[simp] theorem State.modCtx_free (s : State) (c : CoreId) (x : CtxId) (f : Ctx → Ctx) : (s.modCtx c x f).free = s.free := rfl

/-! ## `State.modMem` -/

@[simp] theorem State.modMem_pending (s : State) (f : Mem → Mem) : (s.modMem f).pending = s.pending := rfl
@[simp] theorem State.modMem_regs (s : State) (f : Mem → Mem) : (s.modMem f).regs = s.regs := rfl
@[simp] theorem State.modMem_high (s : State) (f : Mem → Mem) : (s.modMem f).high = s.high := rfl
@[simp] theorem State.modMem_info (s : State) (f : Mem → Mem) : (s.modMem f).info = s.info := rfl
@[simp] theorem State.modMem_cores (s : State) (f : Mem → Mem) : (s.modMem f).cores = s.cores := rfl
@[simp] theorem State.modMem_loft (s : State) (f : Mem → Mem) : (s.modMem f).loft = s.loft := rfl
@[simp] theorem State.modMem_mesh (s : State) (f : Mem → Mem) : (s.modMem f).mesh = s.mesh := rfl
@[simp] theorem State.modMem_ports (s : State) (f : Mem → Mem) : (s.modMem f).ports = s.ports := rfl
@[simp] theorem State.modMem_arbs (s : State) (f : Mem → Mem) : (s.modMem f).arbs = s.arbs := rfl
@[simp] theorem State.modMem_patrol (s : State) (f : Mem → Mem) : (s.modMem f).patrol = s.patrol := rfl
@[simp] theorem State.modMem_power (s : State) (f : Mem → Mem) : (s.modMem f).power = s.power := rfl
@[simp] theorem State.modMem_host (s : State) (f : Mem → Mem) : (s.modMem f).host = s.host := rfl
@[simp] theorem State.modMem_mgmt (s : State) (f : Mem → Mem) : (s.modMem f).mgmt = s.mgmt := rfl
@[simp] theorem State.modMem_pins (s : State) (f : Mem → Mem) : (s.modMem f).pins = s.pins := rfl
@[simp] theorem State.modMem_free (s : State) (f : Mem → Mem) : (s.modMem f).free = s.free := rfl

/-! ## `State.modHost` -/

@[simp] theorem State.modHost_pending (s : State) (f : HostIf → HostIf) : (s.modHost f).pending = s.pending := rfl
@[simp] theorem State.modHost_regs (s : State) (f : HostIf → HostIf) : (s.modHost f).regs = s.regs := rfl
@[simp] theorem State.modHost_high (s : State) (f : HostIf → HostIf) : (s.modHost f).high = s.high := rfl
@[simp] theorem State.modHost_info (s : State) (f : HostIf → HostIf) : (s.modHost f).info = s.info := rfl
@[simp] theorem State.modHost_cores (s : State) (f : HostIf → HostIf) : (s.modHost f).cores = s.cores := rfl
@[simp] theorem State.modHost_mem (s : State) (f : HostIf → HostIf) : (s.modHost f).mem = s.mem := rfl
@[simp] theorem State.modHost_loft (s : State) (f : HostIf → HostIf) : (s.modHost f).loft = s.loft := rfl
@[simp] theorem State.modHost_mesh (s : State) (f : HostIf → HostIf) : (s.modHost f).mesh = s.mesh := rfl
@[simp] theorem State.modHost_ports (s : State) (f : HostIf → HostIf) : (s.modHost f).ports = s.ports := rfl
@[simp] theorem State.modHost_arbs (s : State) (f : HostIf → HostIf) : (s.modHost f).arbs = s.arbs := rfl
@[simp] theorem State.modHost_patrol (s : State) (f : HostIf → HostIf) : (s.modHost f).patrol = s.patrol := rfl
@[simp] theorem State.modHost_power (s : State) (f : HostIf → HostIf) : (s.modHost f).power = s.power := rfl
@[simp] theorem State.modHost_mgmt (s : State) (f : HostIf → HostIf) : (s.modHost f).mgmt = s.mgmt := rfl
@[simp] theorem State.modHost_pins (s : State) (f : HostIf → HostIf) : (s.modHost f).pins = s.pins := rfl
@[simp] theorem State.modHost_free (s : State) (f : HostIf → HostIf) : (s.modHost f).free = s.free := rfl

/-! ## `State.modMgmt` -/

@[simp] theorem State.modMgmt_pending (s : State) (f : Mgmt → Mgmt) : (s.modMgmt f).pending = s.pending := rfl
@[simp] theorem State.modMgmt_regs (s : State) (f : Mgmt → Mgmt) : (s.modMgmt f).regs = s.regs := rfl
@[simp] theorem State.modMgmt_high (s : State) (f : Mgmt → Mgmt) : (s.modMgmt f).high = s.high := rfl
@[simp] theorem State.modMgmt_info (s : State) (f : Mgmt → Mgmt) : (s.modMgmt f).info = s.info := rfl
@[simp] theorem State.modMgmt_cores (s : State) (f : Mgmt → Mgmt) : (s.modMgmt f).cores = s.cores := rfl
@[simp] theorem State.modMgmt_mem (s : State) (f : Mgmt → Mgmt) : (s.modMgmt f).mem = s.mem := rfl
@[simp] theorem State.modMgmt_loft (s : State) (f : Mgmt → Mgmt) : (s.modMgmt f).loft = s.loft := rfl
@[simp] theorem State.modMgmt_mesh (s : State) (f : Mgmt → Mgmt) : (s.modMgmt f).mesh = s.mesh := rfl
@[simp] theorem State.modMgmt_ports (s : State) (f : Mgmt → Mgmt) : (s.modMgmt f).ports = s.ports := rfl
@[simp] theorem State.modMgmt_arbs (s : State) (f : Mgmt → Mgmt) : (s.modMgmt f).arbs = s.arbs := rfl
@[simp] theorem State.modMgmt_patrol (s : State) (f : Mgmt → Mgmt) : (s.modMgmt f).patrol = s.patrol := rfl
@[simp] theorem State.modMgmt_power (s : State) (f : Mgmt → Mgmt) : (s.modMgmt f).power = s.power := rfl
@[simp] theorem State.modMgmt_host (s : State) (f : Mgmt → Mgmt) : (s.modMgmt f).host = s.host := rfl
@[simp] theorem State.modMgmt_pins (s : State) (f : Mgmt → Mgmt) : (s.modMgmt f).pins = s.pins := rfl
@[simp] theorem State.modMgmt_free (s : State) (f : Mgmt → Mgmt) : (s.modMgmt f).free = s.free := rfl

/-! ## `State.modPower` -/

@[simp] theorem State.modPower_pending (s : State) (f : Power → Power) : (s.modPower f).pending = s.pending := rfl
@[simp] theorem State.modPower_regs (s : State) (f : Power → Power) : (s.modPower f).regs = s.regs := rfl
@[simp] theorem State.modPower_high (s : State) (f : Power → Power) : (s.modPower f).high = s.high := rfl
@[simp] theorem State.modPower_info (s : State) (f : Power → Power) : (s.modPower f).info = s.info := rfl
@[simp] theorem State.modPower_cores (s : State) (f : Power → Power) : (s.modPower f).cores = s.cores := rfl
@[simp] theorem State.modPower_mem (s : State) (f : Power → Power) : (s.modPower f).mem = s.mem := rfl
@[simp] theorem State.modPower_loft (s : State) (f : Power → Power) : (s.modPower f).loft = s.loft := rfl
@[simp] theorem State.modPower_mesh (s : State) (f : Power → Power) : (s.modPower f).mesh = s.mesh := rfl
@[simp] theorem State.modPower_ports (s : State) (f : Power → Power) : (s.modPower f).ports = s.ports := rfl
@[simp] theorem State.modPower_arbs (s : State) (f : Power → Power) : (s.modPower f).arbs = s.arbs := rfl
@[simp] theorem State.modPower_patrol (s : State) (f : Power → Power) : (s.modPower f).patrol = s.patrol := rfl
@[simp] theorem State.modPower_host (s : State) (f : Power → Power) : (s.modPower f).host = s.host := rfl
@[simp] theorem State.modPower_mgmt (s : State) (f : Power → Power) : (s.modPower f).mgmt = s.mgmt := rfl
@[simp] theorem State.modPower_pins (s : State) (f : Power → Power) : (s.modPower f).pins = s.pins := rfl
@[simp] theorem State.modPower_free (s : State) (f : Power → Power) : (s.modPower f).free = s.free := rfl

/-! ## `State.modPort` -/

@[simp] theorem State.modPort_pending (s : State) (i : PortId) (f : Port → Port) : (s.modPort i f).pending = s.pending := rfl
@[simp] theorem State.modPort_regs (s : State) (i : PortId) (f : Port → Port) : (s.modPort i f).regs = s.regs := rfl
@[simp] theorem State.modPort_high (s : State) (i : PortId) (f : Port → Port) : (s.modPort i f).high = s.high := rfl
@[simp] theorem State.modPort_info (s : State) (i : PortId) (f : Port → Port) : (s.modPort i f).info = s.info := rfl
@[simp] theorem State.modPort_cores (s : State) (i : PortId) (f : Port → Port) : (s.modPort i f).cores = s.cores := rfl
@[simp] theorem State.modPort_mem (s : State) (i : PortId) (f : Port → Port) : (s.modPort i f).mem = s.mem := rfl
@[simp] theorem State.modPort_loft (s : State) (i : PortId) (f : Port → Port) : (s.modPort i f).loft = s.loft := rfl
@[simp] theorem State.modPort_mesh (s : State) (i : PortId) (f : Port → Port) : (s.modPort i f).mesh = s.mesh := rfl
@[simp] theorem State.modPort_arbs (s : State) (i : PortId) (f : Port → Port) : (s.modPort i f).arbs = s.arbs := rfl
@[simp] theorem State.modPort_patrol (s : State) (i : PortId) (f : Port → Port) : (s.modPort i f).patrol = s.patrol := rfl
@[simp] theorem State.modPort_power (s : State) (i : PortId) (f : Port → Port) : (s.modPort i f).power = s.power := rfl
@[simp] theorem State.modPort_host (s : State) (i : PortId) (f : Port → Port) : (s.modPort i f).host = s.host := rfl
@[simp] theorem State.modPort_mgmt (s : State) (i : PortId) (f : Port → Port) : (s.modPort i f).mgmt = s.mgmt := rfl
@[simp] theorem State.modPort_pins (s : State) (i : PortId) (f : Port → Port) : (s.modPort i f).pins = s.pins := rfl
@[simp] theorem State.modPort_free (s : State) (i : PortId) (f : Port → Port) : (s.modPort i f).free = s.free := rfl

/-! ## `State.setLoft` -/

@[simp] theorem State.setLoft_pending (s : State) (k : Nat) (x : Entry) : (s.setLoft k x).pending = s.pending := rfl
@[simp] theorem State.setLoft_regs (s : State) (k : Nat) (x : Entry) : (s.setLoft k x).regs = s.regs := rfl
@[simp] theorem State.setLoft_high (s : State) (k : Nat) (x : Entry) : (s.setLoft k x).high = s.high := rfl
@[simp] theorem State.setLoft_info (s : State) (k : Nat) (x : Entry) : (s.setLoft k x).info = s.info := rfl
@[simp] theorem State.setLoft_cores (s : State) (k : Nat) (x : Entry) : (s.setLoft k x).cores = s.cores := rfl
@[simp] theorem State.setLoft_mem (s : State) (k : Nat) (x : Entry) : (s.setLoft k x).mem = s.mem := rfl
@[simp] theorem State.setLoft_mesh (s : State) (k : Nat) (x : Entry) : (s.setLoft k x).mesh = s.mesh := rfl
@[simp] theorem State.setLoft_ports (s : State) (k : Nat) (x : Entry) : (s.setLoft k x).ports = s.ports := rfl
@[simp] theorem State.setLoft_arbs (s : State) (k : Nat) (x : Entry) : (s.setLoft k x).arbs = s.arbs := rfl
@[simp] theorem State.setLoft_patrol (s : State) (k : Nat) (x : Entry) : (s.setLoft k x).patrol = s.patrol := rfl
@[simp] theorem State.setLoft_power (s : State) (k : Nat) (x : Entry) : (s.setLoft k x).power = s.power := rfl
@[simp] theorem State.setLoft_host (s : State) (k : Nat) (x : Entry) : (s.setLoft k x).host = s.host := rfl
@[simp] theorem State.setLoft_mgmt (s : State) (k : Nat) (x : Entry) : (s.setLoft k x).mgmt = s.mgmt := rfl
@[simp] theorem State.setLoft_pins (s : State) (k : Nat) (x : Entry) : (s.setLoft k x).pins = s.pins := rfl
@[simp] theorem State.setLoft_free (s : State) (k : Nat) (x : Entry) : (s.setLoft k x).free = s.free := rfl

/-! ## What the updates change -/

@[simp] theorem State.modMem_mem (s : State) (f : Mem → Mem) : (s.modMem f).mem = f s.mem := rfl
@[simp] theorem State.modHost_host (s : State) (f : HostIf → HostIf) : (s.modHost f).host = f s.host := rfl
@[simp] theorem State.modMgmt_mgmt (s : State) (f : Mgmt → Mgmt) : (s.modMgmt f).mgmt = f s.mgmt := rfl
@[simp] theorem State.modPower_power (s : State) (f : Power → Power) : (s.modPower f).power = f s.power := rfl

/-! ## Updates of a core -/

@[simp] theorem vmod_same (v : Vector α n) (i : Fin n) (f : α → α) : (vmod v i f)[i] = f v[i] := by simp [vmod]

theorem vmod_other (v : Vector α n) (i j : Fin n) (f : α → α) (h : j ≠ i) : (vmod v i f)[j] = v[j] := by
  have : i.val ≠ j.val := fun e => h (Fin.ext e.symm)
  simp [vmod, this]

@[simp] theorem State.core_modCore (s : State) (c : CoreId) (f : Core → Core) : (s.modCore c f).core c = f (s.core c) :=
  vmod_same ..

theorem State.core_modCore_other (s : State) (c d : CoreId) (f : Core → Core) (h : d ≠ c) : (s.modCore c f).core d = s.core d :=
  vmod_other _ _ _ _ h

@[simp] theorem Core.ctx_modCtx (k : Core) (x : CtxId) (f : Ctx → Ctx) : (k.modCtx x f).ctx x = f (k.ctx x) := vmod_same ..

theorem Core.ctx_modCtx_other (k : Core) (x y : CtxId) (f : Ctx → Ctx) (h : y ≠ x) : (k.modCtx x f).ctx y = k.ctx y :=
  vmod_other _ _ _ _ h

@[simp] theorem State.ctx_modCtx (s : State) (c : CoreId) (x : CtxId) (f : Ctx → Ctx) : (s.modCtx c x f).ctx c x = f (s.ctx c x) := by
  simp [State.modCtx, State.ctx]

theorem State.ctx_modCtx_other (s : State) (c d : CoreId) (x y : CtxId) (f : Ctx → Ctx) (h : d ≠ c ∨ y ≠ x) :
    (s.modCtx c x f).ctx d y = s.ctx d y := by
  by_cases hd : d = c
  · subst hd
    have hy : y ≠ x := by simpa using h
    simp [State.modCtx, State.ctx, Core.ctx_modCtx_other _ _ _ _ hy]
  · simp [State.modCtx, State.ctx, State.core_modCore_other _ _ _ _ hd]

@[simp] theorem State.core_setReg (s : State) (off : Nat) (v : W32) (c : CoreId) : (s.setReg off v).core c = s.core c := rfl
@[simp] theorem State.ctx_setReg (s : State) (off : Nat) (v : W32) (c : CoreId) (x : CtxId) : (s.setReg off v).ctx c x = s.ctx c x := rfl
@[simp] theorem State.core_setPg (s : State) (p : Page) (o : Nat) (v : W32) (c : CoreId) : (s.setPg p o v).core c = s.core c := rfl
@[simp] theorem State.ctx_setPg (s : State) (p : Page) (o : Nat) (v : W32) (c : CoreId) (x : CtxId) :
    (s.setPg p o v).ctx c x = s.ctx c x := rfl

/-! ## `Core.modCtx` changes a context only -/

@[simp] theorem Core.modCtx_units (k : Core) (x : CtxId) (f : Ctx → Ctx) : (k.modCtx x f).units = k.units := rfl
@[simp] theorem Core.modCtx_dmaq (k : Core) (x : CtxId) (f : Ctx → Ctx) : (k.modCtx x f).dmaq = k.dmaq := rfl
@[simp] theorem Core.modCtx_tables (k : Core) (x : CtxId) (f : Ctx → Ctx) : (k.modCtx x f).tables = k.tables := rfl
@[simp] theorem Core.modCtx_slotSets (k : Core) (x : CtxId) (f : Ctx → Ctx) : (k.modCtx x f).slotSets = k.slotSets := rfl
@[simp] theorem Core.modCtx_builds (k : Core) (x : CtxId) (f : Ctx → Ctx) : (k.modCtx x f).builds = k.builds := rfl
@[simp] theorem Core.modCtx_waits (k : Core) (x : CtxId) (f : Ctx → Ctx) : (k.modCtx x f).waits = k.waits := rfl
@[simp] theorem Core.modCtx_arb (k : Core) (x : CtxId) (f : Ctx → Ctx) : (k.modCtx x f).arb = k.arb := rfl
@[simp] theorem Core.modCtx_nextUid (k : Core) (x : CtxId) (f : Ctx → Ctx) : (k.modCtx x f).nextUid = k.nextUid := rfl
@[simp] theorem Core.modCtx_live (k : Core) (x : CtxId) (f : Ctx → Ctx) : (k.modCtx x f).live = k.live := rfl
@[simp] theorem Core.modCtx_fault (k : Core) (x : CtxId) (f : Ctx → Ctx) : (k.modCtx x f).fault = k.fault := rfl
@[simp] theorem Core.modCtx_resetting (k : Core) (x : CtxId) (f : Ctx → Ctx) : (k.modCtx x f).resetting = k.resetting := rfl
@[simp] theorem Core.modCtx_dlk (k : Core) (x : CtxId) (f : Ctx → Ctx) : (k.modCtx x f).dlk = k.dlk := rfl
@[simp] theorem Core.modCtx_dlkFired (k : Core) (x : CtxId) (f : Ctx → Ctx) : (k.modCtx x f).dlkFired = k.dlkFired := rfl
@[simp] theorem Core.modCtx_touched (k : Core) (x : CtxId) (f : Ctx → Ctx) : (k.modCtx x f).touched = k.touched := rfl
@[simp] theorem Core.modCtx_inbox (k : Core) (x : CtxId) (f : Ctx → Ctx) : (k.modCtx x f).inbox = k.inbox := rfl
@[simp] theorem Core.modCtx_acks (k : Core) (x : CtxId) (f : Ctx → Ctx) : (k.modCtx x f).acks = k.acks := rfl
@[simp] theorem Core.modCtx_posts (k : Core) (x : CtxId) (f : Ctx → Ctx) : (k.modCtx x f).posts = k.posts := rfl
@[simp] theorem Core.modCtx_nextPost (k : Core) (x : CtxId) (f : Ctx → Ctx) : (k.modCtx x f).nextPost = k.nextPost := rfl
@[simp] theorem Core.modCtx_txns (k : Core) (x : CtxId) (f : Ctx → Ctx) : (k.modCtx x f).txns = k.txns := rfl
@[simp] theorem Core.modCtx_lastQ (k : Core) (x : CtxId) (f : Ctx → Ctx) : (k.modCtx x f).lastQ = k.lastQ := rfl
@[simp] theorem Core.modCtx_shelves (k : Core) (x : CtxId) (f : Ctx → Ctx) : (k.modCtx x f).shelves = k.shelves := rfl
@[simp] theorem Core.modCtx_drained (k : Core) (x : CtxId) (f : Ctx → Ctx) : (k.modCtx x f).drained = k.drained := rfl
@[simp] theorem Core.modCtx_acFault (k : Core) (x : CtxId) (f : Ctx → Ctx) : (k.modCtx x f).acFault = k.acFault := rfl
@[simp] theorem Core.modCtx_eccRead (k : Core) (x : CtxId) (f : Ctx → Ctx) : (k.modCtx x f).eccRead = k.eccRead := rfl
@[simp] theorem Core.modCtx_lateRead (k : Core) (x : CtxId) (f : Ctx → Ctx) : (k.modCtx x f).lateRead = k.lateRead := rfl
@[simp] theorem Core.modCtx_monLatch (k : Core) (x : CtxId) (f : Ctx → Ctx) : (k.modCtx x f).monLatch = k.monLatch := rfl
@[simp] theorem Core.modCtx_monAc (k : Core) (x : CtxId) (f : Ctx → Ctx) : (k.modCtx x f).monAc = k.monAc := rfl
@[simp] theorem Core.modCtx_island (k : Core) (x : CtxId) (f : Ctx → Ctx) : (k.modCtx x f).island = k.island := rfl

end Sys2Proof.Machine
end

