-- ==== Sys2Proof/Laws/Regs.lean ====
section
/-! SUPPORT. Laws of registers: a page and an offset name one register, reads after writes, fields, counters, records. -/

namespace Sys2Proof.Machine
open Sys2Proof

/-! ## Pages and offsets (R414) -/

/-- A page and an offset within it are found again from the BAR0 offset. -/
theorem pageAt_base (p : Page) (o : Nat) (h : o < 0x1000) : pageAt (p.base + o) = some (p, o) := by
  have key (b j : Nat) (hb : (p.base + o) / 0x1000 = b) : pageAt (p.base + o) =
      (let p' := b
       let o' := (p.base + o) % 0x1000
       if p' = 0 then some (.pkg, o')
       else if p' = 0x10 then some (.mbx, o')
       else if 0x100 ≤ p' ∧ p' < 0x500 then some (corePage (Fin.ofNat 64 ((p' - 0x100) / 16)) (p' % 16), o')
       else if 0x500 ≤ p' ∧ p' < 0x540 then some (.sync (Fin.ofNat 64 (p' - 0x500)), o')
       else if 0x800 ≤ p' ∧ p' < 0x808 then some (.att (Fin.ofNat 8 (p' - 0x800)), o')
       else if 0x900 ≤ p' ∧ p' < 0x904 then some (.cel (Fin.ofNat 4 (p' - 0x900)), o')
       else if 0xA00 ≤ p' ∧ p' < 0xA10 then some (.lnk (Fin.ofNat 16 (p' - 0xA00)), o')
       else if p' = 0xB00 then some (.pwr, o')
       else if p' = 0xC00 then some (.sec, o')
       else none) := by subst hb; rfl
  cases p with
  | pkg => rw [key 0 0 (by simp [Page.base]; omega)]; simp [Page.base]; omega
  | mbx => rw [key 0x10 0 (by simp [Page.base]; omega)]; simp [Page.base]; omega
  | pwr => rw [key 0xB00 0 (by simp [Page.base]; omega)]; simp [Page.base]; omega
  | sec => rw [key 0xC00 0 (by simp [Page.base]; omega)]; simp [Page.base]; omega
  | seq c =>
    have hc := c.isLt
    have h1 : (Page.base (.seq c) + o) % 4096 = o := by simp only [Page.base]; omega
    rw [key (0x100 + 16 * c.val) 0 (by simp only [Page.base]; omega)]
    simp only [h1]
    rw [if_neg (by omega), if_neg (by omega), if_pos (by omega)]
    have h2 : (0x100 + 16 * c.val - 0x100) / 16 = c.val := by omega
    have h3 : (0x100 + 16 * c.val) % 16 = 0 := by omega
    rw [h2, h3, Fin.ofNat_val_eq_self]; rfl
  | ctx c x =>
    have hc := c.isLt; have hx := x.isLt
    have h1 : (Page.base (.ctx c x) + o) % 4096 = o := by simp only [Page.base]; omega
    rw [key (0x100 + 16 * c.val + 1 + x.val) 0 (by simp only [Page.base]; omega)]
    simp only [h1]
    rw [if_neg (by omega), if_neg (by omega), if_pos (by omega)]
    have h2 : (0x100 + 16 * c.val + 1 + x.val - 0x100) / 16 = c.val := by omega
    have h3 : (0x100 + 16 * c.val + 1 + x.val) % 16 = 1 + x.val := by omega
    rw [h2, h3, Fin.ofNat_val_eq_self, corePage, if_neg (by omega), dif_pos (by omega)]
    simp
  | eg c g =>
    have hc := c.isLt; have hg := g.isLt
    have h1 : (Page.base (.eg c g) + o) % 4096 = o := by simp only [Page.base]; omega
    rw [key (0x100 + 16 * c.val + 5 + g.val) 0 (by simp only [Page.base]; omega)]
    simp only [h1]
    rw [if_neg (by omega), if_neg (by omega), if_pos (by omega)]
    have h2 : (0x100 + 16 * c.val + 5 + g.val - 0x100) / 16 = c.val := by omega
    have h3 : (0x100 + 16 * c.val + 5 + g.val) % 16 = 5 + g.val := by omega
    rw [h2, h3, Fin.ofNat_val_eq_self, corePage, if_neg (by omega), dif_neg (by omega), dif_pos (by omega)]
    simp
  | se c =>
    have hc := c.isLt
    have h1 : (Page.base (.se c) + o) % 4096 = o := by simp only [Page.base]; omega
    rw [key (0x100 + 16 * c.val + 13) 0 (by simp only [Page.base]; omega)]
    simp only [h1]
    rw [if_neg (by omega), if_neg (by omega), if_pos (by omega)]
    have h2 : (0x100 + 16 * c.val + 13 - 0x100) / 16 = c.val := by omega
    have h3 : (0x100 + 16 * c.val + 13) % 16 = 13 := by omega
    rw [h2, h3, Fin.ofNat_val_eq_self]; rfl
  | fu c =>
    have hc := c.isLt
    have h1 : (Page.base (.fu c) + o) % 4096 = o := by simp only [Page.base]; omega
    rw [key (0x100 + 16 * c.val + 14) 0 (by simp only [Page.base]; omega)]
    simp only [h1]
    rw [if_neg (by omega), if_neg (by omega), if_pos (by omega)]
    have h2 : (0x100 + 16 * c.val + 14 - 0x100) / 16 = c.val := by omega
    have h3 : (0x100 + 16 * c.val + 14) % 16 = 14 := by omega
    rw [h2, h3, Fin.ofNat_val_eq_self]; rfl
  | sto c =>
    have hc := c.isLt
    have h1 : (Page.base (.sto c) + o) % 4096 = o := by simp only [Page.base]; omega
    rw [key (0x100 + 16 * c.val + 15) 0 (by simp only [Page.base]; omega)]
    simp only [h1]
    rw [if_neg (by omega), if_neg (by omega), if_pos (by omega)]
    have h2 : (0x100 + 16 * c.val + 15 - 0x100) / 16 = c.val := by omega
    have h3 : (0x100 + 16 * c.val + 15) % 16 = 15 := by omega
    rw [h2, h3, Fin.ofNat_val_eq_self]; rfl
  | sync c =>
    have hc := c.isLt
    have h1 : (Page.base (.sync c) + o) % 4096 = o := by simp only [Page.base]; omega
    rw [key (0x500 + c.val) 0 (by simp only [Page.base]; omega)]
    simp only [h1]
    rw [if_neg (by omega), if_neg (by omega), if_neg (by omega), if_pos (by omega)]
    simp
  | att c =>
    have hc := c.isLt
    have h1 : (Page.base (.att c) + o) % 4096 = o := by simp only [Page.base]; omega
    rw [key (0x800 + c.val) 0 (by simp only [Page.base]; omega)]
    simp only [h1]
    rw [if_neg (by omega), if_neg (by omega), if_neg (by omega), if_neg (by omega), if_pos (by omega)]
    simp
  | cel c =>
    have hc := c.isLt
    have h1 : (Page.base (.cel c) + o) % 4096 = o := by simp only [Page.base]; omega
    rw [key (0x900 + c.val) 0 (by simp only [Page.base]; omega)]
    simp only [h1]
    rw [if_neg (by omega), if_neg (by omega), if_neg (by omega), if_neg (by omega), if_neg (by omega), if_pos (by omega)]
    simp
  | lnk c =>
    have hc := c.isLt
    have h1 : (Page.base (.lnk c) + o) % 4096 = o := by simp only [Page.base]; omega
    rw [key (0xA00 + c.val) 0 (by simp only [Page.base]; omega)]
    simp only [h1]
    rw [if_neg (by omega), if_neg (by omega), if_neg (by omega), if_neg (by omega), if_neg (by omega), if_neg (by omega),
      if_pos (by omega)]
    simp

/-- Two registers of pages are the same only when page and offset are. -/
theorem base_inj (p q : Page) (o o' : Nat) (h : o < 0x1000) (h' : o' < 0x1000) : p.base + o = q.base + o' ↔ p = q ∧ o = o' := by
  constructor
  · intro e
    have h1 := pageAt_base p o h
    rw [e, pageAt_base q o' h'] at h1
    injection h1 with h1
    injection h1 with h1 h2
    exact ⟨h1.symm, h2.symm⟩
  · rintro ⟨rfl, rfl⟩; rfl

/-! ## Reads after writes -/

@[simp] theorem State.reg_setReg_same (s : State) (off : Nat) (v : W32) : (s.setReg off v).reg off = v := smGet_set_same ..

theorem State.reg_setReg_other (s : State) (off off' : Nat) (v : W32) (h : off' ≠ off) : (s.setReg off v).reg off' = s.reg off' :=
  smGet_set_other _ _ _ _ _ h

theorem State.reg_setReg (s : State) (off off' : Nat) (v : W32) : (s.setReg off v).reg off' = if off' = off then v else s.reg off' := by
  split
  · subst_vars; simp
  · exact s.reg_setReg_other _ _ _ (by assumption)

/-- A register of a page after a write to one. -/
theorem State.pg_setPg (s : State) (p q : Page) (o o' : Nat) (v : W32) (h : o < 0x1000) (h' : o' < 0x1000) :
    (s.setPg p o v).pg q o' = if q = p ∧ o' = o then v else s.pg q o' := by
  rw [State.pg, State.setPg, State.reg_setReg]
  simp only [base_inj q p o' o h' h]
  rfl

@[simp] theorem State.pg_setPg_same (s : State) (p : Page) (o : Nat) (v : W32) : (s.setPg p o v).pg p o = v :=
  State.reg_setReg_same ..

theorem State.pg_setPg_page (s : State) (p q : Page) (o o' : Nat) (v : W32) (h : o < 0x1000) (h' : o' < 0x1000) (hq : q ≠ p) :
    (s.setPg p o v).pg q o' = s.pg q o' := by rw [s.pg_setPg _ _ _ _ _ h h', if_neg (by tauto)]

theorem State.pg_setPg_off (s : State) (p q : Page) (o o' : Nat) (v : W32) (h : o < 0x1000) (h' : o' < 0x1000) (ho : o' ≠ o) :
    (s.setPg p o v).pg q o' = s.pg q o' := by rw [s.pg_setPg _ _ _ _ _ h h', if_neg (by tauto)]

/-! ## Registers under other updates -/

@[simp] theorem State.reg_modCore (s : State) (c : CoreId) (f : Core → Core) (o : Nat) : (s.modCore c f).reg o = s.reg o := rfl
@[simp] theorem State.pg_modCore (s : State) (c : CoreId) (f : Core → Core) (p : Page) (o : Nat) : (s.modCore c f).pg p o = s.pg p o := rfl
@[simp] theorem State.reg_modCtx (s : State) (c : CoreId) (x : CtxId) (f : Ctx → Ctx) (o : Nat) : (s.modCtx c x f).reg o = s.reg o := rfl
@[simp] theorem State.pg_modCtx (s : State) (c : CoreId) (x : CtxId) (f : Ctx → Ctx) (p : Page) (o : Nat) :
    (s.modCtx c x f).pg p o = s.pg p o := rfl
@[simp] theorem State.reg_modMem (s : State) (f : Mem → Mem) (o : Nat) : (s.modMem f).reg o = s.reg o := rfl
@[simp] theorem State.pg_modMem (s : State) (f : Mem → Mem) (p : Page) (o : Nat) : (s.modMem f).pg p o = s.pg p o := rfl
@[simp] theorem State.reg_modHost (s : State) (f : HostIf → HostIf) (o : Nat) : (s.modHost f).reg o = s.reg o := rfl
@[simp] theorem State.pg_modHost (s : State) (f : HostIf → HostIf) (p : Page) (o : Nat) : (s.modHost f).pg p o = s.pg p o := rfl
@[simp] theorem State.reg_modMgmt (s : State) (f : Mgmt → Mgmt) (o : Nat) : (s.modMgmt f).reg o = s.reg o := rfl
@[simp] theorem State.pg_modMgmt (s : State) (f : Mgmt → Mgmt) (p : Page) (o : Nat) : (s.modMgmt f).pg p o = s.pg p o := rfl
@[simp] theorem State.reg_modPower (s : State) (f : Power → Power) (o : Nat) : (s.modPower f).reg o = s.reg o := rfl
@[simp] theorem State.pg_modPower (s : State) (f : Power → Power) (p : Page) (o : Nat) : (s.modPower f).pg p o = s.pg p o := rfl
@[simp] theorem State.reg_modPort (s : State) (i : PortId) (f : Port → Port) (o : Nat) : (s.modPort i f).reg o = s.reg o := rfl
@[simp] theorem State.pg_modPort (s : State) (i : PortId) (f : Port → Port) (p : Page) (o : Nat) : (s.modPort i f).pg p o = s.pg p o := rfl

/-! ## The canonical form of the registers -/

theorem State.regs_wf_setReg (s : State) (off : Nat) (v : W32) (h : smWf regReset s.regs = true) :
    smWf regReset (s.setReg off v).regs = true := smWf_set _ _ _ _ h

/-! ## Fields -/

theorem bits_lt (w : W32) (lo len : Nat) : bits w lo len < 1 <<< len :=
  Nat.mod_lt _ (by rw [Nat.shiftLeft_eq, Nat.one_mul]; exact Nat.two_pow_pos len)

/-! ## Counters: a counter of the page, or nothing -/

/-- Counting writes two registers of the page's counters at most. -/
theorem State.bump_cases (s : State) (p : Page) (i n : Nat) :
    s.bump p i n = s ∨ s.bump p i n = s.setPg64 p (PG_CNT i) (min (s.pg64 p (PG_CNT i) + n) 0xFFFF_FFFF_FFFF_FFFF) := by
  rw [State.bump]; split
  · exact .inr rfl
  · exact .inl rfl

/-- Counting changes registers only. -/
theorem State.bump_frame (s : State) (p : Page) (i n : Nat) : s.bump p i n = { s with regs := (s.bump p i n).regs } := by
  rcases s.bump_cases p i n with h | h
  · rw [h]
  · rw [h]; rfl

/-- A register that is no counter of the page reads as before. -/
theorem State.pg_bump (s : State) (p q : Page) (i n o : Nat) (hi : i < 24) (ho : o < 0x1000)
    (h : q ≠ p ∨ o < 0x40 ∨ 0x100 ≤ o) : (s.bump p i n).pg q o = s.pg q o := by
  rcases s.bump_cases p i n with e | e
  · rw [e]
  · rw [e, State.setPg64]
    have h1 : PG_CNT i < 0x1000 := by simp only [PG_CNT]; omega
    have h2 : PG_CNT i + 4 < 0x1000 := by simp only [PG_CNT]; omega
    rw [State.pg_setPg _ _ _ _ _ _ h2 ho, if_neg, State.pg_setPg _ _ _ _ _ _ h1 ho, if_neg]
    · rintro ⟨a, b⟩; simp only [PG_CNT] at b; rcases h with h | h | h
      · exact h a
      · omega
      · omega
    · rintro ⟨a, b⟩; simp only [PG_CNT] at b; rcases h with h | h | h
      · exact h a
      · omega
      · omega

end Sys2Proof.Machine
end

