-- ==== Sys2Proof/Laws/Sound.lean ====
section
/-! SUPPORT. What every operation keeps: the canonical forms, the queue, the fuses. -/

namespace Sys2Proof.Machine
open Sys2Proof
set_option linter.unreachableTactic false
set_option linter.unusedTactic false

/-- t keeps the canonical forms that s has, and what no command touches. -/
def Sound (s t : State) : Prop := (Inv s → Inv t) ∧ Kept s t

theorem Kept.same {s t : State} (hp : t.pending = s.pending) (hf : t.mgmt.fuses = s.mgmt.fuses) : Kept s t := by
  refine ⟨hp, ?_, ?_, ?_⟩
  · rw [hf]
  · rw [hf, BitVec.or_self]
  · rw [hf, BitVec.or_self]

/-- Bits burned stay burned. -/
theorem burn_trans {n : Nat} {a b c : BitVec n} (h : a ||| b = b) (k : b ||| c = c) : a ||| c = c := by
  rw [← k, ← BitVec.or_assoc, h]

theorem Sound.refl (s : State) : Sound s s := ⟨id, Kept.same rfl rfl⟩

theorem Sound.trans {s t u : State} (a : Sound s t) (b : Sound t u) : Sound s u := by
  obtain ⟨ia, pa, fa, wa, ca⟩ := a
  obtain ⟨ib, pb, fb, wb, cb⟩ := b
  refine ⟨fun h => ib (ia h), pb.trans pa, ?_, burn_trans wa wb, burn_trans ca cb⟩
  rw [fb, fa]

/-- The log's header is kept in the PSRAM: the fuses are as before. -/
@[simp] theorem Mgmt.putHeader_fuses (m : Mgmt) : m.putHeader.fuses = m.fuses := by
  unfold Mgmt.putHeader; rfl

@[simp] theorem Mgmt.openLog_fuses (m : Mgmt) : m.openLog.fuses = m.fuses := rfl

theorem burned_burnTo (x : W64) (n : Nat) : x ||| burnTo x n = burnTo x n := by
  unfold burnTo
  split
  · exact BitVec.or_self
  · rw [← BitVec.or_assoc, BitVec.or_self]

/-- A change of the other fields. -/
theorem Sound.set {s t u : State} (h : Sound s t) (hq : u.pending = t.pending) (hm : u.mem = t.mem) (hr : u.regs = t.regs)
    (hl : u.loft = t.loft) (hf : u.mgmt.fuses = t.mgmt.fuses) : Sound s u := by
  refine h.trans ⟨fun i => ?_, Kept.same hq hf⟩
  rw [Inv, hm, hr, hl]; exact i

/-- A record update of the other fields. -/
theorem Sound.upd {s t : State} {high info cores mesh ports arbs patrol power host mgmt pins free} (h : Sound s t)
    (hf : mgmt.fuses = t.mgmt.fuses) :
    Sound s ⟨t.pending, t.regs, high, info, cores, t.mem, t.loft, mesh, ports, arbs, patrol, power, host, mgmt, pins, free⟩ :=
  h.set rfl rfl rfl rfl hf

theorem Sound.regs {s t : State} (h : Sound s t) (r : List (Nat × W32)) (hr : smWf regReset t.regs = true → smWf regReset r = true) :
    Sound s { t with regs := r } :=
  h.trans ⟨fun i => ⟨i.1, hr i.2.1, i.2.2⟩, Kept.same rfl rfl⟩

theorem Sound.loft {s t : State} (h : Sound s t) (l : List (Nat × W64)) (hl : smWf zeroEntry t.loft = true → smWf zeroEntry l = true) :
    Sound s { t with loft := l } :=
  h.trans ⟨fun i => ⟨i.1, i.2.1, hl i.2.2⟩, Kept.same rfl rfl⟩

theorem Sound.mem {s t : State} (h : Sound s t) (m : Mem) (hm : t.mem.wf = true → m.wf = true) : Sound s { t with mem := m } :=
  h.trans ⟨fun i => ⟨hm i.1, i.2⟩, Kept.same rfl rfl⟩

theorem Sound.modMem {s t : State} (h : Sound s t) (f : Mem → Mem) (hf : ∀ m, m.wf = true → (f m).wf = true) : Sound s (t.modMem f) :=
  h.mem _ (hf _)

theorem Sound.modMgmt {s t : State} (h : Sound s t) (f : Mgmt → Mgmt) (hf : ∀ m, (f m).fuses = m.fuses) : Sound s (t.modMgmt f) :=
  h.set rfl rfl rfl rfl (hf _)

theorem Sound.foldl {s : State} {β : Type} {f : State → β → State} (hf : ∀ t b, Sound s t → Sound s (f t b)) (l : List β) {t : State}
    (h : Sound s t) : Sound s (l.foldl f t) := foldl_keeps (Sound s) f hf l t h

theorem Sound.foldl_fst {s : State} {α β : Type} {f : State × α → β → State × α} (hf : ∀ t b, Sound s t.1 → Sound s (f t b).1)
    (l : List β) {t : State × α} (h : Sound s t.1) : Sound s (l.foldl f t).1 := foldl_keeps (fun t => Sound s t.1) f hf l t h

theorem Sound.forRange {s : State} {f : Nat → State → State} (hf : ∀ i t, Sound s t → Sound s (f i t)) (n : Nat) {t : State}
    (h : Sound s t) : Sound s (Machine.forRange n f t) := forRange_keeps (Sound s) n f hf t h

theorem Sound.of_pair {s a : State} {α : Type} {b : α} {p : State × α} (e : p = (a, b)) (h : Sound s p.1) : Sound s a := by
  rw [e] at h; exact h

/-- A pair taken apart. -/
theorem Sound.ofPair {s : State} {α : Type} {f : State → α → State} (p : State × α) (h : Sound s p.1)
    (hf : ∀ u a, Sound s u → Sound s (f u a)) : Sound s (match p with | (u, a) => f u a) := hf _ _ h

theorem Sound.ofPlace {s a b : State} {f : CelId → State} (p : Place) (ha : Sound s a) (hf : ∀ q, Sound s (f q)) (hb : Sound s b) :
    Sound s (match p with
      | .attic => a
      | .cellar q => f q
      | _ => b) := by
  cases p
  case attic => exact ha
  case cellar => exact hf _
  all_goals exact hb

theorem Sound.ofCellar {s b : State} {f : CelId → State} (p : Place) (hf : ∀ q, Sound s (f q)) (hb : Sound s b) :
    Sound s (match p with
      | .cellar q => f q
      | _ => b) := by
  cases p
  case cellar => exact hf _
  all_goals exact hb

theorem Sound.ofSto {s b : State} {f : CoreId → State} (p : Place) (hf : ∀ q, Sound s (f q)) (hb : Sound s b) :
    Sound s (match p with
      | .sto c => f c
      | _ => b) := by
  cases p
  case sto => exact hf _
  all_goals exact hb

theorem Sound.setReg {s t : State} (off : Nat) (v : W32) (h : Sound s t) : Sound s (State.setReg t off v) := by
  exact h.regs _ (smWf_set _ _ _ _)

theorem Sound.setPg {s t : State} (p : Page) (o : Nat) (v : W32) (h : Sound s t) : Sound s (State.setPg t p o v) := by
  unfold State.setPg
  repeat' with_reducible first
    | assumption | apply Sound.setReg

theorem Sound.setPg64 {s t : State} (p : Page) (o : Nat) (v : Nat) (h : Sound s t) : Sound s (State.setPg64 t p o v) := by
  unfold State.setPg64
  repeat' with_reducible first
    | assumption | apply Sound.setPg

theorem Sound.setField {s t : State} (p : Page) (o : Nat) (lo : Nat) (len : Nat) (v : Nat)
    (h : Sound s t) : Sound s (State.setField t p o lo len v) := by
  unfold State.setField
  repeat' with_reducible first
    | assumption | apply Sound.setPg

theorem Sound.bump {s t : State} (p : Page) (i : Nat) (n : Nat) (h : Sound s t) : Sound s (State.bump t p i n) := by
  unfold State.bump
  repeat' with_reducible first
    | assumption | apply Sound.setPg64 | split

theorem Sound.modCore {s t : State} (c : CoreId) (f : Core → Core) (h : Sound s t) : Sound s (State.modCore t c f) := by
  unfold State.modCore
  repeat' with_reducible first
    | assumption | fail_if_no_progress refine Sound.upd ?_ rfl

theorem Sound.modCtx {s t : State} (c : CoreId) (x : CtxId) (f : Ctx → Ctx) (h : Sound s t) : Sound s (State.modCtx t c x f) := by
  unfold State.modCtx
  repeat' with_reducible first
    | assumption | apply Sound.modCore | intro _

theorem Sound.modHost {s t : State} (f : HostIf → HostIf) (h : Sound s t) : Sound s (State.modHost t f) := by
  unfold State.modHost
  repeat' with_reducible first
    | assumption | fail_if_no_progress refine Sound.upd ?_ rfl

theorem Sound.replyAll {s t : State} (l : List Cpl) (h : Sound s t) : Sound s (State.replyAll t l) := by
  unfold State.replyAll
  repeat' with_reducible first
    | assumption | apply Sound.modHost | intro _ | fail_if_no_progress refine Sound.upd ?_ rfl

theorem Sound.reply {s t : State} (c : Cpl) (h : Sound s t) : Sound s (State.reply t c) := by
  unfold State.reply
  repeat' with_reducible first
    | assumption | apply Sound.replyAll

theorem Sound.modPower {s t : State} (f : Power → Power) (h : Sound s t) : Sound s (State.modPower t f) := by
  unfold State.modPower
  repeat' with_reducible first
    | assumption | fail_if_no_progress refine Sound.upd ?_ rfl

theorem Sound.modPort {s t : State} (i : PortId) (f : Port → Port) (h : Sound s t) : Sound s (State.modPort t i f) := by
  unfold State.modPort
  repeat' with_reducible first
    | assumption | fail_if_no_progress refine Sound.upd ?_ rfl

theorem Sound.sendVector {s t : State} (f : FnId) (v : Nat) (h : Sound s t) : Sound s (State.sendVector t f v) := by
  unfold State.sendVector
  repeat' with_reducible first
    | assumption | apply Sound.bump | apply Sound.modHost | intro _ | extract_lets | fail_if_no_progress refine Sound.upd ?_ rfl | split

theorem Sound.deliver {s t : State} (n : Nat) (h : Sound s t) : Sound s (State.deliver t n) := by
  unfold State.deliver
  repeat' with_reducible first
    | assumption | apply Sound.sendVector | extract_lets | split

theorem Sound.rise {s t : State} (before : State) (n : Nat) (h : Sound s t) : Sound s (State.rise before t n) := by
  unfold State.rise
  repeat' with_reducible first
    | assumption | apply Sound.deliver | apply hbefore | split

theorem Sound.event {s t : State} (p : Page) (b : Nat) (h : Sound s t) : Sound s (State.event t p b) := by
  unfold State.event
  repeat' with_reducible first
    | assumption | apply Sound.setField | apply Sound.rise

theorem Sound.forward {s t : State} (l : LogSrc) (h : Sound s t) : Sound s (State.forward t l) := by
  unfold State.forward
  repeat' with_reducible first
    | assumption | refine Sound.modMgmt ?_ _ (fun _ => ?_) | rfl | intro _ | fail_if_no_progress refine Sound.upd ?_ rfl | split

theorem Sound.putCode {s t : State} (p : Page) (r : Rec) (h : Sound s t) : Sound s (State.putCode t p r) := by
  unfold State.putCode
  repeat' with_reducible first
    | assumption | apply Sound.setPg | apply Sound.forward | extract_lets

theorem Sound.record {s t : State} (p : Page) (r : Rec) (h : Sound s t) : Sound s (State.record t p r) := by
  unfold State.record
  repeat' with_reducible first
    | assumption | apply Sound.event | apply Sound.putCode

theorem Sound.recordFault {s t : State} (p : Page) (r : Rec) (h : Sound s t) : Sound s (State.recordFault t p r) := by
  unfold State.recordFault
  repeat' with_reducible first
    | assumption | apply Sound.event | apply Sound.putCode

theorem Sound.recordBehind {s t : State} (p : Page) (r : Rec) (h : Sound s t) : Sound s (State.recordBehind t p r) := by
  unfold State.recordBehind
  repeat' with_reducible first
    | assumption | apply Sound.event | apply Sound.forward

theorem Sound.randomBytes {s t : State} (n : Nat) (h : Sound s t) : Sound s (State.randomBytes t n).2 := by
  unfold State.randomBytes
  repeat' with_reducible first
    | assumption | intro _ | fail_if_no_progress refine Sound.upd ?_ rfl

theorem Sound.modIsland {s t : State} (c : CoreId) (f : Island → Island) (h : Sound s t) : Sound s (State.modIsland t c f) := by
  unfold State.modIsland
  repeat' with_reducible first
    | assumption | apply Sound.modCore | intro _ | fail_if_no_progress refine Sound.upd ?_ rfl

theorem Sound.restoreVar {s t : State} (c : CoreId) (h : Sound s t) : Sound s (State.restoreVar t c) := by
  unfold State.restoreVar
  repeat' with_reducible first
    | assumption | apply Sound.modIsland | intro _ | fail_if_no_progress refine Sound.upd ?_ rfl | split

theorem Sound.stoWrite {s t : State} (c : CoreId) (off : Nat) (l : List (Byte × Bool))
    (h : Sound s t) : Sound s (State.stoWrite t c off l) := by
  exact h.modMem _ fun m => Mem.wf_write m _ _ _

theorem Sound.stoPut {s t : State} (c : CoreId) (off : Nat) (l : List Byte) (h : Sound s t) : Sound s (State.stoPut t c off l) := by
  unfold State.stoPut
  repeat' with_reducible first
    | assumption | apply Sound.stoWrite | refine Sound.of_pair (by assumption) ?_ | intro _

theorem Sound.setStoWord {s t : State} (c : CoreId) (w : Nat) (x : StoWord) (h : Sound s t) : Sound s (State.setStoWord t c w x) := by
  exact h.modMem _ fun m => Mem.wf_setWord m _ _

theorem Sound.countAccess {s t : State} (a : Nat) (n : Nat) (i : Nat) (h : Sound s t) : Sound s (State.countAccess t a n i) := by
  unfold State.countAccess
  repeat' with_reducible first
    | assumption | apply Sound.bump | fail_if_no_progress refine Sound.upd ?_ rfl | split

theorem Sound.countRun {s t : State} (a : Nat) (n : Nat) (i : Nat) (h : Sound s t) : Sound s (State.countRun t a n i) := by
  unfold State.countRun
  repeat' with_reducible first
    | assumption | exact Sound.refl _ | apply Sound.countAccess | apply Sound.forRange | intro _ | extract_lets | split

theorem Sound.countPoison {s t : State} (a : Nat) (n : Nat) (h : Sound s t) : Sound s (State.countPoison t a n) := by
  unfold State.countPoison
  repeat' with_reducible first
    | assumption | apply Sound.bump | intro _ | fail_if_no_progress refine Sound.upd ?_ rfl | split

theorem Sound.countRead {s t : State} (a : Nat) (n : Nat) (h : Sound s t) : Sound s (State.countRead t a n) := by
  unfold State.countRead
  repeat' with_reducible first
    | assumption | exact Sound.refl _ | apply Sound.countAccess | apply Sound.countPoison | apply Sound.forRange | intro _
    | extract_lets | split

theorem Sound.countMerge {s t : State} (a : Nat) (n : Nat) (h : Sound s t) : Sound s (State.countMerge t a n) := by
  unfold State.countMerge
  repeat' with_reducible first
    | assumption | apply Sound.bump | intro _ | fail_if_no_progress refine Sound.upd ?_ rfl | split

theorem Sound.pkgWrite {s t : State} (k : Nat) (a : Nat) (l : List (Byte × Bool))
    (h : Sound s t) : Sound s (State.pkgWrite t k a l) := by
  exact ((h.countMerge _ _).modMem _ fun m => Mem.wf_write m _ _ _).countAccess _ _ _

theorem Sound.touch {s t : State} (c : CoreId) (h : Sound s t) : Sound s (State.touch t c) := by
  unfold State.touch
  repeat' with_reducible first
    | assumption | apply Sound.modCore | intro _ | fail_if_no_progress refine Sound.upd ?_ rfl

theorem Sound.coreWrite {s t : State} (c : CoreId) (k : Nat) (a : Nat) (l : List (Byte × Bool))
    (h : Sound s t) : Sound s (State.coreWrite t c k a l) := by
  unfold State.coreWrite
  repeat' with_reducible first
    | assumption | apply Sound.pkgWrite | apply Sound.touch | extract_lets | fail_if_no_progress refine Sound.upd ?_ rfl | split

theorem Sound.setLoft {s t : State} (k : Nat) (x : Entry) (h : Sound s t) : Sound s (State.setLoft t k x) := by
  exact h.loft _ (smWf_set _ _ _ _)

theorem Sound.setSlotSat {s t : State} (c : CoreId) (u : Nat) (slot : Nat) (on : Bool)
    (h : Sound s t) : Sound s (State.setSlotSat t c u slot on) := by
  unfold State.setSlotSat
  repeat' with_reducible first
    | assumption | apply Sound.setField

theorem Sound.clearLoft {s t : State} (c : CoreId) (h : Sound s t) : Sound s (State.clearLoft t c) := by
  exact h.loft _ (smWf_filter _ _ _)

theorem Sound.deliverPairs {s t : State} (c : CoreId) (u : Nat) (cnt : Nat) (slot : Nat) (engines : List Nat) (vecs : List Vec)
    (ovr : Bool) (pairs : Nat → Vec → Nat → List Pair) (h : Sound s t)
    : Sound s (State.deliverPairs t c u cnt slot engines vecs ovr pairs).1 := by
  refine Sound.foldl_fst (fun a e ha => ?_) _ h
  refine Sound.foldl_fst (fun a b ha => ?_) _ ha
  obtain ⟨v, m⟩ := b
  refine Sound.foldl_fst (fun a n ha => ?_) _ ha
  obtain ⟨u, sat⟩ := a
  dsimp only
  generalize Entry.takeAll _ _ _ _ = p
  exact ha.setLoft _ _

theorem Sound.fillEntries {s t : State} (c : CoreId) (u : Nat) (cnt : Nat) (slot : Nat) (engines : List Nat) (m : Nat) (x : Entry)
    (h : Sound s t) : Sound s (State.fillEntries t c u cnt slot engines m x) := by
  unfold State.fillEntries
  repeat' with_reducible first
    | assumption | exact Sound.refl _ | apply Sound.setLoft | apply Sound.foldl | apply Sound.foldl_fst | apply Sound.forRange | intro _

theorem Sound.drainRestore {s t : State} (o : DrainOp) (add : Bool) (h : Sound s t) : Sound s (Machine.drainRestore t o add).1 := by
  unfold Machine.drainRestore
  repeat' with_reducible first
    | assumption | exact Sound.refl _ | apply Sound.setLoft | refine Sound.of_pair (by assumption) ?_ | apply Sound.foldl
    | apply Sound.foldl_fst | intro _ | extract_lets | split

theorem Sound.countSync {s t : State} (c : CoreId) (h : Sound s t) : Sound s (State.countSync t c) := by
  unfold State.countSync
  repeat' with_reducible first
    | assumption | apply Sound.bump

theorem Sound.putSync {s t : State} (c : CoreId) (word : Nat) (w : SyncWord) (h : Sound s t) : Sound s (State.putSync t c word w) := by
  unfold State.putSync
  repeat' with_reducible first
    | assumption | apply Sound.setStoWord | extract_lets

theorem Sound.dropWaits {s t : State} (c : CoreId) (ws : List Wait) (h : Sound s t) : Sound s (State.dropWaits t c ws) := by
  unfold State.dropWaits
  repeat' with_reducible first
    | assumption | apply Sound.modCore | intro _ | fail_if_no_progress refine Sound.upd ?_ rfl

theorem Sound.retire {s t : State} (c : CoreId) (uid : Nat) (h : Sound s t) : Sound s (State.retire t c uid) := by
  unfold State.retire
  repeat' with_reducible first
    | assumption | apply Sound.modCore | intro _ | fail_if_no_progress refine Sound.upd ?_ rfl

theorem Sound.inject {s t : State} (src : BayId) (f : MeshFlit) (h : Sound s t) : Sound s (State.inject t src f) := by
  unfold State.inject
  repeat' with_reducible first
    | assumption | intro _ | extract_lets | fail_if_no_progress refine Sound.upd ?_ rfl

theorem Sound.carry {s t : State} (src : BayId) (dst : BayId) (answered : Bool)
    (h : Sound s t) : Sound s (State.carry t src dst answered) := by
  unfold State.carry
  repeat' with_reducible first
    | assumption | apply Sound.inject | split

theorem Sound.postRemote {s t : State} (c : CoreId) (x : CtxId) (t' : SigTarget) (n : Nat) (dec : Bool) (job : Option Job)
    (h : Sound s t) : Sound s (State.postRemote t c x t' n dec job).1 := by
  unfold State.postRemote
  repeat' with_reducible first
    | assumption | apply Sound.modCore | apply Sound.inject | intro _ | extract_lets | fail_if_no_progress refine Sound.upd ?_ rfl

theorem Sound.released {s t : State} {post : State → CtxId → SigTarget → State} (hp : ∀ u x g, Sound s u → Sound s (post u x g))
    (c : CoreId) (w : Wait) (h : Sound s t) : Sound s (State.released post t c w) := by
  unfold State.released
  repeat' first
    | with_reducible apply hp
    | with_reducible assumption
    | with_reducible exact Sound.refl _
    | with_reducible apply Sound.modCtx
    | with_reducible apply Sound.retire
    | with_reducible refine Sound.of_pair (by assumption) ?_
    | with_reducible apply Sound.foldl
    | with_reducible apply Sound.foldl_fst
    | with_reducible apply Sound.forRange
    | with_reducible intro _
    | with_reducible extract_lets
    | with_reducible fail_if_no_progress refine Sound.upd ?_ rfl
    | with_reducible split

theorem Sound.releaseLoop {s t : State} (c : CoreId) (word : Nat) (n : Nat)
    (h : Sound s t) : Sound s (State.releaseLoop t c word n).1 := by
  unfold State.releaseLoop
  repeat' with_reducible first
    | assumption | apply Sound.dropWaits | refine Sound.of_pair (by assumption) ?_ | extract_lets | split

theorem Sound.syncSignal {s : State} (f : Nat) : ∀ {t : State} (c : CoreId) (word : Nat) (n : Nat) (g : W16),
    Sound s t → Sound s (State.syncSignal f t c word n g) := by
  induction f with
  | zero => intro t c word n g h; exact h
  | succ f ih =>
    intro t c word n g h
    unfold State.syncSignal
    repeat' first
      | with_reducible apply ih
      | with_reducible assumption
      | with_reducible exact Sound.refl _
      | with_reducible apply Sound.bump
      | with_reducible apply Sound.countSync
      | with_reducible apply Sound.putSync
      | with_reducible apply Sound.postRemote
      | with_reducible apply Sound.released
      | with_reducible apply Sound.releaseLoop
      | with_reducible refine Sound.of_pair (by assumption) ?_
      | with_reducible apply Sound.foldl
      | with_reducible apply Sound.foldl_fst
      | with_reducible apply Sound.forRange
      | with_reducible intro _
      | with_reducible extract_lets
      | with_reducible fail_if_no_progress refine Sound.upd ?_ rfl
      | with_reducible split

theorem Sound.applySignal {s t : State} (c : CoreId) (word : Nat) (n : Nat) (g : W16)
    (h : Sound s t) : Sound s (State.applySignal t c word n g) := by
  unfold State.applySignal
  repeat' with_reducible first
    | assumption | apply Sound.syncSignal

theorem Sound.signal {s t : State} (c : CoreId) (x : CtxId) (t' : SigTarget) (n : Nat) (job : Option Job)
    (h : Sound s t) : Sound s (State.signal t c x t' n job) := by
  unfold State.signal
  repeat' with_reducible first
    | assumption | apply Sound.postRemote | apply Sound.applySignal | split

theorem Sound.rerunQueue {s t : State} (c : CoreId) (word : Nat) (tmo : Bool)
    (h : Sound s t) : Sound s (State.rerunQueue t c word tmo) := by
  unfold State.rerunQueue
  repeat' with_reducible first
    | assumption | exact Sound.refl _ | apply Sound.countSync | apply Sound.putSync | apply Sound.released | apply Sound.releaseLoop
    | apply Sound.signal | refine Sound.of_pair (by assumption) ?_ | apply Sound.foldl | apply Sound.foldl_fst | intro _ | extract_lets
    | fail_if_no_progress refine Sound.upd ?_ rfl | split

theorem Sound.applyDecrement {s t : State} (c : CoreId) (word : Nat) (m : Nat) (g : W16)
    (h : Sound s t) : Sound s (State.applyDecrement t c word m g).1 := by
  unfold State.applyDecrement
  repeat' with_reducible first
    | assumption | apply Sound.countSync | apply Sound.putSync | extract_lets | fail_if_no_progress refine Sound.upd ?_ rfl | split

theorem Sound.enqueueWait {s t : State} (c : CoreId) (w : Wait) (h : Sound s t) : Sound s (State.enqueueWait t c w) := by
  unfold State.enqueueWait
  repeat' with_reducible first
    | assumption | apply Sound.bump | apply Sound.modCore | apply Sound.modCtx | intro _ | extract_lets
    | fail_if_no_progress refine Sound.upd ?_ rfl

theorem Sound.waitWord {s t : State} (c : CoreId) (w : Wait) (h : Sound s t) : Sound s (State.waitWord t c w).1 := by
  unfold State.waitWord
  repeat' with_reducible first
    | assumption | apply Sound.countSync | apply Sound.putSync | apply Sound.enqueueWait | extract_lets
    | fail_if_no_progress refine Sound.upd ?_ rfl | split

theorem Sound.setArr {s t : State} (l : LineId) (v : Nat) (h : Sound s t) : Sound s (State.setArr t l v) := by
  unfold State.setArr
  repeat' with_reducible first
    | assumption | apply Sound.setPg64

theorem Sound.arrive {s t : State} (l : LineId) (c : CoreId) (on : Bool) (h : Sound s t) : Sound s (State.arrive t l c on) := by
  unfold State.arrive
  repeat' with_reducible first
    | assumption | apply Sound.setArr | extract_lets | split

theorem Sound.leaveLine {s t : State} (c : CoreId) (l : LineId) (h : Sound s t) : Sound s (State.leaveLine t c l) := by
  unfold State.leaveLine
  repeat' with_reducible first
    | assumption | apply Sound.arrive | intro _ | split

theorem Sound.writeSegs {s t : State} (c : CoreId) (segs : List OutSeg) (h : Sound s t) : Sound s (State.writeSegs t c segs) := by
  unfold State.writeSegs
  repeat' with_reducible first
    | assumption | exact Sound.refl _ | apply Sound.coreWrite | apply Sound.foldl | apply Sound.foldl_fst | intro _ | split

theorem Sound.captureSummaries {s t : State} (c : CoreId) (u : Nat) (j : Job)
    (h : Sound s t) : Sound s (State.captureSummaries t c u j) := by
  unfold State.captureSummaries
  repeat' with_reducible first
    | assumption | apply Sound.stoPut | refine Sound.of_pair (by assumption) ?_ | fail_if_no_progress refine Sound.upd ?_ rfl | split

theorem Sound.present {s t : State} (c : CoreId) (h : Sound s t) : Sound s (State.present t c) := by
  unfold State.present
  repeat' with_reducible first
    | assumption | apply Sound.writeSegs | intro _ | extract_lets | fail_if_no_progress refine Sound.upd ?_ rfl

theorem Sound.foundFault {s t : State} (c : CoreId) (x : CtxId) (r : Rec) (off : Nat) (w : Option Cmd)
    (h : Sound s t) : Sound s (State.foundFault t c x r off w) := by
  unfold State.foundFault
  repeat' with_reducible first
    | assumption | apply Sound.modCtx | intro _ | fail_if_no_progress refine Sound.upd ?_ rfl

theorem Sound.stopCore {s t : State} (c : CoreId) (u : Nat) (r : Rec) (h : Sound s t) : Sound s (State.stopCore t c u r) := by
  unfold State.stopCore
  repeat' with_reducible first
    | assumption | apply Sound.modCore | apply Sound.recordFault | intro _ | extract_lets | fail_if_no_progress refine Sound.upd ?_ rfl
    | split

theorem Sound.retellFault {s t : State} (c : CoreId) (u : Nat) (r : Rec) (h : Sound s t) : Sound s (State.retellFault t c u r) := by
  unfold State.retellFault
  repeat' with_reducible first
    | assumption | apply Sound.setPg | apply Sound.modCore | refine Sound.modMgmt ?_ _ (fun _ => ?_) | rfl | intro _ | extract_lets
    | fail_if_no_progress refine Sound.upd ?_ rfl | split

theorem Sound.coreFault {s t : State} (c : CoreId) (u : Nat) (r : Rec) (h : Sound s t) : Sound s (State.coreFault t c u r) := by
  unfold State.coreFault
  repeat' with_reducible first
    | assumption | apply Sound.present | apply Sound.stopCore | apply Sound.retellFault | split

theorem Sound.setPc {s t : State} (c : CoreId) (x : CtxId) (v : Nat) (h : Sound s t) : Sound s (State.setPc t c x v) := by
  unfold State.setPc
  repeat' with_reducible first
    | assumption | apply Sound.setPg

theorem Sound.stepPc {s t : State} (c : CoreId) (x : CtxId) (off : Nat) (h : Sound s t) : Sound s (State.stepPc t c x off) := by
  unfold State.stepPc
  repeat' with_reducible first
    | assumption | apply Sound.modCtx | apply Sound.setPc | refine Sound.of_pair (by assumption) ?_ | intro _ | extract_lets
    | fail_if_no_progress refine Sound.upd ?_ rfl | split

theorem Sound.countIssue {s t : State} (c : CoreId) (x : CtxId) (unit : Nat)
    (h : Sound s t) : Sound s (State.countIssue t c x unit) := by
  unfold State.countIssue
  repeat' with_reducible first
    | assumption | apply Sound.bump | apply Sound.modCore | apply Sound.modCtx | intro _ | extract_lets
    | fail_if_no_progress refine Sound.upd ?_ rfl | split

theorem Sound.complete {s t : State} (c : CoreId) (j : Job) (h : Sound s t) : Sound s (State.complete t c j) := by
  unfold State.complete
  repeat' with_reducible first
    | assumption | apply Sound.retire | apply Sound.signal | extract_lets | fail_if_no_progress refine Sound.upd ?_ rfl | split

theorem Sound.enqueue {s t : State} (c : CoreId) (u : Nat) (j : Job) (h : Sound s t) : Sound s (State.enqueue t c u j) := by
  unfold State.enqueue
  repeat' with_reducible first
    | assumption | apply Sound.modCore | intro _ | fail_if_no_progress refine Sound.upd ?_ rfl | split

theorem Sound.holdCtx {s t : State} (c : CoreId) (x : CtxId) (h' : Hold) (h : Sound s t) : Sound s (State.holdCtx t c x h') := by
  unfold State.holdCtx
  repeat' with_reducible first
    | assumption | apply Sound.modCtx | intro _ | fail_if_no_progress refine Sound.upd ?_ rfl

theorem Sound.unholdCtx {s t : State} (c : CoreId) (x : CtxId) (h : Sound s t) : Sound s (State.unholdCtx t c x) := by
  unfold State.unholdCtx
  repeat' with_reducible first
    | assumption | apply Sound.modCtx | intro _ | fail_if_no_progress refine Sound.upd ?_ rfl

theorem Sound.setRerun {s t : State} (c : CoreId) (j : Job) (pooled : Bool) (taken : Bool) (fault : Bool) (value : Nat)
    (h : Sound s t) : Sound s (State.setRerun t c j pooled taken fault value) := by
  unfold State.setRerun
  repeat' with_reducible first
    | assumption | apply Sound.setPg | split

theorem Sound.rerunSnap {s t : State} (c : CoreId) (j : Job) (h : Sound s t) : Sound s (State.rerunSnap t c j) := by
  unfold State.rerunSnap
  repeat' with_reducible first
    | assumption | apply Sound.setPg | extract_lets | split

theorem Sound.rerunOutcome {s t : State} (c : CoreId) (j : Job) (value : Nat) (pooled : Bool) (go : State → State)
    (hgo : ∀ u, Sound s u → Sound s (go u)) (h : Sound s t)
    : Sound s (State.rerunOutcome t c j value pooled go) := by
  unfold State.rerunOutcome
  repeat' with_reducible first
    | assumption | apply Sound.retire | apply Sound.foundFault | apply Sound.setPc | apply Sound.stepPc | apply Sound.complete
    | apply Sound.setRerun | apply hgo | extract_lets | split

theorem Sound.rerunRun {s t : State} (c : CoreId) (j : Job) (h : Sound s t) : Sound s (State.rerunRun t c j) := by
  unfold State.rerunRun
  repeat' with_reducible first
    | assumption | apply Sound.bump | apply Sound.enqueueWait | apply Sound.arrive | apply Sound.unholdCtx | apply Sound.rerunSnap
    | apply Sound.rerunOutcome | intro _ | extract_lets | split

theorem Sound.haltDone {s t : State} (c : CoreId) (j : Job) (code : W16) (h : Sound s t) : Sound s (State.haltDone t c j code) := by
  unfold State.haltDone
  repeat' with_reducible first
    | assumption | apply Sound.setPg | apply Sound.modCtx | apply Sound.event | apply Sound.complete | intro _ | extract_lets
    | fail_if_no_progress refine Sound.upd ?_ rfl

theorem Sound.resetDone {s t : State} (c : CoreId) (x : CtxId) (h : Sound s t) : Sound s (State.resetDone t c x) := by
  unfold State.resetDone
  repeat' with_reducible first
    | assumption | apply Sound.setPg | apply Sound.modCtx | intro _ | fail_if_no_progress refine Sound.upd ?_ rfl

theorem Sound.dropHalted {s t : State} (c : CoreId) (x : CtxId) (h : Sound s t) : Sound s (State.dropHalted t c x) := by
  unfold State.dropHalted
  repeat' with_reducible first
    | assumption | apply Sound.modCore | intro _ | extract_lets | fail_if_no_progress refine Sound.upd ?_ rfl | split

theorem Sound.coreResetDone {s t : State} (c : CoreId) (h : Sound s t) : Sound s (State.coreResetDone t c) := by
  have k {u : State} (h : Sound s u) :
      Sound s { u with regs := u.regs.filter (fun e => !coreBlockReg c e.1), loft := u.loft.filter (fun e => e.1 / (9 * 8 * 8192) != c.val) } :=
    h.trans ⟨fun i => ⟨i.1, smWf_filter _ _ _ i.2.1, smWf_filter _ _ _ i.2.2⟩, Kept.same rfl rfl⟩
  unfold State.coreResetDone
  repeat' first
    | with_reducible apply k
    | with_reducible assumption
    | with_reducible exact Sound.refl _
    | with_reducible apply Sound.setPg
    | with_reducible apply Sound.modCore
    | with_reducible apply Sound.modPower
    | with_reducible apply Sound.restoreVar
    | with_reducible apply Sound.arrive
    | with_reducible apply Sound.present
    | with_reducible refine Sound.of_pair (by assumption) ?_
    | with_reducible apply Sound.foldl
    | with_reducible apply Sound.foldl_fst
    | with_reducible apply Sound.forRange
    | with_reducible intro _
    | with_reducible extract_lets
    | with_reducible fail_if_no_progress refine Sound.upd ?_ rfl
    | with_reducible split

theorem Sound.settleCtx {s t : State} (c : CoreId) (x : CtxId) (h : Sound s t) : Sound s (State.settleCtx t c x).1 := by
  unfold State.settleCtx
  repeat' with_reducible first
    | assumption | apply Sound.complete | apply Sound.unholdCtx | apply Sound.rerunRun | apply Sound.haltDone | apply Sound.resetDone
    | apply Sound.dropHalted | refine Sound.of_pair (by assumption) ?_ | intro _ | split | dsimp only
    | fail_if_no_progress refine Sound.upd ?_ rfl

theorem Sound.startFin {s t : State} (c : CoreId) (h : Sound s t) : Sound s (State.startFin t c).1 := by
  unfold State.startFin
  repeat' with_reducible first
    | assumption | apply Sound.modCore | refine Sound.of_pair (by assumption) ?_ | intro _ | extract_lets
    | fail_if_no_progress refine Sound.upd ?_ rfl | split

theorem Sound.settleOnce {s t : State} (c : CoreId) (h : Sound s t) : Sound s (State.settleOnce t c).1 := by
  unfold State.settleOnce
  repeat' with_reducible first
    | assumption | exact Sound.refl _ | apply Sound.settleCtx | apply Sound.startFin | refine Sound.of_pair (by assumption) ?_
    | apply Sound.foldl | apply Sound.foldl_fst | intro _ | extract_lets | split

theorem Sound.settleN {s : State} (f : Nat) : ∀ {t : State} (c : CoreId), Sound s t → Sound s (State.settleN f t c) := by
  induction f with
  | zero => intro t c h; exact h
  | succ f ih =>
    intro t c h
    unfold State.settleN
    repeat' first
      | with_reducible apply ih
      | with_reducible assumption
      | with_reducible exact Sound.refl _
      | with_reducible apply Sound.settleOnce
      | with_reducible refine Sound.of_pair (by assumption) ?_
      | with_reducible apply Sound.foldl
      | with_reducible apply Sound.foldl_fst
      | with_reducible apply Sound.forRange
      | with_reducible intro _
      | with_reducible extract_lets
      | with_reducible fail_if_no_progress refine Sound.upd ?_ rfl
      | with_reducible split

theorem Sound.settle {s t : State} (c : CoreId) (h : Sound s t) : Sound s (State.settle t c) := by
  unfold State.settle
  repeat' with_reducible first
    | assumption | apply Sound.coreResetDone | apply Sound.settleN | split

theorem Sound.issueSignal {s t : State} (c : CoreId) (j : Job) (h : Sound s t) : Sound s (State.issueSignal t c j) := by
  unfold State.issueSignal
  repeat' with_reducible first
    | assumption | apply Sound.retire | apply Sound.postRemote | apply Sound.applySignal | apply Sound.applyDecrement
    | apply Sound.foundFault | apply Sound.complete | apply Sound.holdCtx | refine Sound.of_pair (by assumption) ?_ | extract_lets
    | fail_if_no_progress refine Sound.upd ?_ rfl | split

theorem Sound.issueWait {s t : State} (c : CoreId) (j : Job) (h : Sound s t) : Sound s (State.issueWait t c j) := by
  unfold State.issueWait
  repeat' with_reducible first
    | assumption | apply Sound.waitWord | apply Sound.complete | refine Sound.of_pair (by assumption) ?_ | extract_lets | split

theorem Sound.issueBarrier {s t : State} (c : CoreId) (j : Job) (h : Sound s t) : Sound s (State.issueBarrier t c j) := by
  unfold State.issueBarrier
  repeat' with_reducible first
    | assumption | apply Sound.bump | apply Sound.enqueueWait | apply Sound.arrive | apply Sound.complete
    | refine Sound.of_pair (by assumption) ?_ | intro _ | extract_lets | split

theorem Sound.issueFence {s t : State} (c : CoreId) (j : Job) (h : Sound s t) : Sound s (State.issueFence t c j) := by
  unfold State.issueFence
  repeat' with_reducible first
    | assumption | apply Sound.complete | apply Sound.holdCtx | intro _ | extract_lets | split

theorem Sound.issueLoop {s t : State} (c : CoreId) (j : Job) (v : Nat) (h : Sound s t) : Sound s (State.issueLoop t c j v) := by
  unfold State.issueLoop
  repeat' with_reducible first
    | assumption | apply Sound.modCtx | apply Sound.setPc | apply Sound.complete | intro _ | extract_lets
    | fail_if_no_progress refine Sound.upd ?_ rfl | split

theorem Sound.issueJump {s t : State} (c : CoreId) (j : Job) (h : Sound s t) : Sound s (State.issueJump t c j) := by
  unfold State.issueJump
  repeat' with_reducible first
    | assumption | apply Sound.modCtx | apply Sound.setPc | apply Sound.complete | intro _ | extract_lets
    | fail_if_no_progress refine Sound.upd ?_ rfl

theorem Sound.noteBuild {s t : State} (c : CoreId) (j : Job) (h : Sound s t) : Sound s (State.noteBuild t c j) := by
  unfold State.noteBuild
  repeat' with_reducible first
    | assumption | apply Sound.modCore | intro _ | extract_lets | fail_if_no_progress refine Sound.upd ?_ rfl | split

theorem Sound.endRsignal {s t : State} (c : CoreId) (q : QId) (r : DmaRun) (rec_ : Rec)
    (h : Sound s t) : Sound s (State.endRsignal t c q r rec_) := by
  unfold State.endRsignal
  repeat' with_reducible first
    | assumption | apply Sound.modCore | apply Sound.record | intro _ | fail_if_no_progress refine Sound.upd ?_ rfl | split

theorem Sound.refuseRsignal {s t : State} (c : CoreId) (j : Job) (h : Sound s t) : Sound s (State.refuseRsignal t c j) := by
  unfold State.refuseRsignal
  repeat' with_reducible first
    | assumption | apply Sound.modCore | apply Sound.endRsignal | intro _ | extract_lets | fail_if_no_progress refine Sound.upd ?_ rfl

theorem Sound.accept {s t : State} (c : CoreId) (u : Nat) (j : Job) (h : Sound s t) : Sound s (State.accept t c u j) := by
  unfold State.accept
  repeat' with_reducible first
    | assumption | apply Sound.enqueue | apply Sound.refuseRsignal | split

theorem Sound.issueNow {s t : State} (c : CoreId) (x : CtxId) (w : Cmd) (d : Desc) (off : Nat)
    (h : Sound s t) : Sound s (State.issueNow t c x w d off) := by
  unfold State.issueNow
  repeat' with_reducible first
    | assumption | apply Sound.carry | apply Sound.stepPc | apply Sound.countIssue | apply Sound.complete | apply Sound.holdCtx
    | apply Sound.issueSignal | apply Sound.issueWait | apply Sound.issueBarrier | apply Sound.issueFence | apply Sound.issueLoop
    | apply Sound.issueJump | apply Sound.noteBuild | apply Sound.accept | extract_lets | fail_if_no_progress refine Sound.upd ?_ rfl
    | split

theorem Sound.issueLate {s t : State} (c : CoreId) (x : CtxId) (w : Cmd) (d : Desc) (off : Nat)
    (h : Sound s t) : Sound s (State.issueLate t c x w d off) := by
  unfold State.issueLate
  repeat' with_reducible first
    | assumption | apply Sound.foundFault | apply Sound.issueNow | fail_if_no_progress refine Sound.upd ?_ rfl | split

theorem Sound.preWait {s t : State} (c : CoreId) (x : CtxId) (w : Cmd) (d : Desc) (off : Nat)
    (h : Sound s t) : Sound s (State.preWait t c x w d off) := by
  unfold State.preWait
  repeat' with_reducible first
    | assumption | apply Sound.modCtx | apply Sound.waitWord | apply Sound.issueLate | intro _ | extract_lets
    | fail_if_no_progress refine Sound.upd ?_ rfl | split

theorem Sound.issueHead {s t : State} (c : CoreId) (x : CtxId) (w : Cmd) (bad : Option Nat)
    (h : Sound s t) : Sound s (State.issueHead t c x w bad) := by
  unfold State.issueHead
  repeat' with_reducible first
    | assumption | apply Sound.modCtx | apply Sound.foundFault | apply Sound.holdCtx | apply Sound.settle | apply Sound.issueLate
    | apply Sound.preWait | intro _ | split | dsimp only | fail_if_no_progress refine Sound.upd ?_ rfl

theorem Sound.startHead {s t : State} (c : CoreId) (u : Nat) (j : Job) (h : Sound s t) : Sound s (State.startHead t c u j) := by
  unfold State.startHead
  repeat' with_reducible first
    | assumption | apply Sound.modCore | intro _

theorem Sound.replaceJob {s t : State} (c : CoreId) (u : Nat) (j : Job) (h : Sound s t) : Sound s (State.replaceJob t c u j) := by
  unfold State.replaceJob
  repeat' with_reducible first
    | assumption | apply Sound.modCore | intro _ | extract_lets | split

theorem Sound.finishJob {s t : State} (c : CoreId) (u : Nat) (j : Job) (h : Sound s t) : Sound s (State.finishJob t c u j) := by
  unfold State.finishJob
  repeat' with_reducible first
    | assumption | apply Sound.modCore | apply Sound.complete | apply Sound.settle | intro _
    | fail_if_no_progress refine Sound.upd ?_ rfl

theorem Sound.consume {s t : State} (c : CoreId) (unit : Nat) (port : Nat) (j : Job) (f : State) (hf : Sound s f)
    (h : Sound s t) : Sound s (State.consume t c unit port j f) := by
  unfold State.consume
  repeat' with_reducible first
    | assumption | apply Sound.coreFault | apply hf | fail_if_no_progress refine Sound.upd ?_ rfl | split

theorem Sound.runPass {s t : State} (c : CoreId) (g : Nat) (j : Job) (p : Nat)
    (h : Sound s t) : Sound s (State.runPass t c g j p).1 := by
  unfold State.runPass
  repeat' with_reducible first
    | assumption | apply Sound.bump | apply Sound.setSlotSat | apply Sound.deliverPairs | apply Sound.fillEntries
    | refine Sound.of_pair (by assumption) ?_ | intro _ | extract_lets | split

theorem Sound.runStile {s t : State} (c : CoreId) (j : Job) (h : Sound s t) : Sound s (State.runStile t c j).1 := by
  unfold State.runStile
  repeat' with_reducible first
    | assumption | apply Sound.setSlotSat | apply Sound.deliverPairs | refine Sound.of_pair (by assumption) ?_ | intro _ | extract_lets
    | split

theorem Sound.passWork {s t : State} (c : CoreId) (u : Nat) (j : Job) (h : Sound s t) : Sound s (State.passWork t c u j).1 := by
  unfold State.passWork
  repeat' with_reducible first
    | assumption | apply Sound.fillEntries | apply Sound.runPass | apply Sound.runStile | refine Sound.of_pair (by assumption) ?_
    | split

theorem Sound.endPass {s t : State} (c : CoreId) (u : Nat) (j : Job) (h : Sound s t) : Sound s (State.endPass t c u j) := by
  unfold State.endPass
  repeat' with_reducible first
    | assumption | apply Sound.replaceJob | apply Sound.consume | apply Sound.passWork | extract_lets
    | fail_if_no_progress refine Sound.upd ?_ rfl | split

theorem Sound.stepPass {s t : State} (c : CoreId) (u : Nat) (h : Sound s t) : Sound s (State.stepPass t c u) := by
  unfold State.stepPass
  repeat' with_reducible first
    | assumption | apply Sound.endPass | extract_lets | fail_if_no_progress refine Sound.upd ?_ rfl | split

theorem Sound.freeBuf {s t : State} (c : CoreId) (u : Nat) (j : Job) (b : Nat) (h : Sound s t) : Sound s (State.freeBuf t c u j b) := by
  have k (v : State) (h : Sound s v) : Sound s (if ((v.core c).unit u).bufFree j b then v else v.stepPass c u) := by
    split
    · exact h
    · exact h.stepPass _ _
  exact k _ (k _ h)

theorem Sound.showPacking {s t : State} (c : CoreId) (j : Job) (h : Sound s t) : Sound s (State.showPacking t c j) := by
  unfold State.showPacking
  repeat' with_reducible first
    | assumption | apply Sound.setPg | apply Sound.bump | fail_if_no_progress refine Sound.upd ?_ rfl | split

theorem Sound.tileOver {s t : State} (c : CoreId) (u : Nat) (j : Job) (h : Sound s t) : Sound s (State.tileOver t c u j) := by
  unfold State.tileOver
  repeat' with_reducible first
    | assumption | apply Sound.bump | apply Sound.finishJob | apply Sound.showPacking | split

theorem Sound.stepOldest {s t : State} (c : CoreId) (u : Nat) (h : Sound s t) : Sound s (State.stepOldest t c u) := by
  unfold State.stepOldest
  repeat' with_reducible first
    | assumption | apply Sound.stepPass | split

theorem Sound.tileDone {s t : State} (c : CoreId) (u : Nat) (h : Sound s t) : Sound s (State.tileDone t c u) := by
  unfold State.tileDone
  repeat' with_reducible first
    | assumption | apply Sound.tileOver | apply Sound.stepOldest | split | dsimp only | fail_if_no_progress refine Sound.upd ?_ rfl

theorem Sound.setTable {s t : State} (c : CoreId) (g : Nat) (b : Nat) (t' : TableSet)
    (h : Sound s t) : Sound s (State.setTable t c g b t') := by
  unfold State.setTable
  repeat' with_reducible first
    | assumption | apply Sound.modCore | intro _ | fail_if_no_progress refine Sound.upd ?_ rfl

theorem Sound.highSweep {s t : State} (c : CoreId) (u : Nat) (j : Job) (h : Sound s t) : Sound s (State.highSweep t c u j) := by
  unfold State.highSweep
  repeat' with_reducible first
    | assumption | apply Sound.replaceJob | apply Sound.freeBuf | extract_lets | fail_if_no_progress refine Sound.upd ?_ rfl | split

theorem Sound.firstSweep {s t : State} (c : CoreId) (u : Nat) (j : Job) (h : Sound s t) : Sound s (State.firstSweep t c u j) := by
  unfold State.firstSweep
  repeat' with_reducible first
    | assumption | apply Sound.startHead | apply Sound.freeBuf | extract_lets | fail_if_no_progress refine Sound.upd ?_ rfl | split

theorem Sound.sweepStart {s t : State} (c : CoreId) (u : Nat) (h : Sound s t) : Sound s (State.sweepStart t c u) := by
  unfold State.sweepStart
  repeat' with_reducible first
    | assumption | apply Sound.consume | apply Sound.setTable | apply Sound.highSweep | apply Sound.firstSweep
    | fail_if_no_progress refine Sound.upd ?_ rfl | split

theorem Sound.buildDone {s t : State} (c : CoreId) (u : Nat) (h : Sound s t) : Sound s (State.buildDone t c u) := by
  unfold State.buildDone
  repeat' with_reducible first
    | assumption | apply Sound.bump | apply Sound.modCore | apply Sound.captureSummaries | apply Sound.finishJob | apply Sound.consume
    | apply Sound.setTable | intro _ | split | dsimp only | fail_if_no_progress refine Sound.upd ?_ rfl

theorem Sound.updateRecord {s t : State} (c : CoreId) (j : Job) (nEval : Nat) (nSkip : Nat)
    (h : Sound s t) : Sound s (State.updateRecord t c j nEval nSkip) := by
  unfold State.updateRecord
  repeat' with_reducible first
    | assumption | apply Sound.stoPut | refine Sound.of_pair (by assumption) ?_ | extract_lets | split

theorem Sound.evaluate {s t : State} (c : CoreId) (g : Nat) (h : Sound s t) : Sound s (State.evaluate t c g) := by
  unfold State.evaluate
  repeat' with_reducible first
    | assumption | apply Sound.bump | apply Sound.coreFault | apply Sound.replaceJob | apply Sound.updateRecord
    | refine Sound.of_pair (by assumption) ?_ | intro _ | extract_lets | fail_if_no_progress refine Sound.upd ?_ rfl | split

theorem Sound.countClips {s t : State} (c : CoreId) (tag : Nat) (n : Nat) (h : Sound s t) : Sound s (State.countClips t c tag n) := by
  unfold State.countClips
  repeat' with_reducible first
    | assumption | apply Sound.setPg | split

theorem Sound.crateFull {s t : State} (c : CoreId) (j : Job) (o : OutSet) (h : Sound s t) : Sound s (State.crateFull t c j o) := by
  unfold State.crateFull
  repeat' with_reducible first
    | assumption | apply Sound.record | fail_if_no_progress refine Sound.upd ?_ rfl | split

theorem Sound.writeOut {s t : State} (c : CoreId) (j : Job) (o : OutSet) (h : Sound s t) : Sound s (State.writeOut t c j o) := by
  unfold State.writeOut
  repeat' with_reducible first
    | assumption | apply Sound.writeSegs | apply Sound.countClips | apply Sound.crateFull

theorem Sound.finDone {s t : State} (c : CoreId) (j : Job) (h : Sound s t) : Sound s (State.finDone t c j) := by
  unfold State.finDone
  repeat' with_reducible first
    | assumption | apply Sound.bump | apply Sound.finishJob

theorem Sound.drainBegin {s t : State} (c : CoreId) (h : Sound s t) : Sound s (State.drainBegin t c) := by
  unfold State.drainBegin
  repeat' with_reducible first
    | assumption | apply Sound.event | apply Sound.setSlotSat | apply Sound.startHead | extract_lets
    | fail_if_no_progress refine Sound.upd ?_ rfl | split

theorem Sound.restoreSlot {s t : State} (c : CoreId) (j : Job) (h : Sound s t) : Sound s (State.restoreSlot t c j) := by
  unfold State.restoreSlot
  repeat' with_reducible first
    | assumption | apply Sound.setSlotSat | apply Sound.drainRestore | extract_lets | split

theorem Sound.drainRead {s t : State} (c : CoreId) (h : Sound s t) : Sound s (State.drainRead t c) := by
  unfold State.drainRead
  repeat' with_reducible first
    | assumption | apply Sound.modCore | apply Sound.replaceJob | apply Sound.consume | apply Sound.restoreSlot | intro _ | extract_lets
    | fail_if_no_progress refine Sound.upd ?_ rfl | split

theorem Sound.drainEnd {s t : State} (c : CoreId) (h : Sound s t) : Sound s (State.drainEnd t c) := by
  unfold State.drainEnd
  repeat' with_reducible first
    | assumption | apply Sound.modCore | apply Sound.consume | apply Sound.writeOut | apply Sound.finDone | apply Sound.drainRead
    | intro _ | split | dsimp only | fail_if_no_progress refine Sound.upd ?_ rfl

theorem Sound.clearWay {s t : State} (c : CoreId) (u : Nat) (j : Job) (h : Sound s t) : Sound s (State.clearWay t c u j) := by
  unfold State.clearWay
  repeat' with_reducible first
    | assumption | apply Sound.stepPass | apply Sound.drainRead | extract_lets | split

theorem Sound.tileBegin {s t : State} (c : CoreId) (u : Nat) (h : Sound s t) : Sound s (State.tileBegin t c u) := by
  unfold State.tileBegin
  repeat' with_reducible first
    | assumption | apply Sound.startHead | apply Sound.clearWay | extract_lets | fail_if_no_progress refine Sound.upd ?_ rfl | split

theorem Sound.finEnd {s t : State} (c : CoreId) (h : Sound s t) : Sound s (State.finEnd t c) := by
  unfold State.finEnd
  repeat' with_reducible first
    | assumption | apply Sound.writeSegs | apply Sound.consume | apply Sound.writeOut | apply Sound.finDone
    | fail_if_no_progress refine Sound.upd ?_ rfl | split

theorem Sound.optMonitor {s t : State} (c : CoreId) (j : Job) (p : OptPar) (outs : List OptOut)
    (h : Sound s t) : Sound s (State.optMonitor t c j p outs) := by
  unfold State.optMonitor
  repeat' with_reducible first
    | assumption | apply Sound.setPg | apply Sound.modCore | apply Sound.record | intro _ | extract_lets | split

theorem Sound.optEnd {s t : State} (c : CoreId) (h : Sound s t) : Sound s (State.optEnd t c) := by
  unfold State.optEnd
  repeat' with_reducible first
    | assumption | apply Sound.writeSegs | apply Sound.consume | apply Sound.writeOut | apply Sound.finDone | apply Sound.optMonitor
    | split | dsimp only | fail_if_no_progress refine Sound.upd ?_ rfl

theorem Sound.streamEnd {s t : State} (c : CoreId) (x : CtxId) (h : Sound s t) : Sound s (State.streamEnd t c x) := by
  unfold State.streamEnd
  repeat' with_reducible first
    | assumption | apply Sound.countIssue | apply Sound.holdCtx | apply Sound.settle | extract_lets

theorem Sound.fetchFault {s t : State} (c : CoreId) (x : CtxId) (a : Nat) (h : Sound s t) : Sound s (State.fetchFault t c x a) := by
  unfold State.fetchFault
  repeat' with_reducible first
    | assumption | apply Sound.foundFault

theorem Sound.countFetch {s t : State} (c : CoreId) (x : CtxId) (h : Sound s t) : Sound s (State.countFetch t c x) := by
  unfold State.countFetch
  repeat' with_reducible first
    | assumption | apply Sound.countAccess | apply Sound.countPoison | extract_lets | split

theorem Sound.issueFetched {s t : State} (c : CoreId) (x : CtxId) (h : Sound s t) : Sound s (State.issueFetched t c x) := by
  unfold State.issueFetched
  repeat' with_reducible first
    | assumption | apply Sound.issueHead | apply Sound.streamEnd | apply Sound.fetchFault | apply Sound.countFetch
    | fail_if_no_progress refine Sound.upd ?_ rfl | split

theorem Sound.acClock {s t : State} (c : CoreId) (h : Sound s t) : Sound s (State.acClock t c) := by
  unfold State.acClock
  repeat' with_reducible first
    | assumption | apply Sound.modCore | intro _ | extract_lets | fail_if_no_progress refine Sound.upd ?_ rfl | split

theorem Sound.acCounters {s t : State} (c : CoreId) (h : Sound s t) : Sound s (State.acCounters t c) := by
  unfold State.acCounters
  repeat' with_reducible first
    | assumption | exact Sound.refl _ | apply Sound.bump | apply Sound.foldl | apply Sound.foldl_fst | intro _ | extract_lets

theorem Sound.fetchHead {s t : State} (c : CoreId) (x : CtxId) (h : Sound s t) : Sound s (State.fetchHead t c x) := by
  unfold State.fetchHead
  repeat' with_reducible first
    | assumption | apply Sound.modCtx | apply Sound.countFetch | refine Sound.of_pair (by assumption) ?_ | intro _ | extract_lets
    | fail_if_no_progress refine Sound.upd ?_ rfl | split

theorem Sound.countAges {s t : State} (c : CoreId) (h : Sound s t) : Sound s (State.countAges t c) := by
  unfold State.countAges
  repeat' with_reducible first
    | assumption | apply Sound.modCore | intro _ | extract_lets | fail_if_no_progress refine Sound.upd ?_ rfl | split

theorem Sound.acGrant {s t : State} (c : CoreId) (h : Sound s t) : Sound s (State.acGrant t c) := by
  unfold State.acGrant
  repeat' with_reducible first
    | assumption | apply Sound.bump | apply Sound.modCore | apply Sound.issueFetched | refine Sound.of_pair (by assumption) ?_ | intro _
    | extract_lets | fail_if_no_progress refine Sound.upd ?_ rfl | split

theorem Sound.holdLoser {s t : State} (c : CoreId) (x : CtxId) (h : Sound s t) : Sound s (State.holdLoser t c x) := by
  unfold State.holdLoser
  repeat' with_reducible first
    | assumption | apply Sound.holdCtx | fail_if_no_progress refine Sound.upd ?_ rfl | split

theorem Sound.acEnd {s t : State} (c : CoreId) (h : Sound s t) : Sound s (State.acEnd t c) := by
  unfold State.acEnd
  repeat' with_reducible first
    | assumption | apply Sound.modCore | intro _ | fail_if_no_progress refine Sound.upd ?_ rfl

theorem Sound.acStep {s t : State} (c : CoreId) (h : Sound s t) : Sound s (State.acStep t c) := by
  unfold State.acStep
  repeat' with_reducible first
    | assumption | exact Sound.refl _ | apply Sound.acClock | apply Sound.acCounters | apply Sound.fetchHead | apply Sound.countAges
    | apply Sound.acGrant | apply Sound.holdLoser | apply Sound.acEnd | apply Sound.foldl | apply Sound.foldl_fst | intro _
    | extract_lets

theorem Sound.recordCtxFault {s t : State} (c : CoreId) (x : CtxId) (h : Sound s t) : Sound s (State.recordCtxFault t c x) := by
  unfold State.recordCtxFault
  repeat' with_reducible first
    | assumption | apply Sound.modCtx | apply Sound.recordFault | apply Sound.setPc | intro _
    | fail_if_no_progress refine Sound.upd ?_ rfl | split

theorem Sound.setLnkState {s t : State} (i : PortId) (v : Nat) (h : Sound s t) : Sound s (State.setLnkState t i v) := by
  unfold State.setLnkState
  repeat' with_reducible first
    | assumption | apply Sound.setField | apply Sound.event | split

theorem Sound.sendLink {s t : State} (i : PortId) (m : Msg) (h : Sound s t) : Sound s (State.sendLink t i m) := by
  unfold State.sendLink
  repeat' with_reducible first
    | assumption | apply Sound.bump | apply Sound.modPort | intro _

theorem Sound.skipIdle {s : State} (f : Nat) : ∀ {t : State} (c : CoreId) (q : QId), Sound s t → Sound s (State.skipIdle f t c q) := by
  induction f with
  | zero => intro t c q h; exact h
  | succ f ih =>
    intro t c q h
    unfold State.skipIdle
    repeat' first
      | with_reducible apply ih
      | with_reducible assumption
      | with_reducible exact Sound.refl _
      | with_reducible apply Sound.modCore
      | with_reducible apply Sound.endRsignal
      | with_reducible refine Sound.of_pair (by assumption) ?_
      | with_reducible apply Sound.foldl
      | with_reducible apply Sound.foldl_fst
      | with_reducible apply Sound.forRange
      | with_reducible intro _
      | with_reducible extract_lets
      | with_reducible fail_if_no_progress refine Sound.upd ?_ rfl
      | with_reducible split

theorem Sound.carryTo {s t : State} (src : BayId) (a : Nat) (answered : Bool)
    (h : Sound s t) : Sound s (State.carryTo t src a answered) := by
  unfold State.carryTo
  repeat' with_reducible first
    | assumption | apply Sound.carry | fail_if_no_progress refine Sound.upd ?_ rfl | split

theorem Sound.carrySpan {s t : State} (src : BayId) (a : Nat) (n : Nat) (answered : Bool)
    (h : Sound s t) : Sound s (State.carrySpan t src a n answered) := by
  unfold State.carrySpan
  repeat' with_reducible first
    | assumption | exact Sound.refl _ | apply Sound.carryTo | apply Sound.foldl | apply Sound.foldl_fst | intro _

theorem Sound.sendLeg {s t : State} (c : CoreId) (tag : Nat) (leg : Leg) (home : BayId)
    (h : Sound s t) : Sound s (State.sendLeg t c tag leg home) := by
  unfold State.sendLeg
  repeat' with_reducible first
    | assumption | apply Sound.inject | fail_if_no_progress refine Sound.upd ?_ rfl | split

theorem Sound.modTxn {s t : State} (c : CoreId) (tag : Nat) (f : Txn → Txn) (h : Sound s t) : Sound s (State.modTxn t c tag f) := by
  unfold State.modTxn
  repeat' with_reducible first
    | assumption | apply Sound.modCore | intro _ | fail_if_no_progress refine Sound.upd ?_ rfl | split

theorem Sound.sendWrite {s t : State} (c : CoreId) (x : Txn) (h : Sound s t) : Sound s (State.sendWrite t c x) := by
  unfold State.sendWrite
  repeat' with_reducible first
    | assumption | apply Sound.sendLeg | apply Sound.modTxn | intro _ | extract_lets | fail_if_no_progress refine Sound.upd ?_ rfl
    | split

theorem Sound.sendFirst {s t : State} (c : CoreId) (x : Txn) (h : Sound s t) : Sound s (State.sendFirst t c x) := by
  unfold State.sendFirst
  repeat' with_reducible first
    | assumption | apply Sound.sendLeg | apply Sound.sendWrite | intro _ | fail_if_no_progress refine Sound.upd ?_ rfl | split

theorem Sound.legArrives {s t : State} (c : CoreId) (tag : Nat) (leg : Leg) (home : BayId)
    (h : Sound s t) : Sound s (State.legArrives t c tag leg home) := by
  unfold State.legArrives
  repeat' with_reducible first
    | assumption | apply Sound.sendLeg | apply Sound.sendWrite | intro _ | fail_if_no_progress refine Sound.upd ?_ rfl | split

theorem Sound.startTxn {s t : State} (c : CoreId) (q : QId) (r : DmaRun) (fresh : Bool) (b : TxnBody) (t' : DmaRun)
    (h : Sound s t) : Sound s (State.startTxn t c q r fresh b t') := by
  unfold State.startTxn
  repeat' with_reducible first
    | assumption | apply Sound.bump | apply Sound.modCore | apply Sound.modPort | apply Sound.sendLink | apply Sound.sendFirst | intro _
    | split | dsimp only | fail_if_no_progress refine Sound.upd ?_ rfl

theorem Sound.startFrom {s t : State} (c : CoreId) (q : QId) (o : Option (DmaRun × Bool × TxnBody × DmaRun))
    (h : Sound s t) : Sound s (State.startFrom t c q o) := by
  unfold State.startFrom
  repeat' with_reducible first
    | assumption | apply Sound.startTxn | refine Sound.of_pair (by assumption) ?_ | fail_if_no_progress refine Sound.upd ?_ rfl | split

theorem Sound.dmaIssue {s t : State} (c : CoreId) (h : Sound s t) : Sound s (State.dmaIssue t c) := by
  unfold State.dmaIssue
  repeat' with_reducible first
    | assumption | apply Sound.bump | apply Sound.startFrom | intro _ | extract_lets | fail_if_no_progress refine Sound.upd ?_ rfl
    | split

theorem Sound.dmaStart {s t : State} (c : CoreId) (h : Sound s t) : Sound s (State.dmaStart t c) := by
  unfold State.dmaStart
  repeat' with_reducible first
    | assumption | exact Sound.refl _ | apply Sound.skipIdle | apply Sound.dmaIssue | apply Sound.foldl | apply Sound.foldl_fst
    | intro _

theorem Sound.writeSkip {s t : State} (c : CoreId) (a : Nat) (data : List Byte)
    (h : Sound s t) : Sound s (State.writeSkip t c a data) := by
  unfold State.writeSkip
  repeat' with_reducible first
    | assumption | exact Sound.refl _ | apply Sound.setPg | apply Sound.foldl | apply Sound.foldl_fst | intro _ | extract_lets | split

theorem Sound.txnWrite {s t : State} (c : CoreId) (key : Nat) (a : Nat) (l : List (Byte × Bool))
    (h : Sound s t) : Sound s (State.txnWrite t c key a l) := by
  unfold State.txnWrite
  repeat' with_reducible first
    | assumption | apply Sound.bump | apply Sound.coreWrite | apply Sound.writeSkip | extract_lets | split

theorem Sound.txnCount {s t : State} (c : CoreId) (a : Nat) (n : Nat) (h : Sound s t) : Sound s (State.txnCount t c a n) := by
  unfold State.txnCount
  repeat' with_reducible first
    | assumption | apply Sound.bump | apply Sound.countAccess

theorem Sound.setWords {s t : State} (c : CoreId) (w : Nat) (ws : List StoWord)
    (h : Sound s t) : Sound s (State.setWords t c w ws) := by
  unfold State.setWords
  repeat' with_reducible first
    | assumption | exact Sound.refl _ | apply Sound.setStoWord | refine Sound.of_pair (by assumption) ?_ | apply Sound.foldl
    | apply Sound.foldl_fst | intro _

theorem Sound.countReads {s t : State} (c : CoreId) (x : Txn) (h : Sound s t) : Sound s (State.countReads t c x) := by
  unfold State.countReads
  repeat' with_reducible first
    | assumption | exact Sound.refl _ | apply Sound.txnCount | apply Sound.foldl | apply Sound.foldl_fst | intro _ | split

theorem Sound.receive {s t : State} (c : CoreId) (x : Txn) (data : List (Byte × Bool))
    (h : Sound s t) : Sound s (State.receive t c x data) := by
  unfold State.receive
  repeat' with_reducible first
    | assumption | apply Sound.modTxn | apply Sound.countReads | intro _ | fail_if_no_progress refine Sound.upd ?_ rfl

theorem Sound.landTxn {s t : State} (c : CoreId) (x : Txn) (d : List (Byte × Bool))
    (h : Sound s t) : Sound s (State.landTxn t c x d) := by
  unfold State.landTxn
  repeat' with_reducible first
    | assumption | apply Sound.bump | apply Sound.txnWrite | apply Sound.setWords | fail_if_no_progress refine Sound.upd ?_ rfl | split

theorem Sound.applyTxn {s t : State} (c : CoreId) (x : Txn) (h : Sound s t) : Sound s (State.applyTxn t c x) := by
  unfold State.applyTxn
  repeat' with_reducible first
    | assumption | apply Sound.countReads | apply Sound.landTxn

theorem Sound.writeNow {s t : State} (c : CoreId) (x : Txn) (h : Sound s t) : Sound s (State.writeNow t c x) := by
  unfold State.writeNow
  repeat' with_reducible first
    | assumption | apply Sound.modTxn | apply Sound.applyTxn | intro _ | fail_if_no_progress refine Sound.upd ?_ rfl

theorem Sound.convertRun {s t : State} (c : CoreId) (q : QId) (uid : Nat) (h : Sound s t) : Sound s (State.convertRun t c q uid) := by
  unfold State.convertRun
  repeat' with_reducible first
    | assumption | apply Sound.modCore | apply Sound.countClips | intro _ | extract_lets | fail_if_no_progress refine Sound.upd ?_ rfl
    | split

theorem Sound.keepData {s t : State} (c : CoreId) (x : Txn) (data : List (Byte × Bool))
    (h : Sound s t) : Sound s (State.keepData t c x data) := by
  unfold State.keepData
  repeat' with_reducible first
    | assumption | apply Sound.modCore | intro _ | fail_if_no_progress refine Sound.upd ?_ rfl | split

theorem Sound.dropTxn {s t : State} (c : CoreId) (tag : Nat) (h : Sound s t) : Sound s (State.dropTxn t c tag) := by
  unfold State.dropTxn
  repeat' with_reducible first
    | assumption | apply Sound.modCore | intro _ | extract_lets | fail_if_no_progress refine Sound.upd ?_ rfl

theorem Sound.txnDone {s t : State} (c : CoreId) (tag : Nat) (h : Sound s t) : Sound s (State.txnDone t c tag) := by
  unfold State.txnDone
  repeat' with_reducible first
    | assumption | apply Sound.applyTxn | apply Sound.convertRun | apply Sound.keepData | apply Sound.dropTxn | intro _ | extract_lets
    | fail_if_no_progress refine Sound.upd ?_ rfl | split

theorem Sound.moveFull {s t : State} (c : CoreId) (r : DmaRun) (h : Sound s t) : Sound s (State.moveFull t c r) := by
  unfold State.moveFull
  repeat' with_reducible first
    | assumption | apply Sound.crateFull | refine Sound.of_pair (by assumption) ?_ | fail_if_no_progress refine Sound.upd ?_ rfl | split

theorem Sound.dmaDone {s t : State} (c : CoreId) (q : QId) (h : Sound s t) : Sound s (State.dmaDone t c q) := by
  unfold State.dmaDone
  repeat' with_reducible first
    | assumption | apply Sound.modCore | apply Sound.complete | apply Sound.settle | apply Sound.moveFull | intro _ | extract_lets
    | fail_if_no_progress refine Sound.upd ?_ rfl | split

theorem Sound.discardRuns {s t : State} (c : CoreId) (q : QId) (p : DmaRun → Bool)
    (h : Sound s t) : Sound s (State.discardRuns t c q p) := by
  unfold State.discardRuns
  repeat' with_reducible first
    | assumption | apply Sound.modCore | intro _ | extract_lets | fail_if_no_progress refine Sound.upd ?_ rfl

theorem Sound.resumeQueue {s t : State} (c : CoreId) (q : QId) (h : Sound s t) : Sound s (State.resumeQueue t c q) := by
  unfold State.resumeQueue
  repeat' with_reducible first
    | assumption | apply Sound.modCore | apply Sound.settle | apply Sound.discardRuns | intro _
    | fail_if_no_progress refine Sound.upd ?_ rfl | split

theorem Sound.arriveFlit {s t : State} (f : MeshFlit) (h : Sound s t) : Sound s (State.arriveFlit t f) := by
  unfold State.arriveFlit
  repeat' with_reducible first
    | assumption | apply Sound.modCore | apply Sound.inject | apply Sound.signal | apply Sound.legArrives | intro _
    | fail_if_no_progress refine Sound.upd ?_ rfl | split

theorem Sound.routerStep {s t : State} (b : BayId) (out : Dir) (h : Sound s t) : Sound s (State.routerStep t b out) := by
  unfold State.routerStep
  repeat' with_reducible first
    | assumption | apply Sound.arriveFlit | refine Sound.of_pair (by assumption) ?_ | intro _ | extract_lets
    | fail_if_no_progress refine Sound.upd ?_ rfl | split

theorem Sound.sendAck {s t : State} (c : CoreId) (m : SyncMsg) (o : Outcome) (h : Sound s t) : Sound s (State.sendAck t c m o) := by
  unfold State.sendAck
  repeat' with_reducible first
    | assumption | apply Sound.inject

theorem Sound.takeSignal {s t : State} (c : CoreId) (dec : Bool) (h : Sound s t) : Sound s (State.takeSignal t c dec) := by
  unfold State.takeSignal
  repeat' with_reducible first
    | assumption | apply Sound.bump | apply Sound.modCore | apply Sound.touch | apply Sound.applySignal | apply Sound.applyDecrement
    | apply Sound.settle | apply Sound.sendAck | refine Sound.of_pair (by assumption) ?_ | intro _ | extract_lets
    | fail_if_no_progress refine Sound.upd ?_ rfl | split

theorem Sound.takeAck {s t : State} (c : CoreId) (h : Sound s t) : Sound s (State.takeAck t c) := by
  unfold State.takeAck
  repeat' with_reducible first
    | assumption | apply Sound.modCore | apply Sound.retire | apply Sound.foundFault | apply Sound.complete | apply Sound.unholdCtx
    | apply Sound.settle | intro _ | extract_lets | fail_if_no_progress refine Sound.upd ?_ rfl | split

theorem Sound.waiterReady {s t : State} (c : CoreId) (x : CtxId) (h : Sound s t) : Sound s (State.waiterReady t c x) := by
  unfold State.waiterReady
  repeat' with_reducible first
    | assumption | apply Sound.released | apply Sound.unholdCtx | split | dsimp only

theorem Sound.waitTimeout {s t : State} (c : CoreId) (x : CtxId) (h : Sound s t) : Sound s (State.waitTimeout t c x) := by
  unfold State.waitTimeout
  repeat' with_reducible first
    | assumption | apply Sound.bump | apply Sound.dropWaits | apply Sound.retire | apply Sound.rerunQueue | apply Sound.leaveLine
    | apply Sound.foundFault | apply Sound.settle | apply Sound.preWait | split | dsimp only
    | fail_if_no_progress refine Sound.upd ?_ rfl

theorem Sound.deadlock {s t : State} (c : CoreId) (h : Sound s t) : Sound s (State.deadlock t c) := by
  unfold State.deadlock
  repeat' with_reducible first
    | assumption | apply Sound.bump | apply Sound.modCore | apply Sound.record | intro _ | extract_lets
    | fail_if_no_progress refine Sound.upd ?_ rfl | split

theorem Sound.realign {s t : State} (c : CoreId) (word : Nat) (plan : W32)
    (h : Sound s t) : Sound s (State.realign t c word plan).1 := by
  unfold State.realign
  repeat' with_reducible first
    | assumption | exact Sound.refl _ | apply Sound.bump | apply Sound.countSync | apply Sound.putSync | apply Sound.released
    | apply Sound.releaseLoop | apply Sound.signal | refine Sound.of_pair (by assumption) ?_ | apply Sound.foldl | apply Sound.foldl_fst
    | intro _ | extract_lets | fail_if_no_progress refine Sound.upd ?_ rfl | split

theorem Sound.realignPlan {s t : State} (c : CoreId) (w : Wait) (h : Sound s t) : Sound s (State.realignPlan t c w).1 := by
  unfold State.realignPlan
  repeat' with_reducible first
    | assumption | exact Sound.refl _ | apply Sound.realign | refine Sound.of_pair (by assumption) ?_ | apply Sound.foldl
    | apply Sound.foldl_fst | intro _ | extract_lets

theorem Sound.recordDrift {s t : State} (c : CoreId) (w : Wait) (ds : List (Byte × Nat × Nat × W32))
    (h : Sound s t) : Sound s (State.recordDrift t c w ds) := by
  unfold State.recordDrift
  repeat' with_reducible first
    | assumption | apply Sound.record | refine Sound.of_pair (by assumption) ?_ | fail_if_no_progress refine Sound.upd ?_ rfl | split

theorem Sound.realignAll {s t : State} (c : CoreId) (w : Wait) (h : Sound s t) : Sound s (State.realignAll t c w) := by
  unfold State.realignAll
  repeat' with_reducible first
    | assumption | apply Sound.realignPlan | apply Sound.recordDrift

theorem Sound.releaseLine {s t : State} (c : CoreId) (w : Wait) (h : Sound s t) : Sound s (State.releaseLine t c w) := by
  unfold State.releaseLine
  repeat' with_reducible first
    | assumption | apply Sound.modCtx | apply Sound.released | apply Sound.complete | apply Sound.rerunOutcome | apply Sound.realignAll
    | intro _ | extract_lets | fail_if_no_progress refine Sound.upd ?_ rfl | split

theorem Sound.lineAssert {s t : State} (l : LineId) (h : Sound s t) : Sound s (State.lineAssert t l) := by
  unfold State.lineAssert
  repeat' with_reducible first
    | assumption | exact Sound.refl _ | apply Sound.bump | apply Sound.dropWaits | apply Sound.setArr | apply Sound.settle
    | apply Sound.releaseLine | apply Sound.foldl | apply Sound.foldl_fst | intro _ | extract_lets | split

theorem Sound.dbgLatch {s t : State} (c : CoreId) (v : W32) (h : Sound s t) : Sound s (State.dbgLatch t c v) := by
  unfold State.dbgLatch
  repeat' with_reducible first
    | assumption | apply Sound.setPg | apply Sound.countSync | extract_lets

theorem Sound.hostSignal {s t : State} (c : CoreId) (n : W32) (h : Sound s t) : Sound s (State.hostSignal t c n) := by
  unfold State.hostSignal
  repeat' with_reducible first
    | assumption | apply Sound.touch | apply Sound.carry | apply Sound.applySignal | apply Sound.settle | split

theorem Sound.shelfCount {s t : State} (c : CoreId) (asking : Nat) (stray : Bool) (aged : Bool)
    (h : Sound s t) : Sound s (State.shelfCount t c asking stray aged) := by
  unfold State.shelfCount
  repeat' with_reducible first
    | assumption | apply Sound.bump

theorem Sound.shelfStep {s t : State} (c : CoreId) (h' : ShelfId) (l : List ShelfAcc)
    (h : Sound s t) : Sound s (State.shelfStep t c h' l) := by
  unfold State.shelfStep
  repeat' with_reducible first
    | assumption | apply Sound.modCore | apply Sound.present | apply Sound.shelfCount | intro _ | extract_lets
    | fail_if_no_progress refine Sound.upd ?_ rfl | split

theorem Sound.eccCorrected {s t : State} (c : CoreId) (word : Nat) (port : Nat) (f : BitVec 74)
    (h : Sound s t) : Sound s (State.eccCorrected t c word port f) := by
  exact ((h.bump _ _ _).setPg _ _ _).modMem _ fun m => Mem.wf_setFlips m _ _

theorem Sound.writeBack {s t : State} (c : CoreId) (h' : ShelfId) (h : Sound s t) : Sound s (State.writeBack t c h') := by
  unfold State.writeBack
  repeat' first
    | with_reducible exact Mem.wf_fixWord _ _ (by assumption)
    | with_reducible assumption
    | with_reducible exact Sound.refl _
    | with_reducible refine Sound.modMem ?_ _ (fun _ _ => ?_)
    | with_reducible refine Sound.of_pair (by assumption) ?_
    | with_reducible apply Sound.foldl
    | with_reducible apply Sound.foldl_fst
    | with_reducible apply Sound.forRange
    | with_reducible intro _
    | with_reducible extract_lets
    | with_reducible fail_if_no_progress refine Sound.upd ?_ rfl
    | with_reducible split

theorem Sound.deliverBad {s t : State} (c : CoreId) (word : Nat) (port : Nat) (lane : Nat) (rmw : Bool)
    (h : Sound s t) : Sound s (State.deliverBad t c word port lane rmw) := by
  unfold State.deliverBad
  repeat' with_reducible first
    | assumption | apply Sound.modCore | apply Sound.coreFault | refine Sound.of_pair (by assumption) ?_ | intro _ | extract_lets
    | fail_if_no_progress refine Sound.upd ?_ rfl | split

theorem Sound.eccUncorrected {s t : State} (c : CoreId) (word : Nat) (port : Nat) (lane : Nat) (rmw : Bool) (f : BitVec 74)
    (h : Sound s t) : Sound s (State.eccUncorrected t c word port lane rmw f) := by
  unfold State.eccUncorrected
  repeat' with_reducible first
    | assumption | apply Sound.bump | apply Sound.record | apply Sound.setStoWord | apply Sound.deliverBad | extract_lets

theorem Sound.scrub {s t : State} (c : CoreId) (h' : ShelfId) (h : Sound s t) : Sound s (State.scrub t c h') := by
  unfold State.scrub
  repeat' with_reducible first
    | assumption | apply Sound.modCore | intro _ | fail_if_no_progress refine Sound.upd ?_ rfl | split

theorem Sound.poisonWords {s t : State} (ws : List (Nat × W64)) (h : Sound s t) : Sound s (State.poisonWords t ws) := by
  unfold State.poisonWords
  repeat' first
    | with_reducible exact Mem.wf_setPoison _ _ _ (Mem.wf_setBytes _ _ _ (by assumption))
    | with_reducible assumption
    | with_reducible exact Sound.refl _
    | with_reducible refine Sound.modMem ?_ _ (fun _ _ => ?_)
    | with_reducible refine Sound.of_pair (by assumption) ?_
    | with_reducible apply Sound.foldl
    | with_reducible apply Sound.foldl_fst
    | with_reducible apply Sound.forRange
    | with_reducible intro _
    | with_reducible extract_lets
    | with_reducible fail_if_no_progress refine Sound.upd ?_ rfl
    | with_reducible split

theorem Sound.deliverRead {s t : State} (ws : List Nat) (req : Nat) (tag : Option TagId)
    (h : Sound s t) : Sound s (State.deliverRead t ws req tag) := by
  unfold State.deliverRead
  repeat' with_reducible first
    | assumption | apply Sound.modTxn | apply Sound.receive | intro _ | extract_lets | fail_if_no_progress refine Sound.upd ?_ rfl
    | split

theorem Sound.atticUncorrected {s t : State} (t' : StackId) (a : Nat) (req : Nat) (tag : Option TagId) (scrub : Bool)
    (flips : List W64) (h : Sound s t)
    : Sound s (State.atticUncorrected t t' a req tag scrub flips) := by
  unfold State.atticUncorrected
  extract_lets ws ch
  split
  · exact h
  · exact ((((h.poisonWords _).bump _ _ _).record _ _).deliverRead _ _ _)

theorem Sound.patrolStep {s t : State} (t' : StackId) (ch : Fin 32) (corrected : Bool)
    (h : Sound s t) : Sound s (State.patrolStep t t' ch corrected) := by
  unfold State.patrolStep
  repeat' with_reducible first
    | assumption | apply Sound.bump | intro _ | fail_if_no_progress refine Sound.upd ?_ rfl | split

theorem Sound.grantTxn {s t : State} (a : ArbId) (n : Nat) (c : CoreId) (tag : Nat)
    (h : Sound s t) : Sound s (State.grantTxn t a n c tag) := by
  unfold State.grantTxn
  repeat' with_reducible first
    | assumption | apply Sound.modTxn | apply Sound.receive | apply Sound.writeNow | intro _
    | fail_if_no_progress refine Sound.upd ?_ rfl | split

theorem Sound.arbActs {s t : State} (a : ArbId) (n : Nat) (q : ArbReq) (aged : Bool) (ce : Nat)
    (h : Sound s t) : Sound s (State.arbActs t a n q aged ce) := by
  unfold State.arbActs
  extract_lets u v
  have k : Sound s v := by
    cases a with
    | attic => exact (h.bump _ _ _).bump _ _ _
    | cellar => exact h.bump _ _ _
  clear_value v
  split
  · split
    · exact k.grantTxn _ _ _ _
    · exact k
  · exact k

theorem Sound.arbStep {s t : State} (a : ArbId) (arrived : List ArbReq) (ns : Nat) (ce : Nat)
    (h : Sound s t) : Sound s (State.arbStep t a arrived ns ce) := by
  unfold State.arbStep
  repeat' with_reducible first
    | assumption | apply Sound.arbActs | refine Sound.of_pair (by assumption) ?_ | extract_lets
    | fail_if_no_progress refine Sound.upd ?_ rfl | split

theorem Sound.afterRead {s t : State} (c : CoreId) (x : Txn) (h : Sound s t) : Sound s (State.afterRead t c x) := by
  unfold State.afterRead
  repeat' with_reducible first
    | assumption | apply Sound.modTxn | intro _ | fail_if_no_progress refine Sound.upd ?_ rfl | split

theorem Sound.poisonLines {s t : State} (ls : List Nat) (h : Sound s t) : Sound s (State.poisonLines t ls) := by
  exact h.modMem _ fun m hm => foldl_keeps (fun m : Mem => m.wf = true) _ (fun m l hm => Mem.wf_poisonLine m l true hm) _ _ hm

theorem Sound.celResponse {s t : State} (c : CoreId) (tag : Nat) (bad : List Nat)
    (h : Sound s t) : Sound s (State.celResponse t c tag bad) := by
  unfold State.celResponse
  repeat' with_reducible first
    | assumption | apply Sound.bump | apply Sound.sendLeg | apply Sound.modTxn | apply Sound.receive | apply Sound.writeNow
    | apply Sound.afterRead | apply Sound.poisonLines | refine Sound.of_pair (by assumption) ?_ | intro _ | extract_lets
    | fail_if_no_progress refine Sound.upd ?_ rfl | split

theorem Sound.lateWrite {s t : State} (late : List Nat) (key : Nat) (a : Nat) (l : List (Byte × Bool))
    (h : Sound s t) : Sound s (State.lateWrite t late key a l) := by
  refine Sound.foldl (fun u e hu => ?_) _ h
  have k : Sound s { u with free := u.free + 1 } := hu.upd rfl
  have w {v : State} (hv : Sound s v) : Sound s (v.modMem fun m => m.writeLine key e.1 e.2) := hv.modMem _ fun m => Mem.wf_writeLine m _ _ _
  split
  · split
    · exact w k
    · exact k
  · exact w hu

theorem Sound.recordTmo {s t : State} (p : CelId) (req : Nat) (q : Nat) (wr : Bool) (down : Bool) (line : Nat)
    (h : Sound s t) : Sound s (State.recordTmo t p req q wr down line) := by
  unfold State.recordTmo
  repeat' with_reducible first
    | assumption | apply Sound.bump | apply Sound.record | extract_lets

theorem Sound.timeoutTxn {s t : State} (p : CelId) (c : CoreId) (x : Txn) (down : Bool) (ls : List Nat)
    (h : Sound s t) : Sound s (State.timeoutTxn t p c x down ls) := by
  unfold State.timeoutTxn
  extract_lets wr a d u v
  have k : Sound s u := by
    unfold u
    split
    · exact (h.countReads _ _).lateWrite _ _ _ _
    · exact h.countReads _ _
  clear_value u
  refine Sound.foldl (fun w l hw => hw.recordTmo _ _ _ _ _ _) _ ?_
  unfold v
  split
  · exact (k.dropTxn _ _).modCore _ _
  · exact (h.receive _ _ _).afterRead _ _

theorem Sound.fetchTimeout {s t : State} (c : CoreId) (lines : List Nat) (h : Sound s t) : Sound s (State.fetchTimeout t c lines) := by
  unfold State.fetchTimeout
  repeat' with_reducible first
    | assumption | exact Sound.refl _ | apply Sound.modCore | apply Sound.recordTmo | apply Sound.foldl | apply Sound.foldl_fst
    | intro _ | extract_lets | fail_if_no_progress refine Sound.upd ?_ rfl | split

theorem Sound.celTimeout {s t : State} (c : CoreId) (tag : Nat) (lines : List Nat)
    (h : Sound s t) : Sound s (State.celTimeout t c tag lines) := by
  unfold State.celTimeout
  repeat' with_reducible first
    | assumption | apply Sound.timeoutTxn | apply Sound.fetchTimeout | intro _ | extract_lets
    | fail_if_no_progress refine Sound.upd ?_ rfl | split

theorem Sound.celDown {s t : State} (p : CelId) (h : Sound s t) : Sound s (State.celDown t p) := by
  unfold State.celDown
  repeat' with_reducible first
    | assumption | exact Sound.refl _ | apply Sound.setField | apply Sound.event | apply Sound.settle | apply Sound.timeoutTxn
    | apply Sound.foldl | apply Sound.foldl_fst | intro _ | extract_lets | fail_if_no_progress refine Sound.upd ?_ rfl | split

theorem Sound.ring {s t : State} (c : CoreId) (x : CtxId) (h : Sound s t) : Sound s (State.ring t c x) := by
  unfold State.ring
  repeat' with_reducible first
    | assumption | apply Sound.bump | apply Sound.modCtx | apply Sound.record | intro _ | fail_if_no_progress refine Sound.upd ?_ rfl
    | split

theorem Sound.relive {s t : State} (c : CoreId) (x : CtxId) (j : Job) (h : Sound s t) : Sound s (State.relive t c x j).1 := by
  unfold State.relive
  repeat' with_reducible first
    | assumption | apply Sound.modCore | refine Sound.of_pair (by assumption) ?_ | intro _ | extract_lets
    | fail_if_no_progress refine Sound.upd ?_ rfl

theorem Sound.arriveAgain {s t : State} (c : CoreId) (x : CtxId) (h : Sound s t) : Sound s (State.arriveAgain t c x) := by
  unfold State.arriveAgain
  repeat' with_reducible first
    | assumption | apply Sound.bump | apply Sound.modCtx | apply Sound.enqueueWait | apply Sound.waitWord | apply Sound.arrive
    | apply Sound.complete | apply Sound.unholdCtx | apply Sound.rerunOutcome | apply Sound.settle | apply Sound.preWait
    | apply Sound.relive | refine Sound.of_pair (by assumption) ?_ | intro _ | extract_lets
    | fail_if_no_progress refine Sound.upd ?_ rfl | split

theorem Sound.startCtx {s t : State} (c : CoreId) (x : CtxId) (h : Sound s t) : Sound s (State.startCtx t c x) := by
  unfold State.startCtx
  repeat' with_reducible first
    | assumption | apply Sound.modCtx | apply Sound.arriveAgain | intro _ | extract_lets | fail_if_no_progress refine Sound.upd ?_ rfl
    | split

theorem Sound.setFreeze {s t : State} (c : CoreId) (x : CtxId) (on : Bool) (h : Sound s t) : Sound s (State.setFreeze t c x on) := by
  unfold State.setFreeze
  repeat' with_reducible first
    | assumption | apply Sound.modCtx | apply Sound.arriveAgain | intro _ | extract_lets | fail_if_no_progress refine Sound.upd ?_ rfl
    | split

theorem Sound.removeWait {s t : State} (c : CoreId) (x : CtxId) (h : Sound s t) : Sound s (State.removeWait t c x) := by
  unfold State.removeWait
  repeat' with_reducible first
    | assumption | apply Sound.dropWaits | apply Sound.retire | apply Sound.rerunQueue | apply Sound.leaveLine | apply Sound.preWait
    | split | dsimp only | fail_if_no_progress refine Sound.upd ?_ rfl

theorem Sound.saveDone {s t : State} (c : CoreId) (x : CtxId) (h : Sound s t) : Sound s (State.saveDone t c x) := by
  unfold State.saveDone
  repeat' with_reducible first
    | assumption | apply Sound.modCtx | apply Sound.stoPut | intro _ | split | dsimp only | fail_if_no_progress refine Sound.upd ?_ rfl

theorem Sound.areaRegs {s t : State} (c : CoreId) (x : CtxId) (bs : List Byte) (pf : Bool)
    (h : Sound s t) : Sound s (State.areaRegs t c x bs pf) := by
  unfold State.areaRegs
  repeat' with_reducible first
    | assumption | exact Sound.refl _ | apply Sound.setPg | apply Sound.forRange | intro _ | extract_lets

theorem Sound.dropHold {s t : State} (c : CoreId) (x : CtxId) (h : Sound s t) : Sound s (State.dropHold t c x) := by
  unfold State.dropHold
  repeat' with_reducible first
    | assumption | apply Sound.restoreVar | apply Sound.retire | fail_if_no_progress refine Sound.upd ?_ rfl | split

theorem Sound.restoreDone {s t : State} (c : CoreId) (x : CtxId) (pf : Bool)
    (h : Sound s t) : Sound s (State.restoreDone t c x pf) := by
  unfold State.restoreDone
  repeat' with_reducible first
    | assumption | apply Sound.modCtx | apply Sound.foundFault | apply Sound.settle | apply Sound.preWait | apply Sound.removeWait
    | apply Sound.areaRegs | apply Sound.dropHold | intro _ | extract_lets | fail_if_no_progress refine Sound.upd ?_ rfl | split

theorem Sound.startSave {s t : State} (c : CoreId) (x : CtxId) (op : SaveOp) (h : Sound s t) : Sound s (State.startSave t c x op) := by
  unfold State.startSave
  repeat' with_reducible first
    | assumption | apply Sound.modCtx | intro _ | extract_lets | fail_if_no_progress refine Sound.upd ?_ rfl | split

theorem Sound.resetCtx {s t : State} (c : CoreId) (x : CtxId) (h : Sound s t) : Sound s (State.resetCtx t c x) := by
  unfold State.resetCtx
  repeat' with_reducible first
    | assumption | apply Sound.modCtx | apply Sound.settle | apply Sound.removeWait | intro _
    | fail_if_no_progress refine Sound.upd ?_ rfl | split

theorem Sound.resetCore {s t : State} (c : CoreId) (h : Sound s t) : Sound s (State.resetCore t c) := by
  unfold State.resetCore
  repeat' with_reducible first
    | assumption | apply Sound.modCore | apply Sound.settle | intro _ | fail_if_no_progress refine Sound.upd ?_ rfl | split

theorem Sound.clearMsix {s t : State} (f : FnId) (h : Sound s t) : Sound s (State.clearMsix t f) := by
  unfold State.clearMsix
  repeat' with_reducible first
    | assumption | apply Sound.modHost | intro _ | fail_if_no_progress refine Sound.upd ?_ rfl

theorem Sound.resetCtxs {s t : State} (cs : List CoreId) (h : Sound s t) : Sound s (State.resetCtxs t cs) := by
  unfold State.resetCtxs
  repeat' with_reducible first
    | assumption | exact Sound.refl _ | apply Sound.resetCtx | apply Sound.foldl | apply Sound.foldl_fst | intro _

theorem Sound.setVfEn {s t : State} (on : Bool) (h : Sound s t) : Sound s (State.setVfEn t on) := by
  unfold State.setVfEn
  repeat' with_reducible first
    | assumption | exact Sound.refl _ | apply Sound.modHost | apply Sound.clearMsix | apply Sound.foldl | apply Sound.foldl_fst
    | intro _ | extract_lets | fail_if_no_progress refine Sound.upd ?_ rfl | split

theorem Sound.flr {s t : State} (f : FnId) (h : Sound s t) : Sound s (State.flr t f) := by
  unfold State.flr
  repeat' with_reducible first
    | assumption | apply Sound.modHost | apply Sound.clearMsix | apply Sound.resetCtxs | apply Sound.setVfEn | intro _ | extract_lets
    | fail_if_no_progress refine Sound.upd ?_ rfl | split

theorem Sound.bar4Read {s t : State} (h : Sound s t) : Sound s (State.bar4Read t) := by
  unfold State.bar4Read
  repeat' with_reducible first
    | assumption | apply Sound.reply | split

theorem Sound.setAlert {s t : State} (h : Sound s t) : Sound s (State.setAlert t) := by
  unfold State.setAlert
  repeat' with_reducible first
    | assumption | fail_if_no_progress refine Sound.upd ?_ rfl

theorem Sound.setPoolRun {s t : State} (x : Nat) (f : List Nat → List Nat) (h : Sound s t) : Sound s (State.setPoolRun t x f) := by
  unfold State.setPoolRun
  repeat' with_reducible first
    | assumption | apply Sound.modPower | refine Sound.of_pair (by assumption) ?_ | intro _ | extract_lets
    | fail_if_no_progress refine Sound.upd ?_ rfl

theorem Sound.countArrival {s t : State} (c : CoreId) (x : Nat) (h : Sound s t) : Sound s (State.countArrival t c x) := by
  unfold State.countArrival
  repeat' with_reducible first
    | assumption | apply Sound.modPower | intro _ | fail_if_no_progress refine Sound.upd ?_ rfl

theorem Sound.keepDecision {s t : State} (d : Decision) (h : Sound s t) : Sound s (State.keepDecision t d) := by
  unfold State.keepDecision
  repeat' with_reducible first
    | assumption | apply Sound.bump | apply Sound.modPower | intro _ | fail_if_no_progress refine Sound.upd ?_ rfl

theorem Sound.decide {s t : State} (x : Nat) (n : Nat) (e : PhaseEntry) (pool : Bool)
    (h : Sound s t) : Sound s (State.decide? t x n e pool).1 := by
  unfold State.decide?
  repeat' with_reducible first
    | assumption | apply Sound.setPoolRun | apply Sound.keepDecision | refine Sound.of_pair (by assumption) ?_ | intro _ | extract_lets
    | fail_if_no_progress refine Sound.upd ?_ rfl | split

theorem Sound.take {s t : State} (c : CoreId) (d : Decision) (h : Sound s t) : Sound s (State.take t c d) := by
  unfold State.take
  repeat' with_reducible first
    | assumption | apply Sound.modPower | intro _ | fail_if_no_progress refine Sound.upd ?_ rfl | split

theorem Sound.recordForced {s t : State} (c : CoreId) (v : Fin 4) (cause : Nat)
    (h : Sound s t) : Sound s (State.recordForced t c v cause) := by
  unfold State.recordForced
  repeat' with_reducible first
    | assumption | apply Sound.bump | apply Sound.record | apply Sound.recordBehind | extract_lets
    | fail_if_no_progress refine Sound.upd ?_ rfl | split

theorem Sound.setRail {s t : State} (h : Sound s t) : Sound s (State.setRail t) := by
  unfold State.setRail
  repeat' with_reducible first
    | assumption | apply Sound.modPower | intro _ | fail_if_no_progress refine Sound.upd ?_ rfl

theorem Sound.runAt {s t : State} (c : CoreId) (v : Fin 4) (cause : Nat) (h : Sound s t) : Sound s (State.runAt t c v cause) := by
  unfold State.runAt
  repeat' with_reducible first
    | assumption | apply Sound.modIsland | apply Sound.recordForced | apply Sound.setRail | intro _
    | fail_if_no_progress refine Sound.upd ?_ rfl

theorem Sound.phaseEnd {s t : State} (c : CoreId) (j : Job) (next : Nat) (h : Sound s t) : Sound s (State.phaseEnd t c j next) := by
  unfold State.phaseEnd
  repeat' with_reducible first
    | assumption | apply Sound.setPc | apply Sound.stepPc | apply Sound.complete | apply Sound.unholdCtx | apply Sound.settle
    | extract_lets | split

theorem Sound.takeVariant {s t : State} (c : CoreId) (j : Job) (x : Nat) (ent : Nat) (d : Fin 4) (cause : Nat) (next : Nat)
    (h : Sound s t) : Sound s (State.takeVariant t c j x ent d cause next) := by
  unfold State.takeVariant
  repeat' with_reducible first
    | assumption | apply Sound.modCtx | apply Sound.modIsland | apply Sound.carry | apply Sound.recordForced | apply Sound.phaseEnd
    | refine Sound.of_pair (by assumption) ?_ | intro _ | extract_lets | fail_if_no_progress refine Sound.upd ?_ rfl | split

theorem Sound.phaseBeyond {s t : State} (c : CoreId) (j : Job) (x : Nat) (h : Sound s t) : Sound s (State.phaseBeyond t c j x) := by
  unfold State.phaseBeyond
  repeat' with_reducible first
    | assumption | apply Sound.bump | apply Sound.countArrival | apply Sound.takeVariant | extract_lets | split

theorem Sound.phaseDecide {s t : State} (c : CoreId) (pool : Bool) (h : Sound s t) : Sound s (State.phaseDecide t c pool) := by
  unfold State.phaseDecide
  repeat' with_reducible first
    | assumption | apply Sound.restoreVar | apply Sound.countArrival | apply Sound.decide | apply Sound.take | apply Sound.phaseEnd
    | apply Sound.takeVariant | apply Sound.phaseBeyond | refine Sound.of_pair (by assumption) ?_ | intro _ | extract_lets
    | fail_if_no_progress refine Sound.upd ?_ rfl | split

theorem Sound.changeVariant {s t : State} (c : CoreId) (h : Sound s t) : Sound s (State.changeVariant t c) := by
  unfold State.changeVariant
  repeat' with_reducible first
    | assumption | apply Sound.runAt | apply Sound.phaseEnd | split | dsimp only | fail_if_no_progress refine Sound.upd ?_ rfl

theorem Sound.capIslands {s t : State} (h : Sound s t) : Sound s (State.capIslands t) := by
  unfold State.capIslands
  repeat' with_reducible first
    | assumption | exact Sound.refl _ | apply Sound.modIsland | apply Sound.foldl | apply Sound.foldl_fst | intro _
    | fail_if_no_progress refine Sound.upd ?_ rfl | split

theorem Sound.freeIslands {s t : State} (h : Sound s t) : Sound s (State.freeIslands t) := by
  unfold State.freeIslands
  repeat' with_reducible first
    | assumption | exact Sound.refl _ | apply Sound.modIsland | apply Sound.foldl | apply Sound.foldl_fst | intro _
    | fail_if_no_progress refine Sound.upd ?_ rfl | split

theorem Sound.capOnset {s t : State} (h : Sound s t) : Sound s (State.capOnset t) := by
  unfold State.capOnset
  repeat' with_reducible first
    | assumption | apply Sound.setField | apply Sound.modPower | apply Sound.event | apply Sound.record | apply Sound.setAlert
    | apply Sound.capIslands | intro _ | extract_lets | fail_if_no_progress refine Sound.upd ?_ rfl | split

theorem Sound.capLift {s t : State} (h : Sound s t) : Sound s (State.capLift t) := by
  unfold State.capLift
  repeat' with_reducible first
    | assumption | apply Sound.setField | apply Sound.setAlert | apply Sound.freeIslands | split

theorem Sound.throttle {s t : State} (sensor : Nat) (temp : Nat) (h : Sound s t) : Sound s (State.throttle t sensor temp) := by
  unfold State.throttle
  repeat' with_reducible first
    | assumption | apply Sound.setField | apply Sound.modPower | apply Sound.event | apply Sound.record | apply Sound.setAlert
    | apply Sound.capIslands | intro _ | extract_lets | fail_if_no_progress refine Sound.upd ?_ rfl | split

theorem Sound.throttleLift {s t : State} (h : Sound s t) : Sound s (State.throttleLift t) := by
  unfold State.throttleLift
  repeat' with_reducible first
    | assumption | apply Sound.setField | apply Sound.setAlert | apply Sound.freeIslands | split

theorem Sound.trip {s t : State} (sensor : Nat) (temp : Nat) (h : Sound s t) : Sound s (State.trip t sensor temp) := by
  unfold State.trip
  repeat' with_reducible first
    | assumption | apply Sound.setPg | apply Sound.modPower | intro _ | extract_lets | fail_if_no_progress refine Sound.upd ?_ rfl
    | split

theorem Sound.currentSample {s t : State} (p : PowerSample) (h : Sound s t) : Sound s (State.currentSample t p) := by
  unfold State.currentSample
  repeat' with_reducible first
    | assumption | apply Sound.bump | apply Sound.modPower | intro _ | extract_lets | fail_if_no_progress refine Sound.upd ?_ rfl
    | split

theorem Sound.junctionSample {s t : State} (j : JunctionSample) (h : Sound s t) : Sound s (State.junctionSample t j) := by
  unfold State.junctionSample
  repeat' with_reducible first
    | assumption | exact Sound.refl _ | apply Sound.setPg | apply Sound.setField | apply Sound.modPower | apply Sound.foldl
    | apply Sound.foldl_fst | intro _ | extract_lets | fail_if_no_progress refine Sound.upd ?_ rfl | split

theorem Sound.droop {s t : State} (c : CoreId) (rail : Nat) (h : Sound s t) : Sound s (State.droop t c rail) := by
  unfold State.droop
  repeat' with_reducible first
    | assumption | apply Sound.bump | apply Sound.modIsland | intro _ | fail_if_no_progress refine Sound.upd ?_ rfl | split

theorem Sound.droopEnd {s t : State} (c : CoreId) (cycles : Vector Nat 4) (above : Nat) (rail : Nat)
    (h : Sound s t) : Sound s (State.droopEnd t c cycles above rail) := by
  unfold State.droopEnd
  repeat' with_reducible first
    | assumption | apply Sound.bump | apply Sound.modIsland | intro _ | fail_if_no_progress refine Sound.upd ?_ rfl | split

theorem Sound.loadTables {s t : State} (h : Sound s t) : Sound s (State.loadTables t) := by
  unfold State.loadTables
  repeat' with_reducible first
    | assumption | apply Sound.setField | apply Sound.modPower | apply Sound.event | apply Sound.countRead | intro _ | extract_lets
    | fail_if_no_progress refine Sound.upd ?_ rfl

theorem Sound.reject {s t : State} (ty : Nat) (reason : Nat) (svn : W32) (h : Sound s t) : Sound s (State.reject t ty reason svn) := by
  unfold State.reject
  repeat' with_reducible first
    | assumption | apply Sound.record

theorem Sound.setSvns {s t : State} (h : Sound s t) : Sound s (State.setSvns t) := by
  unfold State.setSvns
  repeat' with_reducible first
    | assumption | apply Sound.setPg | extract_lets

theorem Sound.setMeas {s t : State} (reg : Nat → Nat) (bs : List Byte) (h : Sound s t) : Sound s (State.setMeas t reg bs) := by
  unfold State.setMeas
  repeat' with_reducible first
    | assumption | exact Sound.refl _ | apply Sound.setPg | apply Sound.take | apply Sound.forRange | intro _

theorem Sound.recover {s t : State} (h : Sound s t) : Sound s (State.recover t) := by
  unfold State.recover
  repeat' with_reducible first
    | assumption | apply Sound.setPg | apply Sound.setField | apply Sound.setAlert | refine Sound.modMgmt ?_ _ (fun _ => ?_) | rfl
    | intro _ | fail_if_no_progress refine Sound.upd ?_ rfl

theorem Sound.runFirmware {s t : State} (read : Nat → Byte) (h : Sound s t) : Sound s (State.runFirmware t read) := by
  unfold State.runFirmware
  extract_lets a b
  have k : Sound s a := h.modMgmt _ fun m => Mgmt.putHeader_fuses _
  have k' : Sound s b := ((k.setField _ _ _ _ _).setPg _ _ _).setMeas _ _
  exact k'.setSvns

theorem Sound.stoInit {s t : State} (c : CoreId) (h : Sound s t) : Sound s (State.stoInit t c) := by
  exact (h.modMem _ fun m => Mem.wf_filter m _ _ _ _).setPg _ _ _

theorem Sound.atticInit {s t : State} (h : Sound s t) : Sound s (State.atticInit t) := by
  have k : Sound s (t.modMem fun m =>
      { m with data := m.data.filter fun e => Decidable.decide (STO_BASE ≤ e.1), poison := m.poison.filter fun w => Decidable.decide (CEL_BASE ≤ 8 * w) }) :=
    h.modMem _ fun m hm => by
      rw [Mem.wf_iff] at hm ⊢
      exact ⟨smWf_filter _ _ _ hm.1, hm.2.1, hm.2.2.1, nsSorted_filter _ _ hm.2.2.2.1, hm.2.2.2.2⟩
  exact Sound.foldl (fun u b hu => hu.setField _ _ _ _ _) _ k

theorem Sound.celInit {s t : State} (e : StartEnv) (p : CelId) (h : Sound s t) : Sound s (State.celInit t e p) := by
  unfold State.celInit
  repeat' with_reducible first
    | assumption | apply Sound.setPg | apply Sound.event | extract_lets | fail_if_no_progress refine Sound.upd ?_ rfl | split

theorem Sound.reportTrip {s t : State} (h : Sound s t) : Sound s (State.reportTrip t) := by
  unfold State.reportTrip
  repeat' with_reducible first
    | assumption | apply Sound.record | extract_lets | split

theorem Sound.finishStart {s t : State} (e : StartEnv) (mc : Nat → Byte) (h : Sound s t) : Sound s (State.finishStart t e mc) := by
  unfold State.finishStart
  repeat' with_reducible first
    | assumption | exact Sound.refl _ | apply Sound.setPg | apply Sound.setField | apply Sound.setAlert | apply Sound.setRail
    | apply Sound.setSvns | apply Sound.setMeas | apply Sound.stoInit | apply Sound.atticInit | apply Sound.celInit
    | apply Sound.reportTrip | refine Sound.modMgmt ?_ _ (fun _ => ?_) | apply Sound.foldl | apply Sound.foldl_fst | rfl | intro _
    | extract_lets | fail_if_no_progress refine Sound.upd ?_ rfl

theorem Sound.startMicrocode {s t : State} (e : StartEnv) (h : Sound s t) : Sound s (State.startMicrocode t e) := by
  unfold State.startMicrocode
  repeat' with_reducible first
    | assumption | apply Sound.reject | apply Sound.recover | apply Sound.finishStart | refine Sound.of_pair (by assumption) ?_
    | fail_if_no_progress refine Sound.upd ?_ rfl | split

theorem Sound.startUp {s t : State} (e : StartEnv) (h : Sound s t) : Sound s (State.startUp t e) := by
  unfold State.startUp
  extract_lets a b w d u
  have k : Sound s d := (Sound.upd (Sound.upd h rfl) rfl : Sound s b).modMgmt _ fun m => Mgmt.openLog_fuses _
  clear_value d
  split
  · exact k
  · have k' : Sound s u := k.setSvns
    clear_value u
    split
    · exact (k'.reject _ _ _).recover
    · exact (k'.runFirmware _).startMicrocode _

theorem Sound.packageReset {s t : State} (h : Sound s t) : Sound s (State.packageReset t) := by
  refine Sound.setPg _ _ _ (h.trans ⟨fun i => ⟨?_, rfl, rfl⟩, Kept.same rfl rfl⟩)
  have hm := i.1
  rw [Mem.wf_iff] at hm ⊢
  exact ⟨rfl, hm.2.1, rfl, nsSorted_filter _ _ hm.2.2.2.1, hm.2.2.2.2.1, rfl⟩

theorem Sound.undervoltage {s t : State} (h : Sound s t) : Sound s (State.undervoltage t) := by
  unfold State.undervoltage
  repeat' with_reducible first
    | assumption | apply Sound.setPg | apply Sound.packageReset | refine Sound.modMgmt ?_ _ (fun _ => ?_) | rfl | intro _ | extract_lets
    | fail_if_no_progress refine Sound.upd ?_ rfl

theorem Sound.answer7e {s t : State} (v : Served) (h : Sound s t) : Sound s (State.answer7e t v) := by
  unfold State.answer7e
  repeat' with_reducible first
    | assumption | refine Sound.modMgmt ?_ _ (fun _ => ?_) | rfl | intro _ | fail_if_no_progress refine Sound.upd ?_ rfl

theorem Sound.serve {s t : State} (r : MgtReq) (op : Nat) {f : State → W32 → List Byte → State × Served}
    (hf : ∀ u a d, Sound s u → Sound s (f u a d).1) (h : Sound s t) : Sound s (State.serve t r op f) := by
  unfold State.serve
  repeat' first
    | with_reducible apply hf
    | with_reducible assumption
    | with_reducible exact Sound.refl _
    | with_reducible apply Sound.answer7e
    | with_reducible refine Sound.modMgmt ?_ _ (fun _ => ?_)
    | with_reducible refine Sound.of_pair (by assumption) ?_
    | with_reducible apply Sound.foldl
    | with_reducible apply Sound.foldl_fst
    | with_reducible apply Sound.forRange
    | with_reducible rfl
    | with_reducible intro _
    | with_reducible extract_lets
    | with_reducible fail_if_no_progress refine Sound.upd ?_ rfl
    | with_reducible split

theorem Sound.doInfo {s t : State} (x0 : W32) (x1 : List Byte) (h : Sound s t) : Sound s (State.doInfo t x0 x1).1 := by
  unfold State.doInfo
  repeat' with_reducible first
    | assumption | refine Sound.of_pair (by assumption) ?_

theorem Sound.doStage {s t : State} (a0 : W32) (d : List Byte) (h : Sound s t) : Sound s (State.doStage t a0 d).1 := by
  unfold State.doStage
  repeat' with_reducible first
    | assumption | refine Sound.modMgmt ?_ _ (fun _ => ?_) | refine Sound.of_pair (by assumption) ?_ | rfl | intro _
    | fail_if_no_progress refine Sound.upd ?_ rfl | split

theorem Sound.doRecover {s t : State} (e : StartEnv) (a0 : W32) (x0 : List Byte)
    (h : Sound s t) : Sound s (State.doRecover t e a0 x0).1 := by
  unfold State.doRecover
  repeat' with_reducible first
    | assumption | apply Sound.reject | apply Sound.runFirmware | apply Sound.finishStart | apply Sound.startMicrocode
    | refine Sound.of_pair (by assumption) ?_ | extract_lets | fail_if_no_progress refine Sound.upd ?_ rfl | split

theorem Sound.doCommit {s t : State} (flashOk : Bool) (a0 : W32) (x0 : List Byte)
    (h : Sound s t) : Sound s (State.doCommit t flashOk a0 x0).1 := by
  unfold State.doCommit
  extract_lets tys
  split
  · exact h.reject _ _ _
  · rename_i put _ _
    have hp (n : Mgmt) (ty : Nat) : (put n ty).fuses = n.fuses := by
      cases flashOk <;> rfl
    clear_value put tys
    exact h.modMgmt _ fun m => foldl_keeps (fun n : Mgmt => n.fuses = m.fuses) _ (fun n ty hn => (hp n ty).trans hn) _ _ rfl

theorem Sound.doSvn {s t : State} (a0 : W32) (x0 : List Byte) (h : Sound s t) : Sound s (State.doSvn t a0 x0).1 := by
  have k (f : W64 → W64) (g : W64 → W64) (hf : ∀ x, x ||| f x = f x) (hg : ∀ x, x ||| g x = g x) :
      Sound t (t.modMgmt fun m => { m with fuses := { m.fuses with svnFw := f m.fuses.svnFw, svnMc := g m.fuses.svnMc } }) :=
    ⟨id, rfl, rfl, hf _, hg _⟩
  unfold State.doSvn
  split
  · exact (h.trans (k (fun x => burnTo x t.mgmt.svnFw) id (fun x => burned_burnTo _ _) fun x => BitVec.or_self)).setSvns
  · split
    · exact (h.trans (k id (fun x => burnTo x t.mgmt.svnMc) (fun x => BitVec.or_self) fun x => burned_burnTo _ _)).setSvns
    · exact h

theorem Sound.doAttest {s t : State} (a0 : W32) (d : List Byte) (h : Sound s t) : Sound s (State.doAttest t a0 d).1 := by
  unfold State.doAttest
  repeat' with_reducible first
    | assumption | apply Sound.take | apply Sound.setMeas | refine Sound.of_pair (by assumption) ?_ | extract_lets | split

theorem Sound.doCert {s t : State} (a0 : W32) (x0 : List Byte) (h : Sound s t) : Sound s (State.doCert t a0 x0).1 := by
  unfold State.doCert
  repeat' with_reducible first
    | assumption | apply Sound.take | refine Sound.of_pair (by assumption) ?_ | extract_lets
    | fail_if_no_progress refine Sound.upd ?_ rfl

theorem Sound.doMeasure {s t : State} (a0 : W32) (d : List Byte) (h : Sound s t) : Sound s (State.doMeasure t a0 d).1 := by
  unfold State.doMeasure
  repeat' with_reducible first
    | assumption | apply Sound.countRead | apply Sound.take | refine Sound.modMgmt ?_ _ (fun _ => ?_)
    | refine Sound.of_pair (by assumption) ?_ | rfl | intro _ | extract_lets | fail_if_no_progress refine Sound.upd ?_ rfl | split

theorem Sound.doUnmeasure {s t : State} (a0 : W32) (x0 : List Byte) (h : Sound s t) : Sound s (State.doUnmeasure t a0 x0).1 := by
  unfold State.doUnmeasure
  repeat' with_reducible first
    | assumption | refine Sound.modMgmt ?_ _ (fun _ => ?_) | rfl | intro _ | fail_if_no_progress refine Sound.upd ?_ rfl

theorem Sound.doCelKey {s t : State} (a0 : W32) (x0 : List Byte) (h : Sound s t) : Sound s (State.doCelKey t a0 x0).1 := by
  unfold State.doCelKey
  repeat' with_reducible first
    | assumption | exact Sound.refl _ | apply Sound.setField | apply Sound.randomBytes | refine Sound.modMgmt ?_ _ (fun _ => ?_)
    | apply Sound.foldl | apply Sound.foldl_fst | rfl | intro _ | extract_lets | fail_if_no_progress refine Sound.upd ?_ rfl | split

theorem Sound.doLog {s t : State} (a0 : W32) (x0 : List Byte) (h : Sound s t) : Sound s (State.doLog t a0 x0).1 := by
  unfold State.doLog
  repeat' with_reducible first
    | assumption | refine Sound.of_pair (by assumption) ?_ | intro _ | extract_lets | fail_if_no_progress refine Sound.upd ?_ rfl
    | split

theorem Sound.doChallenge {s t : State} (x0 : W32) (x1 : List Byte) (h : Sound s t) : Sound s (State.doChallenge t x0 x1).1 := by
  unfold State.doChallenge
  repeat' with_reducible first
    | assumption | apply Sound.randomBytes | refine Sound.modMgmt ?_ _ (fun _ => ?_) | refine Sound.of_pair (by assumption) ?_ | rfl
    | intro _ | extract_lets | fail_if_no_progress refine Sound.upd ?_ rfl | split

theorem Sound.setLevel {s t : State} (l : Nat) (h : Sound s t) : Sound s (State.setLevel t l) := by
  unfold State.setLevel
  repeat' with_reducible first
    | assumption | apply Sound.setField | refine Sound.modMgmt ?_ _ (fun _ => ?_) | rfl | intro _
    | fail_if_no_progress refine Sound.upd ?_ rfl

theorem Sound.doUnlock {s t : State} (x0 : W32) (d : List Byte) (h : Sound s t) : Sound s (State.doUnlock t x0 d).1 := by
  unfold State.doUnlock
  repeat' with_reducible first
    | assumption | apply Sound.record | apply Sound.take | apply Sound.setLevel | refine Sound.modMgmt ?_ _ (fun _ => ?_)
    | refine Sound.of_pair (by assumption) ?_ | rfl | intro _ | split | dsimp only | fail_if_no_progress refine Sound.upd ?_ rfl

theorem Sound.doLock {s t : State} (x0 : W32) (x1 : List Byte) (h : Sound s t) : Sound s (State.doLock t x0 x1).1 := by
  unfold State.doLock
  repeat' with_reducible first
    | assumption | apply Sound.setLevel

theorem Sound.setMbxData {s t : State} (d : List Byte) (h : Sound s t) : Sound s (State.setMbxData t d) := by
  unfold State.setMbxData
  repeat' with_reducible first
    | assumption | exact Sound.refl _ | apply Sound.setPg | apply Sound.take | apply Sound.forRange | intro _ | extract_lets

theorem Sound.mbxDone {s t : State} (h : Sound s t) : Sound s (State.mbxDone t) := by
  unfold State.mbxDone
  repeat' with_reducible first
    | assumption | apply Sound.setPg | apply Sound.event | apply Sound.setMbxData | refine Sound.modMgmt ?_ _ (fun _ => ?_) | rfl
    | intro _ | extract_lets | fail_if_no_progress refine Sound.upd ?_ rfl | split

theorem Sound.mbxGo {s t : State} (h : Sound s t) : Sound s (State.mbxGo t) := by
  unfold State.mbxGo
  repeat' with_reducible first
    | assumption | apply Sound.setField | split

theorem Sound.writeRecord {s t : State} (time : W64) (h : Sound s t) : Sound s (State.writeRecord t time) := by
  refine h.modMgmt _ fun m => ?_
  cases m.logq with
  | nil => rfl
  | cons => exact Mgmt.putHeader_fuses _

theorem Sound.fallBack {s t : State} (h : Sound s t) : Sound s (State.fallBack t) := by
  unfold State.fallBack
  repeat' with_reducible first
    | assumption | apply Sound.setField | apply Sound.recover

theorem Sound.watchdog {s t : State} (fwRead : Bool) (h : Sound s t) : Sound s (State.watchdog t fwRead) := by
  unfold State.watchdog
  repeat' with_reducible first
    | assumption | apply Sound.setField | apply Sound.forward | apply Sound.reject | apply Sound.fallBack
    | refine Sound.modMgmt ?_ _ (fun _ => ?_) | refine Sound.of_pair (by assumption) ?_ | rfl | intro _ | split | dsimp only
    | fail_if_no_progress refine Sound.upd ?_ rfl

theorem Sound.setTap {s t : State} (t' : Tap) (h : Sound s t) : Sound s (State.setTap t t') := by
  unfold State.setTap
  repeat' with_reducible first
    | assumption | refine Sound.modMgmt ?_ _ (fun _ => ?_) | rfl | intro _ | fail_if_no_progress refine Sound.upd ?_ rfl

theorem Sound.tapBypass {s t : State} (h : Sound s t) : Sound s (State.tapBypass t) := by
  unfold State.tapBypass
  repeat' with_reducible first
    | assumption | apply Sound.setTap | fail_if_no_progress refine Sound.upd ?_ rfl

theorem Sound.tapPin {s t : State} (ir : TapIr) (dr : List Bool) (h : Sound s t) : Sound s (State.tapPin t ir dr) := by
  unfold State.tapPin
  repeat' with_reducible first
    | assumption | apply Sound.setTap | apply Sound.tapBypass | fail_if_no_progress refine Sound.upd ?_ rfl | split

theorem Sound.answerI3c {s t : State} (v : Served) (h : Sound s t) : Sound s (State.answerI3c t v) := by
  unfold State.answerI3c
  repeat' with_reducible first
    | assumption | refine Sound.modMgmt ?_ _ (fun _ => ?_) | rfl | intro _ | fail_if_no_progress refine Sound.upd ?_ rfl | split

theorem Sound.dropMsg {s t : State} (i : PortId) (m : Msg) (why : Nat) (h : Sound s t) : Sound s (State.dropMsg t i m why) := by
  unfold State.dropMsg
  repeat' with_reducible first
    | assumption | apply Sound.bump | apply Sound.record | extract_lets

theorem Sound.oweCredits {s t : State} (i : PortId) (m : Msg) (h : Sound s t) : Sound s (State.oweCredits t i m) := by
  unfold State.oweCredits
  repeat' with_reducible first
    | assumption | apply Sound.modPort | intro _ | fail_if_no_progress refine Sound.upd ?_ rfl | split

theorem Sound.touchAt {s t : State} (a : Nat) (h : Sound s t) : Sound s (State.touchAt t a) := by
  unfold State.touchAt
  repeat' with_reducible first
    | assumption | apply Sound.touch | fail_if_no_progress refine Sound.upd ?_ rfl | split

theorem Sound.linkWrite {s t : State} (i : PortId) (a : Nat) (l : List (Byte × Bool))
    (h : Sound s t) : Sound s (State.linkWrite t i a l) := by
  unfold State.linkWrite
  repeat' with_reducible first
    | assumption | exact Sound.refl _ | apply Sound.bump | apply Sound.pkgWrite | apply Sound.carryTo | apply Sound.touchAt
    | apply Sound.foldl | apply Sound.foldl_fst | intro _

theorem Sound.applyWr {s t : State} (i : PortId) (m : Msg) (h : Sound s t) : Sound s (State.applyWr t i m) := by
  unfold State.applyWr
  repeat' with_reducible first
    | assumption | apply Sound.modPort | apply Sound.sendLink | apply Sound.take | apply Sound.dropMsg | apply Sound.linkWrite | intro _
    | fail_if_no_progress refine Sound.upd ?_ rfl | split

theorem Sound.applySig {s t : State} (i : PortId) (m : Msg) (h : Sound s t) : Sound s (State.applySig t i m) := by
  unfold State.applySig
  repeat' with_reducible first
    | assumption | apply Sound.modPort | apply Sound.touch | apply Sound.carry | apply Sound.applySignal | apply Sound.settle
    | apply Sound.sendLink | apply Sound.dropMsg | intro _ | extract_lets | fail_if_no_progress refine Sound.upd ?_ rfl | split

theorem Sound.applyRd {s t : State} (i : PortId) (m : Msg) (h : Sound s t) : Sound s (State.applyRd t i m) := by
  unfold State.applyRd
  repeat' with_reducible first
    | assumption | apply Sound.countRun | apply Sound.sendLink | apply Sound.carrySpan | apply Sound.dropMsg | intro _ | extract_lets
    | fail_if_no_progress refine Sound.upd ?_ rfl | split

theorem Sound.discardMsg {s t : State} (i : PortId) (m : Msg) (h : Sound s t) : Sound s (State.discardMsg t i m) := by
  unfold State.discardMsg
  repeat' with_reducible first
    | assumption | apply Sound.bump | apply Sound.modPort | apply Sound.sendLink | apply Sound.oweCredits | intro _ | extract_lets
    | fail_if_no_progress refine Sound.upd ?_ rfl | split

theorem Sound.parseRx {s : State} (f : Nat) : ∀ {t : State} (i : PortId), Sound s t → Sound s (State.parseRx f t i) := by
  induction f with
  | zero => intro t i h; exact h
  | succ f ih =>
    intro t i h
    unfold State.parseRx
    repeat' first
      | with_reducible apply ih
      | with_reducible assumption
      | with_reducible exact Sound.refl _
      | with_reducible apply Sound.modPort
      | with_reducible apply Sound.discardMsg
      | with_reducible refine Sound.of_pair (by assumption) ?_
      | with_reducible apply Sound.foldl
      | with_reducible apply Sound.foldl_fst
      | with_reducible apply Sound.forRange
      | with_reducible intro _
      | with_reducible extract_lets
      | with_reducible fail_if_no_progress refine Sound.upd ?_ rfl
      | with_reducible split

theorem Sound.receiveFlit {s t : State} (i : PortId) (f : Flit) (h : Sound s t) : Sound s (State.receiveFlit t i f) := by
  unfold State.receiveFlit
  repeat' with_reducible first
    | assumption | apply Sound.bump | apply Sound.modPort | apply Sound.accept | apply Sound.parseRx | intro _ | extract_lets
    | fail_if_no_progress refine Sound.upd ?_ rfl | split

theorem Sound.pullPump {s : State} (f : Nat) : ∀ {t : State} (i : PortId), Sound s t → Sound s (State.pullPump f t i) := by
  induction f with
  | zero => intro t i h; exact h
  | succ f ih =>
    intro t i h
    unfold State.pullPump
    repeat' first
      | with_reducible apply ih
      | with_reducible assumption
      | with_reducible exact Sound.refl _
      | with_reducible apply Sound.modPort
      | with_reducible apply Sound.sendLink
      | with_reducible refine Sound.of_pair (by assumption) ?_
      | with_reducible apply Sound.foldl
      | with_reducible apply Sound.foldl_fst
      | with_reducible apply Sound.forRange
      | with_reducible intro _
      | with_reducible extract_lets
      | with_reducible fail_if_no_progress refine Sound.upd ?_ rfl
      | with_reducible split

theorem Sound.pullEnds {s t : State} (i : PortId) (status : Nat) (h : Sound s t) : Sound s (State.pullEnds t i status) := by
  unfold State.pullEnds
  repeat' with_reducible first
    | assumption | apply Sound.setPg | apply Sound.modPort | apply Sound.event | intro _ | fail_if_no_progress refine Sound.upd ?_ rfl

theorem Sound.linkSignal {s t : State} (i : PortId) (v : W32) (n : W32) (h : Sound s t) : Sound s (State.linkSignal t i v n) := by
  unfold State.linkSignal
  repeat' with_reducible first
    | assumption | apply Sound.touch | apply Sound.carry | apply Sound.applySignal | apply Sound.settle | extract_lets | split

theorem Sound.pullGo {s t : State} (i : PortId) (h : Sound s t) : Sound s (State.pullGo t i) := by
  unfold State.pullGo
  repeat' with_reducible first
    | assumption | apply Sound.setPg | apply Sound.modPort | apply Sound.pullPump | apply Sound.pullEnds | intro _ | extract_lets
    | fail_if_no_progress refine Sound.upd ?_ rfl | split

theorem Sound.applyRdr {s t : State} (i : PortId) (m : Msg) (h : Sound s t) : Sound s (State.applyRdr t i m) := by
  unfold State.applyRdr
  repeat' with_reducible first
    | assumption | apply Sound.modPort | apply Sound.take | apply Sound.linkWrite | apply Sound.pullPump | intro _ | extract_lets
    | fail_if_no_progress refine Sound.upd ?_ rfl | split

theorem Sound.pullFinish {s t : State} (i : PortId) (h : Sound s t) : Sound s (State.pullFinish t i) := by
  unfold State.pullFinish
  repeat' with_reducible first
    | assumption | apply Sound.pullEnds | apply Sound.linkSignal | extract_lets | fail_if_no_progress refine Sound.upd ?_ rfl | split

theorem Sound.applyAck {s t : State} (i : PortId) (m : Msg) (h : Sound s t) : Sound s (State.applyAck t i m) := by
  unfold State.applyAck
  repeat' with_reducible first
    | assumption | apply Sound.modCore | apply Sound.endRsignal | apply Sound.dropTxn | refine Sound.of_pair (by assumption) ?_
    | intro _ | extract_lets | fail_if_no_progress refine Sound.upd ?_ rfl | split

theorem Sound.poisonRange {s t : State} (a : Nat) (n : Nat) (h : Sound s t) : Sound s (State.poisonRange t a n) := by
  unfold State.poisonRange
  repeat' with_reducible first
    | assumption | exact Sound.refl _ | apply Sound.pkgWrite | apply Sound.touchAt | apply Sound.foldl | apply Sound.foldl_fst | intro _
    | split

theorem Sound.losePull {s t : State} (i : PortId) (h : Sound s t) : Sound s (State.losePull t i) := by
  unfold State.losePull
  repeat' with_reducible first
    | assumption | exact Sound.refl _ | apply Sound.pullEnds | apply Sound.poisonRange | apply Sound.foldl | apply Sound.foldl_fst
    | intro _ | extract_lets | fail_if_no_progress refine Sound.upd ?_ rfl | split

theorem Sound.unqueue {s t : State} (i : PortId) (c : CoreId) (q : QId) (h : Sound s t) : Sound s (State.unqueue t i c q) := by
  unfold State.unqueue
  repeat' with_reducible first
    | assumption | apply Sound.modCore | intro _ | extract_lets | fail_if_no_progress refine Sound.upd ?_ rfl

theorem Sound.dropTxns {s t : State} (c : CoreId) (p : Txn → Bool) (h : Sound s t) : Sound s (State.dropTxns t c p) := by
  unfold State.dropTxns
  repeat' with_reducible first
    | assumption | exact Sound.refl _ | apply Sound.dropTxn | apply Sound.foldl | apply Sound.foldl_fst | intro _

theorem Sound.loseQueue {s : State} (i : PortId) (c : CoreId) {a : State × Nat} (q : QId) (ha : Sound s a.1) :
    Sound s (State.loseQueue i c a q).1 := by
  refine Sound.foldl_fst (fun u r hu => ?_) _ (ha.unqueue _ _ _)
  exact (hu.dropTxns _ _).endRsignal _ _ _ _

theorem Sound.loseRuns {s t : State} (i : PortId) (h : Sound s t) : Sound s (State.loseRuns t i).1 := by
  exact Sound.foldl_fst (fun u c hu => Sound.foldl_fst (fun v q hv => hv.loseQueue _ _ _) _ hu) _ h

theorem Sound.dropRemote {s t : State} (i : PortId) (h : Sound s t) : Sound s (State.dropRemote t i) := by
  unfold State.dropRemote
  repeat' with_reducible first
    | assumption | exact Sound.refl _ | apply Sound.settle | apply Sound.dropTxns | apply Sound.foldl | apply Sound.foldl_fst | intro _

theorem Sound.closePort {s t : State} (i : PortId) (h : Sound s t) : Sound s (State.closePort t i) := by
  unfold State.closePort
  repeat' with_reducible first
    | assumption | exact Sound.refl _ | apply Sound.setField | apply Sound.modPort | apply Sound.forRange | intro _
    | fail_if_no_progress refine Sound.upd ?_ rfl

theorem Sound.recordLost {s t : State} (i : PortId) (why : Nat) (dropped : Nat) (ended : Nat)
    (h : Sound s t) : Sound s (State.recordLost t i why dropped ended) := by
  unfold State.recordLost
  repeat' with_reducible first
    | assumption | apply Sound.setField | apply Sound.record | apply Sound.setLnkState

theorem Sound.lostSignals {s t : State} (i : PortId) (h : Sound s t) : Sound s (State.lostSignals t i) := by
  unfold State.lostSignals
  repeat' with_reducible first
    | assumption | exact Sound.refl _ | apply Sound.linkSignal | apply Sound.forRange | intro _ | extract_lets | split

theorem Sound.linkLost {s t : State} (i : PortId) (why : Nat) (h : Sound s t) : Sound s (State.linkLost t i why) := by
  unfold State.linkLost
  repeat' with_reducible first
    | assumption | apply Sound.losePull | apply Sound.loseRuns | apply Sound.dropRemote | apply Sound.closePort | apply Sound.recordLost
    | apply Sound.lostSignals | extract_lets

theorem Sound.trained {s t : State} (i : PortId) (lanes : Byte) (peer : W16) (pport : BitVec 4)
    (h : Sound s t) : Sound s (State.trained t i lanes peer pport) := by
  unfold State.trained
  repeat' with_reducible first
    | assumption | apply Sound.setPg | apply Sound.setField | apply Sound.modPort | apply Sound.record | apply Sound.setLnkState
    | intro _ | extract_lets | split

theorem Sound.writeLnkCtrl {s t : State} (i : PortId) (v : W32) (h : Sound s t) : Sound s (State.writeLnkCtrl t i v) := by
  unfold State.writeLnkCtrl
  repeat' with_reducible first
    | assumption | apply Sound.setPg | apply Sound.setLnkState | apply Sound.linkLost | extract_lets | split

theorem Sound.readEffect {s t : State} (p : Page) (o : Nat) (h : Sound s t) : Sound s (State.readEffect t p o) := by
  unfold State.readEffect
  repeat' with_reducible first
    | assumption | apply Sound.setPg | apply Sound.modCore | intro _ | extract_lets | fail_if_no_progress refine Sound.upd ?_ rfl
    | split

theorem Sound.readReg {s t : State} (f : FnId) (off : Nat) (h : Sound s t) : Sound s (State.readReg t f off).1 := by
  unfold State.readReg
  repeat' with_reducible first
    | assumption | exact Sound.refl _ | apply Sound.readEffect | refine Sound.of_pair (by assumption) ?_ | apply Sound.foldl
    | apply Sound.foldl_fst | intro _ | extract_lets | fail_if_no_progress refine Sound.upd ?_ rfl | split

theorem Sound.readBar0 {s t : State} (f : FnId) (off : Nat) (size : Nat) (h : Sound s t) : Sound s (State.readBar0 t f off size) := by
  unfold State.readBar0
  repeat' with_reducible first
    | assumption | apply Sound.reply | apply Sound.readReg | refine Sound.of_pair (by assumption) ?_ | extract_lets | split

theorem Sound.writeRw {s t : State} (p : Page) (o : Nat) (v : W32) (h : Sound s t) : Sound s (State.writeRw t p o v) := by
  unfold State.writeRw
  repeat' with_reducible first
    | assumption | apply Sound.setPg | extract_lets

theorem Sound.clearEvt {s t : State} (p : Page) (v : W32) (h : Sound s t) : Sound s (State.clearEvt t p v) := by
  unfold State.clearEvt
  repeat' with_reducible first
    | assumption | apply Sound.setPg | apply Sound.deliver | extract_lets | split

theorem Sound.clearCounters {s t : State} (p : Page) (h : Sound s t) : Sound s (State.clearCounters t p) := by
  unfold State.clearCounters
  repeat' with_reducible first
    | assumption | exact Sound.refl _ | apply Sound.setPg64 | apply Sound.forRange | intro _

theorem Sound.writeCtrl {s t : State} (p : Page) (v : W32) (h : Sound s t) : Sound s (State.writeCtrl t p v) := by
  unfold State.writeCtrl
  repeat' with_reducible first
    | assumption | apply Sound.setField | apply Sound.rise | apply Sound.setFreeze | apply Sound.resetCtx | apply Sound.resetCore
    | extract_lets | fail_if_no_progress refine Sound.upd ?_ rfl | split

theorem Sound.writeHeader {s t : State} (p : Page) (o : Nat) (v : W32) (h : Sound s t) : Sound s (State.writeHeader t p o v) := by
  unfold State.writeHeader
  repeat' with_reducible first
    | assumption | apply Sound.setPg | apply Sound.rise | apply Sound.writeRw | apply Sound.clearEvt | apply Sound.clearCounters
    | apply Sound.writeCtrl | extract_lets | split

theorem Sound.writeCoreFn {s t : State} (i : Nat) (v : W32) (h : Sound s t) : Sound s (State.writeCoreFn t i v) := by
  unfold State.writeCoreFn
  repeat' with_reducible first
    | assumption | exact Sound.refl _ | apply Sound.setField | apply Sound.forRange | intro _ | split

theorem Sound.writeCtx {s t : State} (f : FnId) (c : CoreId) (x : CtxId) (o : Nat) (v : W32)
    (h : Sound s t) : Sound s (State.writeCtx t f c x o v) := by
  unfold State.writeCtx
  repeat' with_reducible first
    | assumption | apply Sound.setField | apply Sound.startSave | apply Sound.writeRw | extract_lets | split

theorem Sound.writeBlock {s t : State} (f : FnId) (p : Page) (o : Nat) (v : W32)
    (h : Sound s t) : Sound s (State.writeBlock t f p o v) := by
  unfold State.writeBlock
  repeat' with_reducible first
    | assumption | apply Sound.setPg | apply Sound.setField | apply Sound.resumeQueue | apply Sound.dbgLatch | apply Sound.hostSignal
    | apply Sound.mbxGo | apply Sound.pullGo | apply Sound.writeLnkCtrl | apply Sound.writeRw | apply Sound.writeCoreFn
    | apply Sound.writeCtx | extract_lets | fail_if_no_progress refine Sound.upd ?_ rfl | split

theorem Sound.flushPending {s t : State} (f : FnId) (h : Sound s t) : Sound s (State.flushPending t f) := by
  unfold State.flushPending
  repeat' with_reducible first
    | assumption | exact Sound.refl _ | apply Sound.sendVector | apply Sound.forRange | intro _ | split

theorem Sound.writeMsix {s t : State} (f : FnId) (k : Nat) (v : W32) (h : Sound s t) : Sound s (State.writeMsix t f k v) := by
  unfold State.writeMsix
  repeat' with_reducible first
    | assumption | apply Sound.modHost | apply Sound.flushPending | intro _ | fail_if_no_progress refine Sound.upd ?_ rfl | split

theorem Sound.writeReg {s t : State} (f : FnId) (off : Nat) (v : W32) (h : Sound s t) : Sound s (State.writeReg t f off v) := by
  unfold State.writeReg
  repeat' with_reducible first
    | assumption | apply Sound.writeHeader | apply Sound.writeBlock | apply Sound.writeMsix | refine Sound.of_pair (by assumption) ?_
    | fail_if_no_progress refine Sound.upd ?_ rfl | split

theorem Sound.writeBar0 {s t : State} (f : FnId) (off : Nat) (size : Nat) (v : W64)
    (h : Sound s t) : Sound s (State.writeBar0 t f off size v) := by
  unfold State.writeBar0
  repeat' with_reducible first
    | assumption | apply Sound.writeReg | split

theorem Sound.hostTmo {s t : State} (wr : Bool) (l : Nat) (h : Sound s t) : Sound s (State.hostTmo t wr l) := by
  unfold State.hostTmo
  repeat' with_reducible first
    | assumption | apply Sound.recordTmo | fail_if_no_progress refine Sound.upd ?_ rfl | split

theorem Sound.hostPoison {s t : State} (dev : DevAns) (as : List Nat) (h : Sound s t) : Sound s (State.hostPoison t dev as) := by
  unfold State.hostPoison
  repeat' with_reducible first
    | assumption | apply Sound.poisonLines

theorem Sound.bar2Read {s t : State} (f : FnId) (off : Nat) (len : Nat) (dev : DevAns)
    (h : Sound s t) : Sound s (State.bar2Read t f off len dev) := by
  unfold State.bar2Read
  repeat' with_reducible first
    | assumption | exact Sound.refl _ | apply Sound.replyAll | apply Sound.reply | apply Sound.countRun | apply Sound.countPoison
    | apply Sound.carrySpan | apply Sound.hostTmo | apply Sound.hostPoison | apply Sound.foldl | apply Sound.foldl_fst | intro _
    | extract_lets | split

theorem Sound.bar2Put {s t : State} (key : Nat) (late : List Nat) (a : Nat) (l : List (Byte × Bool))
    (h : Sound s t) : Sound s (State.bar2Put t key late a l) := by
  unfold State.bar2Put
  repeat' with_reducible first
    | assumption | apply Sound.pkgWrite | apply Sound.carryTo | apply Sound.lateWrite | apply Sound.touchAt | apply Sound.hostTmo
    | extract_lets | split

theorem Sound.bar2Write {s t : State} (f : FnId) (off : Nat) (data : List (Option Byte)) (ep : Bool) (dev : DevAns)
    (h : Sound s t) : Sound s (State.bar2Write t f off data ep dev) := by
  unfold State.bar2Write
  repeat' with_reducible first
    | assumption | exact Sound.refl _ | apply Sound.hostPoison | apply Sound.bar2Put | refine Sound.of_pair (by assumption) ?_
    | apply Sound.foldl | apply Sound.foldl_fst | intro _ | extract_lets | split

theorem Sound.cfgWrite {s t : State} (f : FnId) (r : CfgReg) (v : W64) (h : Sound s t) : Sound s (State.cfgWrite t f r v) := by
  unfold State.cfgWrite
  repeat' with_reducible first
    | assumption | apply Sound.modHost | apply Sound.setVfEn | apply Sound.flushPending | intro _ | extract_lets
    | fail_if_no_progress refine Sound.upd ?_ rfl | split

theorem Sound.configure {s t : State} (f : FnId) (r : CfgReq) (h : Sound s t) : Sound s (State.configure t f r) := by
  unfold State.configure
  repeat' with_reducible first
    | assumption | apply Sound.reply | apply Sound.cfgWrite | split

/-! ## Outcomes -/

/-- A next state is sound. -/
def SoundTo (s : State) (o : Host.Outcome State Fault Refusal) : Prop := ∀ t, o = .next t → Sound s t

theorem SoundTo.next {s t : State} (h : Sound s t) : SoundTo s (.next t) := by
  intro u e; cases e; exact h

theorem SoundTo.when {s t : State} (b : Bool) (h : Sound s t) : SoundTo s (.next (if b then t else s)) := by
  cases b
  · exact .next (.refl s)
  · exact .next h

theorem SoundTo.command (s : State) (c : CoreId) (x : CtxId) (w : Cmd) (op : Nat) : SoundTo s (s.command c x w op) :=
  .when _ (.issueHead _ _ _ _ (.refl s))

theorem SoundTo.unitAct (s : State) (c : CoreId) (u : Nat) {f : State → State} (hf : ∀ t, Sound s t → Sound s (f t)) :
    SoundTo s (s.unitAct c u f) := by
  refine .next ?_
  split
  · exact hf _ (.refl s)
  · split
    · dsimp only
      split
      · exact (Sound.refl s).coreFault c _ _
      · exact .refl s
    · exact .refl s
theorem SoundTo.hostAct {s t : State} (f : FnId) (h : Sound s t) : SoundTo s (s.hostAct f t) := .when _ h
theorem SoundTo.tapAct {s t : State} (h : Sound s t) : SoundTo s (s.tapAct t) := .when _ h

theorem Sound.takeMsg {s t : State} (i : PortId) (vc : BitVec 2) (kind : Byte) (m : Msg) (h : s.takeMsg i vc kind = some (m, t)) :
    Sound s t := by
  unfold State.takeMsg at h
  split at h
  · split at h
    · cases h; exact ((Sound.refl s).modPort i _).oweCredits i _
    · cases h
  · cases h

theorem SoundTo.passMsg (s : State) (i : PortId) (vc : BitVec 2) (kind : Byte) {f : State → Msg → State}
    (hf : ∀ t m, Sound s t → Sound s (f t m)) : SoundTo s (s.passMsg i vc kind f) := by
  refine .when _ ?_
  split
  · exact hf _ _ (Sound.takeMsg i vc kind _ ‹_›)
  · exact .refl s

end Sys2Proof.Machine
end

