-- ==== Sys2Proof/Tests/Slice0.lean ====
section
/-! SUPPORT. Small tests: ill-formed operands, worked examples of the spec, and a witness for the hypotheses of each statement.

A witness shows one state and operands for each clause. Left out is an accepted unlock token (R456): its nonce is a free value, so no
token can be written out. -/

namespace Sys2Proof.Tests
open Sys2Proof Sys2Proof.Machine
set_option Elab.async false

/-! ## States -/

/-- The package after DEV_READY, with the host link up and the controller serving. -/
def up : State :=
  { (State.reset.setPg .pkg PKG_STAT 1) with
    pins := { Pins.reset with perst := false }, host := { HostIf.reset with linkUp := true }, mgmt := { Mgmt.reset with up := true } }

/-- Context 0 of core 0 is READY; a stream of 256 commands, priv, one phase entry, a map entry that may be signalled and waited on. -/
def rdy : State :=
  (((((up.setPg (.ctx 0 0) CTX_CFG 7).setPg (.ctx 0 0) CTX_LEN 0x100).setPg (.seq 0) SEQ_PHASE_CNT 1).setPg (.ctx 0 0) (CTX_MAP 0)
    0xC000_0000).modCtx 0 0 fun t => { t with run := .ready })

/-- A command of the given words. -/
def cmd (w0 w1 w2 w3 : W32) : Cmd := #v[w0, w1, w2, w3, 0, 0, 0, 0]

/-- A unit of core 0 with commands waiting and in execution. -/
def withUnit (s : State) (u : Fin 10) (q e : List Job) : State := s.modCore 0 fun k => { k with units := k.units.set u { queue := q, exec := e } }

/-- A job of context 0 of core 0. -/
def job (w : Cmd) : Job := rdy.headJob 0 0 w

/-! ## Ill-formed operands -/

theorem test_wf_registerWrite : (Instr.registerWrite 0 0 9 0).wf = false ∧ (Instr.registerWrite 0 0 4 0x1_0000_0000).wf = false := by decide
theorem test_wf_highHalfLatchRead : (Instr.highHalfLatchRead 0 0 0).wf = false := by decide
/-- No device of a cellar is late, and none poisons a line. -/
def calmDev : DevAns := { late := [], poison := [] }
theorem test_wf_bar2Read : (Instr.bar2Read 0 0x10_0000_0000 1 false calmDev).wf = false := by decide
theorem test_wf_bar2Write : (Instr.bar2Write 0 0 (List.replicate 513 none) false calmDev).wf = false := by decide +kernel
theorem test_wf_pcieLinkUp : (Instr.pcieLinkUp 8 16).wf = false ∧ (Instr.pcieLinkUp 4 5).wf = false := by decide
theorem test_wf_atticEccUncorr : (Instr.atticEccUncorr 0 0 0 none false []).wf = false := by decide
theorem test_wf_linkTrainingComplete : (Instr.linkTrainingComplete 0 0x55 0 0).wf = false := by decide
theorem test_wf_flitReceive :
    (Instr.flitReceive 0 ⟨true, 0, 0, false, false, 0, 0, 0, 0, List.replicate 497 0⟩).wf = false ∧
      (Instr.flitReceive 0 ⟨true, 0, 0, false, false, 0, 0, 0, 1, []⟩).wf = false := by decide +kernel

def env : StartEnv :=
  { strap := 0, fwRead := false, mcRead := true, cap := #v[0, 0, 0, 0], width := #v[0, 0, 0, 0], speed := #v[false, false, false, false],
    rate := 4, lanes := 16 }

theorem test_wf_startUp : (Instr.startUp { env with lanes := 3 }).wf = false := by decide
theorem test_wf_recover : (Instr.recover .mailbox { env with rate := 0 }).wf = false := by decide
theorem test_wf_stage : (Instr.stage (.i3c 2 0 0 (List.replicate 2049 0))).wf = false := by decide +kernel

/-! ## Known answers of the standards that the spec names -/

/-- FIPS 202: the empty message. -/
theorem test_shake256 : shake256 8 [] = [0x46, 0xB9, 0xDD, 0x2B, 0x0B, 0xA8, 0x8D, 0x13] := by decide +kernel
/-- RFC 8032, 7.4: the key of the first vector, least significant byte first. -/
def edKey : List Byte :=
  toLe 57 0x5bf99800a249752e038f2f49945bfca3394e042fcc3f8a8c52a348e3f60e96c9639f8cfadd349f926cbf3e51c889be32d6108d80cb62a5826c
def edPub : List Byte :=
  toLe 57 0x806125e8afbe1afad16c0fe5f13d78d61b06c7469b7624f1ed7867e9805da70e8a1f0ea7852434a11d6ad46a61ec87e72cfd61b4599b44d75f
set_option maxRecDepth 100000 in
theorem test_ed448_public : edPublic edKey = edPub := by decide +kernel
/-- FIPS 197: an S-box example (5.1.1), the first word after the key of A.3, and a column of appendix B's first round. -/
theorem test_aes_parts :
    sBox 0x53 = 0xED ∧ invSBox 0xED = 0x53 ∧
      (keyWords 1 8 1 [[0x09, 0x14, 0xDF, 0xF4], [0x2D, 0x98, 0x10, 0xA3], [0x3B, 0x61, 0x08, 0xD7], [0x1F, 0x35, 0x2C, 0x07],
        [0x85, 0x7D, 0x77, 0x81], [0x2B, 0x73, 0xAE, 0xF0], [0x15, 0xCA, 0x71, 0xBE], [0x60, 0x3D, 0xEB, 0x10]]).headD [] =
        [0x9B, 0xA3, 0x54, 0x11] ∧
      (mixColumns [2, 3, 1, 1] [0xD4, 0xBF, 0x5D, 0x30]).take 4 = [0x04, 0x66, 0x81, 0xE5] ∧
      (mixColumns [14, 11, 13, 9] [0x04, 0x66, 0x81, 0xE5]).take 4 = [0xD4, 0xBF, 0x5D, 0x30] := by decide +kernel

/-! ## Worked examples of the spec -/

/-- 02, "4-bit activations by 3-bit weights". -/
theorem test_planes_bs4 : planeSum (.bs 4) [3, -2, 1, -4, -1, 2, 3, 0] [5, 13, 7, 10, 2, 6, 15, 3] = 59 := by decide
theorem test_pair_of_59 : pairOf 59 (-5) = { hi := 0x3FEC_0000, lo := 0, sat := false } := by decide +kernel
/-- 02, "a zero point and a crate entry": the plane sum, less 8 times 10. -/
theorem test_planes_bu4 : planeSum (.bu 4) [6, -5, 2, 7] [11, 8, 3, 9] - 8 * 10 = 15 ∧ partialOf [6, -5, 2, 7] [11, 8, 3, 9] 8 = 15 := by decide
theorem test_pair_of_15 : (pairOf 15 (-3)).hi = 0x3FF0_0000 := by decide +kernel
/-- 02, "Two-slice weights". -/
theorem test_slices : sliceVal 12 .low 0xB2E = 46 ∧ sliceVal 12 .high 0xB2E = -5 ∧ weightVal 12 0xB2E = -1234 := by decide
/-- 05, "compensation, rescale and a fused add". -/
theorem test_loft_compensates :
    (Entry.takeAll true { s := 7, c := 7 } false
      [⟨0x4B80_0000, 0, false⟩, ⟨0x3F80_0000, 0, false⟩, ⟨0x3F80_0000, 0, false⟩, ⟨0x3F00_0000, 0, false⟩]).1 =
      { s := 0x4B80_0001, c := 0x3F00_0000 } := by decide +kernel
/-- 06, "one column compressed and multiplied". -/
theorem test_sparse_records :
    ((compressCol 4 [0, 3, 0, 14, 5, 15, 4, 0]).map (recordBits 4)) = [0x38C0D, 0x3D414, 0x0101A] := by decide +kernel
/-- 08, "encoding one TILE". -/
theorem test_tile_fields :
    let w : Cmd := #v[0x0010_2102, 0x4161_0000, 0x02E1_2000, 0x0004_0001, 0x0020_0080, 0x3000_0200, 0, 0]
    opcode w = OP_TILE ∧ flagPw w = true ∧ (tclassOf w).val = 2 ∧ pwidOf w = 0x10 ∧ cf w 1 0 21 = 0x1_0000 ∧ cf w 1 21 3 = 3 ∧
      tileBuf w = 1 ∧ slotOf w = 0 ∧ tileAcc w = true ∧ cf w 2 0 21 = 0x1_2000 ∧ fmtOf (cf w 2 21 6) = some (.bs 8) ∧ tileW w = 4 := by
  decide +kernel
/-- 08, "a shape above plan": the record of the DRAIN. -/
theorem test_shape_over_plan :
    (rdy.setPg (.ctx 0 0) (CTX_SHAPE 1) 140).lateFault 0 0 #v[0x04, 2, 0x0000_0480, 0, 0, 0, 0, 0] Desc.zero 42 =
      some (mkRec 0x0103 0x2004 140 128 42) := by decide +kernel
/-- 12, R302: of two waits, the first needs more than the count. -/
theorem test_waits_in_order :
    let w (n : Nat) (x : CtxId) : Wait :=
      { ctx := x, kind := .wait, vid := 0, word := 5, line := 0, n := n, tclass := 0, remain := none, job := job Cmd.zero, plan := [] }
    let s := (rdy.modCore 0 fun k => { k with waits := [w 2 0, w 1 2] }).putSync 0 5 { rdy.syncAt 0 5 with count := 1 }
    let t := s.applySignal 0 5 1 0x57
    (t.stoWordAt 0 5).data = 0x0001_0057_0000_0000 ∧ ((t.core 0).waits.map (·.ctx)) = [2] ∧
      ((t.applySignal 0 5 1 0x57).stoWordAt 0 5).data = 0x0000_0057_0000_0000 := by decide +kernel
/-- 15, "two instances of one phase". -/
theorem test_two_instances :
    let e : PhaseEntry :=
      { mask := 0xFFFF_0000, offer := 7, pool := 0xFFFF, energy := #v[11600, 9000, 8100, 0], dur := #v[20000, 23500, 36000, 0] }
    let s (p : Nat) : State := (up.setPg .pwr PWR_BUDGET 2100).modPower fun q =>
      { q with samples := [(p, Vector.ofFn fun c => if 16 ≤ c.val ∧ c.val < 32 then 32500000 else 0)] }
    (s 1960000000).choose e.mask e = (0, 0, true) ∧ (s 2090000000).choose e.mask e = (1, 0, true) := by decide +kernel
/-- 09, "one AdamW step". -/
theorem test_adamw :
    let p0 : OptPar :=
      { alg := 0, tinc := true, macc := false, mchk := true, lr := 0x3C00_0000, b1 := 0x3F60_0000, omb1 := 0x3E00_0000, b2 := 0x3F7C_0000,
        omb2 := 0x3C80_0000, eps := 0x3A80_0000, wd := 0, gs := 0x3F80_0000, p1 := 0x3F80_0000, p2 := 0x3F80_0000, lo := 0x3580_0000,
        hi := 0x3B80_0000 }
    let p := p0.advance
    let o := optElem p 0x3F80 0 0x3F00_0000 0 0
    (o.w, o.rho, o.m, o.v, o.dd) = (0x3F7E, 256, 0x3D80_0000, 0x3B80_0000, 0xBBFF_8040) := by decide +kernel

/-! ## Witnesses: the machine, power-on, host -/

theorem witness_StepTakesFront :
    ({ up with pending := [.idcode, .hotReset] } : State).pending = .idcode :: [.hotReset] ∧ up.pending = [] := by decide +kernel
theorem witness_ResetValues : (0 : Nat) < 24 ∧ inCellar 0 = false := by decide
theorem witness_StepKeepsSound :
    Inv { up with pending := [.idcode] } ∧ (∃ t, step { up with pending := [.idcode] } = .next t) := by
  refine ⟨?_, ⟨_, rfl⟩⟩
  show _ = true ∧ _ = true ∧ _ = true
  decide +kernel
theorem witness_QueueAndFusesKept : ∃ t, exec .packageReset up = .next t := ⟨_, rfl⟩
theorem witness_RecordsAndCounters :
    PG_ERR_CODE < 0x1000 ∧ Page.mbx ≠ .pwr ∧ bit (up.pg .pkg PG_CNT_CTRL) 0 = true ∧
      bit ((up.setPg .pkg PG_CNT_CTRL 0).pg .pkg PG_CNT_CTRL) 0 = false := by decide +kernel
theorem witness_PlanesAddUp :
    (Fmt.bs 1).isBlock = true ∧ 1 ≤ (Fmt.bs 1).bits ∧ [(3 : Int), -2, 1, 5].length = [0, 1, 1, 0].length ∧ 4 ∣ [0, 1, 1, 0].length ∧
      (∀ q ∈ [0, 1, 1, 0], q < 2 ^ (Fmt.bs 1).bits) := by decide
/-- An image that cannot be read is rejected with reason 5; with STRAP[3] nothing is read. -/
theorem witness_StartsUp :
    State.reset.pins.perst = true ∧ env.wf = true ∧ ({ env with strap := 8 } : StartEnv).wf = true ∧
      ({ env with strap := 8 } : StartEnv).strap.getLsbD 3 = true ∧ env.strap.getLsbD 3 = false ∧
      (State.reset.verifyFlash 1 env.fwRead).map (·.1) = some 5 ∧ up.alive = true ∧ up.enabled 63 = true ∧ up.pg (.sto 63) STO_INIT = 0 := by
  decide +kernel

/-- Flash with a firmware and a microcode image without a body, signed with that key (R438), and the fuse of its hash. -/
def cellsAt (a : Nat) (l : List Byte) : List Host.Cell := l.zipIdx.map fun (b, i) => (a + i, b)
def signedFlash : State := State.reset.modMgmt fun m =>
  { m with
    flash :=
      cellsAt 0 (toLe 256
        0x105b9fd95f7abeedc8c9bc0409e5be40c533d1a0075b51c2aff9422f511d2c7f3e6ceae900203768583e10fdc81248da228cd9822d559d7780782d1d290c1f923647cd1de8635028e283aa018e8b7597029195e62c55312b0690a0ad6259819e5ddf89b4272ffc3e99dd5eca92581d61f300000000000000806125e8afbe1afad16c0fe5f13d78d61b06c7469b7624f1ed7867e9805da70e8a1f0ea7852434a11d6ad46a61ec87e72cfd61b4599b44d75f0000000000000000000000000000000000000000000000000000000000000000000000000000000000000000000000000000000000000001000100013034424d) ++
      cellsAt 0x100_0000 (toLe 256
        0xd5f5b3377e425639704928e291b0f558af7dc4d3e911ebba54957e94f65391ea58d3b2716c009395b32f4333479d137b89407ea1b1f10d8046d58ed4f548c6275c7f3be689ee5dca87cbfc9fe5afdcbf11523425fa3e591b0fd794ccab7a61acf14d293cdc33d07a44656909a072a86800000000000000806125e8afbe1afad16c0fe5f13d78d61b06c7469b7624f1ed7867e9805da70e8a1f0ea7852434a11d6ad46a61ec87e72cfd61b4599b44d75f0000000000000000000000000000000000000000000000000000000000000000000000000000000000000000000000000000000000000002000100023034424d)
    fuses := { m.fuses with keyHash := m.fuses.keyHash.set 0 (Vector.ofFn fun i : Fin 32 =>
      (toLe 32 0x11c30055b64084fc23c6440442d53d87a8b0078d99f1afa90280c69372d2492a).getD i.val 0) } }
/-- Two accepted images, and an earlier trip. -/
theorem witness_StartsUp_accepted :
    signedFlash.pins.perst = true ∧ env.strap.getLsbD 3 = false ∧ signedFlash.verifyFlash 1 true = none ∧
      bit ((signedFlash.setPg .pwr PWR_TRIP_LOG 0x8000_0000).pg .pwr PWR_TRIP_LOG) 31 = true := by decide +kernel
theorem witness_StartsUp_microcode : signedFlash.verifyFlash 2 env.mcRead = none := by decide +kernel

/-- Virtual functions 1 to 3 are enabled. -/
def virt : State := up.modHost fun h => { h with vfEn := true, numVFs := 3 }
/-- The host link is down. -/
def noLink : State := up.modHost fun h => { h with linkUp := false }
/-- Started, DEV_READY not reached. -/
def early : State := { State.reset with pins := { Pins.reset with perst := false }, host := { HostIf.reset with linkUp := true } }
def cfgW (r : CfgReg) (v : W64) : CfgReq := { reg := r, write := true, value := v }

theorem witness_HostLink :
    (virt.alive = true ∧ virt.devReady = true ∧ virt.recovery = false ∧ virt.host.linkUp = true ∧ virt.fnExists 3 = true ∧ (3 : FnId) ≠ 0) ∧
      (noLink.alive = true ∧ noLink.host.linkUp = false ∧ linkWf 7 16 = true) ∧
      (early.alive = true ∧ early.host.linkUp = true ∧ early.devReady = false) ∧
      (up.devReady = true ∧ up.fnExists 1 = false ∧ up.fnExists 0 = true ∧ up.host.vfEn = false ∧ virt.host.vfEn = true) ∧
      ((cfgW .numVFs 15).value.toNat ≤ 15 ∧ (cfgW .bar2Size 6).value.toNat ≤ 6 ∧ (cfgW .power 3).value.toNat % 4 = 3 ∧
        (cfgW .msixControl 0x8000).write = true ∧ (cfgW .msixControl 0x8000).reg = .msixControl) := by decide +kernel

theorem witness_RegisterWrites :
    up.hostUp 0 = true ∧ up.pageThere (.seq 5) = true ∧ up.mayWrite 0 (.seq 5) = true ∧ plainReg (.seq 5) SEQ_AGE_LIMIT = true ∧
      plainReg (.seq 5) 0x100 = true ∧ plainReg (.seq 5) 0x104 = true ∧ 0x100 % 8 = 0 ∧ virt.hostUp 3 = true ∧
      virt.mayWrite 3 (.seq 5) = false ∧ (∀ p ∈ [Page.pkg, .sec, .ctx 0 3, .mbx], up.pageThere p = true) ∧
      (up.mayWrite 0 (.ctx 0 0) = true ∧ (up.ctx 0 0).run = .halted ∧ (rdy.ctx 0 0).run = .ready ∧ inRun (CTX_MAP 255) 0x400 4 256 = true) ∧
      up.mayWrite 0 .mbx = true ∧ up.mbxBusy = false ∧ (up.setPg .mbx MBX_STAT 1).mbxBusy = true := by decide +kernel
/-- The package is in recovery mode. -/
def inRecovery (s : State) : State := s.setPg .pkg PKG_STAT 3
/-- Function 3 owns core 0. -/
def owned : State := virt.setPg .pkg (PKG_CORE_FN 0) 3
theorem witness_RegisterWrites_guarded :
    (up.pageThere .pkg = true ∧ (∀ x : CtxId, (up.ctx (Fin.ofNat 64 (8 * 0 + 0)) x).run = .halted) ∧
        (rdy.ctx (Fin.ofNat 64 (8 * 0 + 0)) 0).run = .ready ∧ rdy.hostUp 0 = true) ∧
      (∀ p ∈ [Page.ctx 0 0, .sync 0, .eg 0 7, .se 0, .seq 0],
        (up.pageThere p = true ∧ up.mayWrite 0 p = true) ∧ owned.hostUp 3 = true ∧ owned.pageThere p = true ∧ owned.mayWrite 3 p = true) ∧
      (up.recovery = false ∧ up.host.pba = [] ∧ (inRecovery up).hostUp 0 = true ∧ (inRecovery up).recovery = true) ∧
      (up.pageThere (.lnk 15) = true ∧ up.mayWrite 0 (.lnk 15) = true) := by decide +kernel
/-- An OPT of this ac has written monitor 5. -/
def monAcOf : State := up.modCore 63 fun k => { k with monAc := [{ n := 5, usq := 1, wsq := 2, ratio := 3, stat := 4, latched := false }] }
theorem witness_ReadsWithEffects_monitor :
    (∀ o ∈ (up.core 63).monAc, o.n ≠ 5) ∧
      (monAcOf.core 63).monAc.find? (fun o => o.n == 5) = some { n := 5, usq := 1, wsq := 2, ratio := 3, stat := 4, latched := false } ∧
      monAcOf.hostUp 0 = true ∧ monAcOf.mayRead 0 (.fu 63) (FU_MON_STAT 5) = true := by decide +kernel
theorem witness_ReadsWithEffects :
    up.hostUp 0 = true ∧ up.recovery = false ∧ up.pageThere (.lnk 15) = true ∧ up.mayRead 0 (.lnk 15) PG_ERR_CODE = true ∧
      up.mayRead 0 (.sto 0) (PG_CNT 0) = true ∧ lowHalf (.sto 0) (PG_CNT 0) = true ∧ up.high = [] ∧
      (({ up with high := [((Page.sto 0).base + PG_CNT 0 + 4, 7)] } : State).high.find? fun e => e.1 == (Page.sto 0).base + (PG_CNT 0 + 4)) =
        some ((Page.sto 0).base + (PG_CNT 0 + 4), 7) ∧
      up.mayRead 0 (.sto 0) (PG_CNT 0 + 4) = true ∧ up.enabled 63 = true ∧ up.mayRead 0 (.fu 63) (FU_MON_STAT 63) = true ∧
      up.mayRead 0 (.sto 63) STO_CE_ADDR = true := by decide +kernel

/-- BAR2 window 0 of function 0 reaches the first bytes of the attic; nothing reaches the last window. -/
def win : State := up.setPg .pkg (PKG_B2W 0 0 + 4) 1

theorem witness_Bar2 :
    win.hostUp 0 = true ∧ win.recovery = false ∧ 100 + 2 ≤ win.bar2Bytes 0 ∧ (∀ i, i < 2 → (win.bar2Map 0 (100 + i)).isSome = true) ∧
      win.bar2Map 0 (win.bar2Bytes 0 - 1) = none ∧ inCellar 100 = false ∧ win.bar2Map 0 101 = some 101 ∧ (∀ i, i < 2 → win.bar2Map 0 (100 + i) ≠ some 99) ∧
      1 ≤ [(0 : Byte), 1].length ∧ [(0 : Byte), 1].length ≤ 512 := by decide +kernel

/-! ## Witnesses: sequencer commands -/

/-- A command of each opcode that passes every check in `rdy`. -/
def good (op : Nat) : Cmd := if op = OP_TILE ∨ op = OP_STILE then cmd 0 0 0x02E0_0000 0 else Cmd.zero

theorem witness_UnitCommandsIssue : ∀ r ∈ seqRows, rdy.clears 0 0 (withOpcode (good r.1) r.1) = true := by decide +kernel
/-- An RSIGNAL of one line, to port 0. -/
def farSig : Cmd := withOpcode (cmd 0 0 0 1) OP_RSIGNAL
theorem witness_UnitCommandsIssue_lost :
    rsBytes farSig ≠ 0 ∧ rdy.clears 0 0 farSig = true ∧ (unitOf farSig).isSome = true ∧ rdy.linkUp (rsPort farSig) = false ∧
      rsBytes (withOpcode Cmd.zero OP_RSIGNAL) = 0 ∧ (rdy.setLnkState 0 LNK_UP).linkUp (rsPort farSig) = true ∧
      (rdy.setLnkState 0 LNK_UP).clears 0 0 farSig = true := by decide +kernel
theorem witness_IssueDisturbsNothing :
    rdy.calm 0 = true ∧ ∀ op ∈ [OP_TBUILD, OP_TILE, OP_STILE, OP_MOVE, OP_FILL, OP_COPY, OP_XPOSE, OP_RSIGNAL],
      rdy.clears 0 0 (withOpcode (good op) op) = true ∧ (unitOf (withOpcode (good op) op)).isSome = true ∧
        unitOf (withOpcode (good op) op) ≠ some 9 := by decide +kernel

/-- Context 1 of core 0 is READY, with the map of context 0. -/
def rdy1 : State := (rdy.setPg (.ctx 0 1) (CTX_MAP 0) 0xC000_0000).modCtx 0 1 fun t => { t with run := .ready }
theorem witness_NoOpCommands :
    rdy.clears 0 0 (withOpcode Cmd.zero OP_NOP) = true ∧ Cmd.zero[2] = 0 ∧ rdy.clears 0 0 (withOpcode Cmd.zero OP_RERUN) = true ∧
      (1 : CtxId) ≠ 0 ∧ rdy1.clears 0 1 (withOpcode Cmd.zero OP_PHASE) = true := by decide +kernel

/-- ID 0 of context 0 names word 5 of core 0, ID 1 word 5 of core 1; word 5 of core 0 holds count 2. -/
def syn : State :=
  { ((rdy.setPg (.ctx 0 0) (CTX_MAP 0) 0x8000_0005).setPg (.ctx 0 0) (CTX_MAP 1) 0x8100_0005) with
    mem := { Mem.reset with data := [(stoBase 0 + 40, 2)], fe := [stoWord 0 5] } }
def sigCmd (vid n : W32) : Cmd := cmd 0 vid n 0
/-- A wait of context 0 for n on word 5. -/
def await (n : Nat) : Wait :=
  { ctx := 0, kind := .wait, vid := 0, word := 5, line := 0, n := n, tclass := 0, remain := none, job := job Cmd.zero, plan := [] }
/-- Core 0 is in the mask of line 0. -/
def masked (s : State) : State := s.setPg .pkg (RAF_MASK 0) 1
/-- A TILE in flight, which a FENCE of group 0 names. -/
def flying : State := rdy.modCore 0 fun k => { k with live := [(7, 0, 0)] }
theorem witness_SyncCommands :
    (syn.clears 0 0 (withOpcode (sigCmd 0 0) OP_SIGNAL) = true ∧ syn.clears 0 0 (withOpcode (sigCmd 0 1) OP_SIGNAL) = true ∧
      syn.clears 0 0 (withOpcode (sigCmd 1 1) OP_SIGNAL) = true ∧ syn.clears 0 0 (withOpcode (sigCmd 0 0xFFFF_FFFE) OP_SIGNAL) = true ∧
      syn.clears 0 0 (withOpcode (sigCmd 0 0xFFFF_FFFD) OP_SIGNAL) = true ∧ syn.clears 0 0 (withOpcode (sigCmd 1 0xFFFF_FFFD) OP_SIGNAL) = true) ∧
      mapCore (syn.mapEntry 0 0 0) = 0 ∧ mapCore (syn.mapEntry 0 0 1) = 1 ∧ (sigCmd 0 1)[2].msb = false ∧ (sigCmd 0 0xFFFF_FFFE)[2].msb = true ∧
      (let i := syn.seqIssued 0 0 (withOpcode (sigCmd 0 0xFFFF_FFFE) OP_SIGNAL)
       0x1_0000_0000 - (sigCmd 0 0xFFFF_FFFE)[2].toNat ≤ (i.syncAt 0 5).count ∧ (i.syncAt 0 5).count < 0x1_0000_0000 - (sigCmd 0 0xFFFF_FFFD)[2].toNat) ∧
      ((syn.core 0).queueOn 5 = [] ∧ (await 2).n ≤ (syn.syncAt 0 (await 2).word).count ∧ (syn.syncAt 0 (await 3).word).count < (await 3).n) ∧
      (syn.clears 0 0 (withOpcode (sigCmd 0 0) OP_WAIT) = true ∧ syn.clears 0 0 (withOpcode (sigCmd 0 2) OP_WAIT) = true ∧
        syn.clears 0 0 (withOpcode (sigCmd 0 3) OP_WAIT) = true) ∧
      ((syn.seqIssued 0 0 (withOpcode (sigCmd 0 2) OP_WAIT)).waitWord 0 (await 2)).2 = true ∧
      ((syn.seqIssued 0 0 (withOpcode (sigCmd 0 3) OP_WAIT)).waitWord 0 (await 3)).2 = false ∧
      (rdy.clears 0 0 (withOpcode Cmd.zero OP_BARRIER) = true ∧ rdy.inMask 0 0 = false ∧
        (masked rdy).clears 0 0 (withOpcode Cmd.zero OP_BARRIER) = true ∧ (masked rdy).inMask 0 0 = true) ∧
      (rdy.clears 0 0 (withOpcode (cmd 0 1 0 0) OP_FENCE) = true ∧ (rdy.core 0).live = [] ∧
        flying.clears 0 0 (withOpcode (cmd 0 1 0 0) OP_FENCE) = true ∧ fenceNames (withOpcode (cmd 0 1 0 0) OP_FENCE) 0 = true) := by
  decide +kernel

/-- A LOOP of count 3 over 2 commands, one of count 0, and a JUMP to offset 9. -/
theorem witness_LoopsAndJumps :
    rdy.clears 0 0 (withOpcode (cmd 0 3 0 2) OP_LOOP) = true ∧
      (rdy.atHead 0 0 (withOpcode (cmd 0 3 0 2) OP_LOOP)).shapeOf 0 0 (withOpcode (cmd 0 3 0 2) OP_LOOP) 4 = 3 ∧ cf (cmd 0 3 0 2) 3 0 24 ≠ 0 ∧
      rdy.clears 0 0 (withOpcode Cmd.zero OP_LOOP) = true ∧ cf Cmd.zero 3 0 24 = 0 ∧
      rdy.clears 0 0 (withOpcode (cmd 0 9 0 0) OP_JUMP) = true := by decide +kernel

/-- Levels 2 and 1 end at offset 9: 2 has one pass left, 1 has three. -/
theorem witness_LoopEnds :
    let ls : List Loop := [⟨2, 5, 9, 1⟩, ⟨1, 3, 9, 3⟩, ⟨0, 1, 9, 4⟩]
    ls = [⟨2, 5, 9, 1⟩] ++ ⟨1, 3, 9, 3⟩ :: [⟨0, 1, 9, 4⟩] ∧ (∀ k ∈ [(⟨2, 5, 9, 1⟩ : Loop)], k.stop = 9 → k.count ≤ 1) ∧ 1 < 3 ∧
      (∀ l ∈ ls, l.stop = 8 → l.count ≤ 1) := by decide

/-- A RERUN of tag 4 with threshold 2 holds context 0; the tag has counted 1, or 2. -/
def held (w3 : W32) (n : W32) : State :=
  (rdy.setPg (.fu 0) (FU_QSAT_CNT 4) n).modCtx 0 0 fun t => { t with run := .hold, hold := .rerun (job (withOpcode (cmd 0 4 2 w3) OP_RERUN)) }
theorem witness_HoldingCommands :
    rdy.clears 0 0 (withOpcode Cmd.zero OP_HALT) = true ∧ rdy.clears 0 0 (withOpcode (cmd 0 4 2 9) OP_RERUN) = true ∧
      rdy.clears 0 0 (withOpcode Cmd.zero OP_PHASE) = true ∧
      ((rdy.setPg (.ctx 0 0) CTX_PC 0x100).mayIssue 0 0 = true ∧ (rdy.setPg (.ctx 0 0) CTX_PC 0x100).fetch 0 0 = .theEnd) ∧
      ((job Cmd.zero).ctx = 0 ∧ (job Cmd.zero).sig = none ∧ (rdy.ctx 0 0).run ≠ .frozen) ∧
      (let j := job (withOpcode (cmd 0 4 2 9) OP_RERUN)
       let j0 := job (withOpcode (cmd 0 4 2 0) OP_RERUN)
       rerunPooled j.cmd = false ∧ ((held 9 1).ctx 0 j.ctx).hold = .rerun j ∧ ((held 9 1).core 0).alone j.ctx j.uid = true ∧
        ((held 9 1).ctx 0 j.ctx).resetting = false ∧ ((held 9 1).pg (.fu 0) (FU_QSAT_CNT (satTag j.cmd))).toNat < j.cmd[2].toNat ∧
        j.cmd[2].toNat ≤ ((held 9 2).pg (.fu 0) (FU_QSAT_CNT (satTag j.cmd))).toNat ∧ cf j.cmd 3 0 24 ≠ 0 ∧ cf j0.cmd 3 0 24 = 0) := by
  decide +kernel

/-- A stream that lies nowhere; context 0 has found a fault. -/
def lost : State := rdy.setPg (.ctx 0 0) CTX_BASE_HI 0xF000
def found : State := rdy.modCtx 0 0 fun t => { t with hold := .fault (mkRec 0x0101 0 0 0 0) 3 }
theorem witness_HoldingCommands_faults :
    lost.mayIssue 0 0 = true ∧ lost.fetch 0 0 = .outside 0xF000_0000_0000 ∧ found.coreUp 0 = true ∧ (found.core 0).resetting = false ∧
      (found.ctx 0 0).hold = .fault (mkRec 0x0101 0 0 0 0) 3 ∧ (found.core 0).busy 0 = false := by decide +kernel

/-- The queue of group 0 is full. -/
def fullQ : State := withUnit rdy 0 (List.replicate 4 (job (withOpcode Cmd.zero OP_TBUILD))) []
/-- Context 0 without priv. -/
def poor : State := rdy.setPg (.ctx 0 0) CTX_CFG 3
theorem witness_CommandsNotIssued :
    up.mayIssue 0 0 = false ∧
      (rdy.mayIssue 0 0 = true ∧ ((fullQ.atHead 0 0 (withOpcode Cmd.zero OP_TBUILD)).core 0).holdsHead 0 (withOpcode Cmd.zero OP_TBUILD) = true) ∧
      (let w := withOpcode Cmd.zero OP_TILE
       ((rdy.atHead 0 0 w).core 0).holdsHead 0 w = false ∧ ((rdy.atHead 0 0 w).earlyFault 0 0 w ((rdy.atHead 0 0 w).readDesc 0 w) none).isSome = true) ∧
      (let w := withOpcode (cmd 0 0x0400_0000 0x02E0_0000 0) OP_TILE
       let h := rdy.atHead 0 0 w
       h.earlyFault 0 0 w (h.readDesc 0 w) none = none ∧ flagPw w = false ∧ (h.lateFault 0 0 w (h.readDesc 0 w) 0).isNone = false) ∧
      (let w := withOpcode (cmd 0x0000_0100 0 0x02E0_0000 0) OP_TILE
       let h := rdy.atHead 0 0 w
       flagPw w = true ∧ h.earlyFault 0 0 w (h.readDesc 0 w) none = none ∧ (h.ctx 0 0).pre = false ∧
        (h.waitWord 0 (h.preWaitOf 0 0 w 0)).2 = false ∧ ((syn.atHead 0 0 w).waitWord 0 ((syn.atHead 0 0 w).preWaitOf 0 0 w 0)).2 = true) ∧
      (rdy.mem.poison = [] ∧ opcodes.contains 9 = false ∧ bit (poor.pg (.ctx 0 0) CTX_CFG) 2 = false ∧
        fieldFail { phaseCnt := (poor.pg (.seq 0) SEQ_PHASE_CNT).toNat, ctxLen := (poor.pg (.ctx 0 0) CTX_LEN).toNat } (withOpcode Cmd.zero OP_XPOSE)
          Desc.zero = none) ∧
      (let w : Cmd := withOpcode #v[0, 0, 0x02E0_0000, 0, 0x0000_0200, 0, 0, 0] OP_TILE
       cf w 4 9 4 = 1 ∧ cf w 4 0 9 < ((rdy.setPg (.ctx 0 0) (CTX_SHAPE 0) 7).pg (.ctx 0 0) (CTX_SHAPE (cf w 4 9 4 - 1))).toNat) ∧
      (let w := withOpcode (cmd 0 0x0400_0000 0x02E0_0000 0) OP_TILE
       rdy.shapeFail 0 0 w 0 = none ∧ 1 <<< slotLog (rdy.loftCfg 0 (cf w 1 21 3)) ≤ cf w 1 25 5) ∧
      (lost.mayIssue 0 0 = true ∧ (∃ a, lost.fetch 0 0 = .outside a)) ∧
      (found.coreUp 0 = true ∧ (found.core 0).resetting = false ∧ (found.ctx 0 0).hold = .fault (mkRec 0x0101 0 0 0 0) 3 ∧ (found.core 0).busy 0 = false ∧
        ((found.modCore 0 fun k => { k with live := [(7, 0, 0)] }).core 0).busy 0 = true) := by
  refine ⟨?_, ?_, ?_, ?_, ?_, ?_, ?_, ?_, ⟨?_, ⟨0xF000_0000_0000, ?_⟩⟩, ?_⟩ <;> decide +kernel

/-- Slots and rows of an STILE and a DRAIN at the partition's last value, and beyond it. -/
theorem witness_CommandsNotIssued_loft :
    bits (rdy.pg (unitPage 0 8) LOFT_CFG) 0 3 = 1 ∧ bits (rdy.pg (unitPage 0 0) LOFT_CFG) 0 3 = 1 ∧
      (∀ op ∈ [OP_STILE, OP_DRAIN], rdy.shapeFail 0 0 (withOpcode (cmd 0 0 0x02E0_0000 0) op) 0 = none) ∧
      (let w := withOpcode (cmd 0 0x0200_0000 0x02E0_0000 0) OP_STILE
       cf w 1 25 5 = 1 ∧ rdy.loftFail 0 0 w = none) ∧
      (let w := withOpcode (cmd 0 0x0000_0020 0 0) OP_DRAIN
       cf w 1 0 4 = 0 ∧ cf w 1 4 5 = 2 ∧ (rdy.loftFail 0 0 w).isSome = true) ∧
      (let w := withOpcode (cmd 0 0x0200_0000 0x02E0_0000 0) OP_TILE
       let q := rdy.modCtx 0 0 fun t => { t with head := some w, pre := true }
       ((q.atHead 0 0 w).ctx 0 0).pre = true ∧ (q.atHead 0 0 w).headFault 0 0 w (q.headDesc 0 0 w) = none) := by decide +kernel

/-- The largest M at n = 1, and one more: 128 of a TILE in group 0, 64 of an STILE. -/
theorem witness_CommandsNotIssued_largest :
    let w (op : Nat) (m : W32) : Cmd := withOpcode #v[0, 0, 0x02E0_0000, 0, m, 0, 0, 0] op
    bits (rdy.pg (unitPage 0 8) LOFT_CFG) 0 3 = 1 ∧ bits (rdy.pg (unitPage 0 0) LOFT_CFG) 0 3 = 1 ∧
      (∀ p ∈ [(OP_TILE, (128 : W32)), (OP_TILE, 129), (OP_STILE, 64), (OP_STILE, 65)],
        rdy.shapeOf 0 0 (w p.1 p.2) 0 = p.2.toNat ∧ rdy.shapeFail 0 0 (w p.1 p.2) 0 = none) ∧
      rdy.loftFail 0 0 (w OP_TILE 128) = none ∧
      rdy.lateFault 0 0 (w OP_TILE 129) Desc.zero 0 = some (mkRec 0x0104 (OP_TILE + 1 <<< 18) 129 0 0) ∧
      rdy.loftFail 0 0 (w OP_STILE 64) = none ∧
      rdy.lateFault 0 0 (w OP_STILE 65) Desc.zero 0 = some (mkRec 0x0104 (OP_STILE + 8 <<< 8 + 1 <<< 18) 65 0 0) := by decide +kernel
/-- A passed pre-wait that still has the descriptor read before it. -/
theorem witness_CommandsNotIssued_descriptor :
    let v := withOpcode (good OP_FILL) OP_FILL
    let s := rdy.modCtx 0 0 fun t => { t with head := some v, pre := true, desc := some Desc.zero }
    ((s.atHead 0 0 v).ctx 0 0).pre = true ∧ ((s.atHead 0 0 v).ctx 0 0).desc = some Desc.zero ∧
      (s.atHead 0 0 v).headFault 0 0 v (s.headDesc 0 0 v) = none := by decide +kernel

/-- Context 0 has issued last, and context 1 has its turn. -/
def turn : State := rdy.modCore 0 fun k => { k with arb := { k.arb with last := some 1, since := 1 } }
theorem witness_IssueArbitration :
    up.coreUp 0 = true ∧ (up.acReady 0).granted 0 = none ∧ (∃ b, (rdy.acReady 0).granted 0 = some (0, b)) ∧
      ((rdy.acReady 0).bump (.seq 0) 2 0 |>.core 0).arb.last = none ∧ ((turn.acReady 0).core 0).arb.last = some 1 ∧
      ((turn.acReady 0).core 0).arb.since < 8 ∧ (∃ b, (turn.acReady 0).granted 0 = some (0, b)) := by
  refine ⟨?_, ?_, ⟨false, ?_⟩, ?_, ?_, ?_, ⟨false, ?_⟩⟩ <;> decide +kernel

/-- The queue of context 0's head has filled up since it was fetched. -/
def shutOut : State := fullQ.modCtx 0 0 fun t => { t with head := some (withOpcode Cmd.zero OP_TBUILD) }
theorem witness_IssueArbitration_loser :
    shutOut.eligible 0 0 = true ∧ (shutOut.core 0).holdsHead 0 (withOpcode Cmd.zero OP_TBUILD) = true ∧
      (rdy.core 0).holdsHead 0 (withOpcode Cmd.zero OP_TBUILD) = false := by decide +kernel

/-- Context 1 has a TBUILD for group 0, and the grant that stands, with one place left in the queue, or two. -/
def lastPlace (n : Nat) : State :=
  (withUnit ((rdy1.modCtx 0 0 fun t => { t with head := some (withOpcode Cmd.zero OP_TBUILD) }).modCtx 0 1 fun t =>
    { t with head := some (withOpcode Cmd.zero OP_TBUILD) }) 0 (List.replicate (4 - n) (job (withOpcode Cmd.zero OP_TBUILD))) []).modCore 0 fun k =>
      { k with arb := { k.arb with grant := some 1 } }
theorem witness_IssueArbitration_stands :
    ((lastPlace 1).core 0).arb.grant = some 1 ∧ (1 : CtxId) ≠ 0 ∧ (lastPlace 1).eligible 0 1 = true ∧ (lastPlace 1).eligible 0 0 = true ∧
      ((lastPlace 1).ctx 0 1).head = some (withOpcode Cmd.zero OP_TBUILD) ∧ unitOf (withOpcode Cmd.zero OP_TBUILD) = some 0 ∧
      ((lastPlace 1).core 0).freeSlots 0 = 1 ∧ (lastPlace 1).shutOut 0 0 (withOpcode Cmd.zero OP_TBUILD) = true ∧
      ((lastPlace 2).core 0).freeSlots 0 = 2 ∧ (lastPlace 2).shutOut 0 0 (withOpcode Cmd.zero OP_TBUILD) = false ∧
      (rdy.core 0).arb.grant = none := by decide +kernel

/-- Contexts 0 and 1 are eligible, 1 for longer than SEQ_AGE_LIMIT. -/
def old : State := (rdy1.setPg (.seq 0) SEQ_AGE_LIMIT 4).modCore 0 fun k => { k with arb := { k.arb with age := #v[2, 9, 0, 0] } }
theorem witness_GrantIsFair :
    (∀ x : CtxId, (old.core 0).arb.age[x] ≠ 0 → old.eligible 0 x = true) ∧ (old.core 0).arb.grant = none ∧
      old.pg (.seq 0) SEQ_AGE_LIMIT ≠ 0 ∧ (old.pg (.seq 0) SEQ_AGE_LIMIT).toNat + 1 ≤ (old.core 0).arb.age[(1 : CtxId)] := by decide +kernel

/-! ## Witnesses: engines, finishing unit, DMA -/

def jBuild : Job := job (withOpcode Cmd.zero OP_TBUILD)
/-- A TILE of one vector, one channel, and 128 elements, or a run-time K of 0. -/
def tileCmd (k : W32) : Cmd := #v[0, 0, 0x02E0_0000, 0x0001_0000, 0x0000_2001, k, 0, 0]
def jTile (k : W32) : Job := job (withOpcode (tileCmd k) OP_TILE)
def jNoTile : Job := job (withOpcode (good OP_TILE) OP_TILE)
def jStile (k : W32) : Job := job (withOpcode (tileCmd k) OP_STILE)
/-- DRAINs of group 0: of no shape, and of one vector and channel in each form. -/
def drainCmd (form : W32) : Cmd := cmd 0 (form <<< 9) 0x0000_2001 0
def jDrain (form : W32) : Job := { job (withOpcode (drainCmd form) OP_DRAIN) with desc := #v[0, 0, 0, 0, 0, 0, 1, 0, 0, 0, 0, 0, 0, 0, 0, 0] }
def jNoDrain : Job := job (withOpcode Cmd.zero OP_DRAIN)
/-- The first word of core 0's storeroom is poisoned. -/
def bad (s : State) : State := { s with mem := { Mem.reset with poison := [stoWord 0 0] } }

/-- A TILE of number 0 in execution reads the buffer that a TBUILD of number 1 writes. -/
def reads0 : State := withUnit rdy 0 [{ jBuild with uid := 1 }] [jTile 128]
/-- A two-slice TBUILD, at the end of its low sweep or between its sweeps. -/
def jTwo (n : Nat) : Job := { job (withOpcode (cmd 0 0 0x000B_0000 0) OP_TBUILD) with stage := n }
theorem witness_UnitStarts_builds :
    rdy.unitUp 0 = true ∧
      (let s := withUnit rdy 0 [jBuild] []
       ((s.core 0).unit 0).exec.find? isBuild = none ∧ ((s.core 0).unit 0).queue = jBuild :: [] ∧ isBuild jBuild = true ∧
        ((s.core 0).unit 0).bufFree jBuild (buildBuf jBuild.cmd) = true) ∧
      (let j : Job := { jBuild with uid := 1 }
       let e := reads0.stepPass 0 0
       ((reads0.core 0).unit 0).exec.find? isBuild = none ∧ ((reads0.core 0).unit 0).queue = j :: [] ∧
        ((reads0.core 0).unit 0).bufFree j (buildBuf j.cmd) = false ∧ e.unitUp 0 = true ∧ ((e.core 0).unit 0).bufFree j (buildBuf j.cmd) = true) ∧
      (let s := withUnit rdy 0 [] [jTwo 1]
       ((s.core 0).unit 0).exec.find? isBuild = some (jTwo 1) ∧ s.jobPoison 0 (jTwo 1) = none ∧ ((bad s).jobPoison 0 (jTwo 1)).isSome = true ∧
        ((s.core 0).unit 0).bufFree (jTwo 1) (1 - buildBuf (jTwo 1).cmd) = true) ∧
      (((withUnit rdy 0 [] [jTwo 2]).core 0).unit 0).exec.find? isBuild = some (jTwo 2) := by decide +kernel

/-- A TILE that waits for its evaluation, in the mode that the skip registers of core 0 give. -/
def guarded (ctl : W32) : State := (withUnit rdy 0 [{ jTile 128 with guard := .waiting }] []).setPg (.fu 0) FU_SKIP_CTL ctl
theorem witness_UnitStarts_tiles :
    (isTile (jTile 128) = true ∧ (guarded 1).skipMode 0 ≠ MODE_OFF ∧ (guarded 0).skipMode 0 = MODE_OFF) ∧
      (let s := withUnit rdy 0 [jTile 128] []
       (s.core 0).canStart 0 (jTile 128) = true ∧ ((s.core 0).unit 0).setReady (jTile 128) = true) ∧
      (let s := withUnit rdy 8 [jStile 128] []
       (s.core 0).canStart 8 (jStile 128) = true ∧ ((s.core 0).unit 8).setReady (jStile 128) = true) ∧
      (let j : Job := { jTile 128 with uid := 5 }
       (((withUnit rdy 0 [j] [{ jBuild with stage := 3 }]).core 0).unit 0).setReady j = false) ∧
      (let j : Job := { jTile 128 with uid := 5 }
       let s := withUnit rdy 0 [j] [jTile 128]
       j.guard ≠ .waiting ∧ (s.core 0).canStart 0 j = false ∧ ((s.clearWay 0 0 j).core 0).canStart 0 j = true) := by decide +kernel
theorem witness_UnitStarts_drains :
    isDrain (jDrain 0) = true ∧
      (let s := withUnit (withUnit rdy 0 [] [jTile 128]) 9 [{ jDrain 0 with uid := 1 }] []
       ((s.core 0).unit 9).exec = [] ∧ ((s.core 0).unit 9).queue = { jDrain 0 with uid := 1 } :: [] ∧
        (s.core 0).drainReady { jDrain 0 with uid := 1 } = false) ∧
      (let s := (withUnit rdy 9 [jDrain 0] []).setPg (.eg 0 0) SLOT_SAT 1
       (s.core 0).drainReady (jDrain 0) = true ∧ drainNoop (jDrain 0) = false ∧ cf (jDrain 0).cmd 1 9 2 ≠ 2 ∧
        s.slotSat 0 (engUnit (jDrain 0).cmd) (slotOf (jDrain 0).cmd) = true ∧
        rdy.slotSat 0 (engUnit (jDrain 0).cmd) (slotOf (jDrain 0).cmd) = false) ∧
      drainNoop jNoDrain = true ∧ cf (jDrain 2).cmd 1 9 2 = 2 := by decide +kernel

/-- A two-slice TILE of one vector and channel. -/
def jPass (n : Nat) : Job :=
  { job (withOpcode #v[0, 0, 0x02E0_0000, 0x0001_0000, 0x0000_2001, 0xB000_0080, 0, 0] OP_TILE) with uid := 5, stage := n }
theorem witness_EngineCompletes :
    (let j : Job := { jBuild with stage := 3 }
     (((withUnit rdy 0 [] [j]).core 0).unit 0).exec.find? isBuild = some j ∧ (((withUnit rdy 8 [] [j]).core 0).unit 8).exec.find? isBuild = some j ∧
      (withUnit rdy 0 [] [j]).jobPoison 0 j = none ∧ ((bad (withUnit rdy 0 [] [j])).jobPoison 0 j).isSome = true) ∧
      (let s := withUnit rdy 0 [] [jTile 128]
       ((s.core 0).unit 0).exec.find? reading = some (jTile 128) ∧ ((s.core 0).unit 0).exec.find? isTile = some (jTile 128) ∧
        ((s.core 0).unit 0).passReady (jTile 128) = true ∧ s.jobPoison 0 (jTile 128) = none ∧ ((bad s).jobPoison 0 (jTile 128)).isSome = true ∧
        (jTile 128).stage + 1 = passes (jTile 128)) ∧
      (tileNoop (jTile 128) = false ∧ (jTile 128).k ≠ 0 ∧ (jTile 0).k = 0 ∧ tileNoop (jTile 0) = false ∧ tileNoop jNoTile = true ∧
        reading { jTile 128 with stage := 1 } = false) ∧
      (let s := withUnit rdy 8 [] [jStile 128]
       ((s.core 0).unit 8).exec.find? reading = some (jStile 128) ∧ ((s.core 0).unit 8).passReady (jStile 128) = true ∧
        s.jobPoison 0 (jStile 128) = none ∧ ((bad s).jobPoison 0 (jStile 128)).isSome = true) := by decide +kernel
/-- A two-slice TILE before its first pass, and before its second with an earlier TBUILD that has still to write the other buffer. -/
theorem witness_EngineCompletes_second :
    (jPass 0).stage + 2 = passes (jPass 0) ∧ reading (jPass 1) = true ∧ (((withUnit rdy 0 [] [jPass 0]).core 0).unit 0).passReady (jPass 0) = true ∧
      (((withUnit rdy 0 [] [jTwo 1, jPass 1]).core 0).unit 0).passReady (jPass 1) = false ∧
      (((withUnit rdy 0 [] [jPass 1]).core 0).unit 0).passReady (jPass 1) = true := by decide +kernel

theorem witness_PairsReachTheLoft :
    1 < 1 <<< slotLog 1 ∧ [(⟨List.replicate 128 1, [(127, 0)]⟩ : Vec)].length ≤ maxM 0 1 ∧ 7 ∈ activeEngines 256 := by decide

/-- A guarded TILE of one block, or of two, whose TBUILD was number 7. -/
def jGuard (n : Nat) : Job := { jTile 128 with guard := .waiting, key := some (7, stoBase 0), n := n }
def eval (n : Nat) : State := (withUnit rdy 0 [jGuard n] []).setPg (.fu 0) FU_SKIP_CTL 1
theorem witness_GuardedEvaluation :
    (∀ n ∈ [128, 256], (((eval n).core 0).unit 0).queue.find? (fun j => j.guard == .waiting) = some (jGuard n) ∧
      (eval n).firstPoison ((eval n).evalReads 0 (jGuard n)) = none) ∧
      (eval 1).skipMode 0 ≠ MODE_OFF ∧ ((eval 1).setPg (.fu 0) FU_SKIP_CTL 0).skipMode 0 = MODE_OFF ∧ ((eval 1).core 0).live = [] ∧
      (((eval 1).modCore 0 fun k => { k with live := [(7, 0, 0)] }).core 0).live = [(7, 0, 0)] ∧
      ((bad (eval 1)).firstPoison ((bad (eval 1)).evalReads 0 (jGuard 1))).isSome = true := by decide +kernel

def jFin (cnt : Nat) : Job := { job (withOpcode Cmd.zero OP_FIN) with cnt := cnt }
def jOpt (q : W32) : Job := { job (withOpcode #v[0, 0, 0, 0, 0, 0, 0, q] OP_OPT) with cnt := 1 }
theorem witness_FinishingUnitCompletes_drain :
    ((withUnit rdy 9 [] [jDrain 0]).core 0).unit 9 = { queue := [], exec := [jDrain 0] } ∧
      (withUnit rdy 9 [] [jDrain 0]).jobPoison 0 (jDrain 0) = none ∧ (withUnit rdy 9 [] [jDrain 1]).jobPoison 0 (jDrain 1) = none ∧
      (withUnit rdy 9 [] [jDrain 2]).jobPoison 0 (jDrain 2) = none ∧ opcode (jDrain 0).cmd = OP_DRAIN ∧ drainNoop (jDrain 0) = false ∧
      drainNoop (jDrain 1) = false ∧ drainNoop (jDrain 2) = false ∧ cf (jDrain 0).cmd 1 9 2 = 0 ∧ cf (jDrain 1).cmd 1 9 2 = 1 ∧
      cf (jDrain 2).cmd 1 9 2 = 2 ∧ drainNoop jNoDrain = true ∧ ((bad (withUnit rdy 9 [] [jDrain 0])).jobPoison 0 (jDrain 0)).isSome = true := by
  decide +kernel
/-- A FIN of one row of 128 elements. -/
def jFinOne : Job := { jFin 1 with desc := #v[0, 0, 0, 0, 0, 0, 0x0000_0001, 0, 0, 0, 0, 0, 0, 0, 0, 0] }
theorem witness_FinishingUnitCompletes_fin :
    opcode (jFin 1).cmd = OP_FIN ∧ (withUnit rdy 9 [] [jFin 0]).jobPoison 0 (jFin 0) = none ∧ (jFin 0).cnt = 0 ∧ jFinOne.desc.len ≠ 0 ∧
      jFinOne.cnt ≠ 0 ∧ ((bad (withUnit rdy 9 [] [jFinOne])).jobPoison 0 jFinOne).isSome = true ∧
      (withUnit rdy 9 [] [jFinOne]).jobPoison 0 jFinOne = none := by decide +kernel
theorem witness_FinishingUnitCompletes_opt :
    opcode (jOpt 0).cmd = OP_OPT ∧ cb (jOpt 0).cmd 7 21 = false ∧ cb (jOpt 0x0020_0000).cmd 7 21 = true ∧ (jOpt 0).cnt ≠ 0 ∧
      (withUnit rdy 9 [] [jOpt 0]).jobPoison 0 (jOpt 0) = none ∧ ((bad (withUnit rdy 9 [] [jOpt 0])).jobPoison 0 (jOpt 0)).isSome = true := by
  decide +kernel

theorem witness_LoftChangesOnlyByTiles :
    (∃ t, exec (.tbuildComplete 0 0) (withUnit rdy 0 [] [{ jBuild with stage := 3 }]) = .next t ∧ (t.core 0).resetting = false) ∧
      (∃ t, exec (.finComplete 0) rdy = .next t ∧ (t.core 0).resetting = false) ∧
      (∃ t, exec (.optComplete 0) rdy = .next t ∧ (t.core 0).resetting = false) ∧
      (∃ t, exec (.drainComplete 0) (withUnit rdy 9 [] [jDrain 0]) = .next t ∧ (t.core 0).resetting = false) ∧
      (∀ j ∈ ((withUnit rdy 9 [] [jDrain 0]).core 0).unit 9 |>.exec, cf j.cmd 1 9 2 ≠ 2) ∧
      (∃ t, exec (.tileComplete 0 0) (withUnit rdy 0 [] [jTile 128]) = .next t ∧ (t.core 0).resetting = false) ∧
      (∃ t, exec (.stileComplete 0) (withUnit rdy 8 [] [jStile 128]) = .next t ∧ (t.core 0).resetting = false) ∧
      (∀ j ∈ ((withUnit rdy 0 [] [jTile 128]).core 0).unit 0 |>.exec, slotOf j.cmd < 1 <<< slotLog j.slots ∧ j.m ≤ maxM 0 j.slots) ∧
      (∀ j ∈ ((withUnit rdy 8 [] [jStile 128]).core 0).unit 8 |>.exec, slotOf j.cmd < 1 <<< slotLog j.slots ∧ j.m ≤ maxM 8 j.slots) := by
  refine ⟨⟨_, rfl, ?_⟩, ⟨_, rfl, ?_⟩, ⟨_, rfl, ?_⟩, ⟨_, rfl, ?_⟩, ?_, ⟨_, rfl, ?_⟩, ⟨_, rfl, ?_⟩, ?_, ?_⟩ <;> decide +kernel

/-! ## Witnesses: DMA, cellar, synchronisation -/

/-- A MOVE of 64 bytes within core 0's storeroom waits in queue 0, with a tag to spare or with none allowed. -/
def jMove : Job := { job (withOpcode Cmd.zero OP_MOVE) with cnt := 1, cmd := #v[0x08, 0x40, 0, 0x40, 0x2000, 0x2000, 1, 64] }
def queued (j : Job) : State := rdy.modCore 0 fun k => k.modQueue 0 fun d => { d with queue := [j] }
/-- A FILL of four words. -/
def jFill : Job := { job (withOpcode (cmd 0 0 4 0) OP_FILL) with cnt := 4 }
theorem witness_DmaTransactionStarts :
    rdy.seqUp 0 = true ∧ (∀ q : QId, (rdy.ready 0 q).isSome = false) ∧
      (let p := (List.finRange 8).foldl (fun s q => State.skipIdle 17 s 0 q) (queued jFill)
       (p.ready 0 0).isSome = true ∧ p.mayTag 0 0 = true ∧ (p.core 0).lastQ = 7) ∧ (rdy.core 0).txns.length < 512 := by decide +kernel

/-- A transaction of queue 0 in flight, one that waits for a cellar port, the run of its command. -/
def txn (cel : Option CelId) : Txn :=
  { tag := 3, q := 0, uid := 9, ctx := 0, body := .get 0 (CEL_BASE + 64) 64, cel := cel, key := 0, got := none, wrote := false, num := none }
def inFlight (x : Txn) : State := rdy.modCore 0 fun k => { k with txns := [x] }
def aRun (started : Bool) : DmaRun :=
  { job := { jFill with uid := 9 }, row := 0, off := 0, snap := [], out := none, got := [], full := none, rid := none, chan := none, miss := none,
    started := started, withheld := false }
def running (r : DmaRun) : State := rdy.modCore 0 fun k => k.modQueue 0 fun d => { d with run := [r] }
/-- A write to core 1's storeroom, posting 5 of core 0, behind a signal to core 1, posting 4. -/
def xFar : Txn := { txn none with body := .move (stoBase 0) (stoBase 1) 64, num := some 5 }
def overtakes (ahead : Bool) : State :=
  (inFlight xFar).modCore 1 fun k =>
    { k with inbox := if ahead then [{ word := 5, n := 2, dec := false, gcid := 7, src := 0, ctx := 0, post := 4 }] else [] }
theorem witness_DmaCompletions :
    ((inFlight (txn none)).core 0).txns.find? (fun t => t.tag == (3 : TagId).val) = some (txn none) ∧
      orderFree 0 (txn none) [txn none] = true ∧
      ((overtakes true).remoteDst 0 xFar.body = some 1 ∧ (overtakes true).signalAhead 0 1 5 = true ∧ (overtakes false).signalAhead 0 1 5 = false) ∧
      (let s := running (aRun true)
       s.unitUp 0 = true ∧ ((s.core 0).dmaq[(0 : QId)]).run = aRun true :: [] ∧ (aRun true).started = true ∧ (aRun true).withheld = false ∧
        (aRun true).full = none ∧ (s.core 0).txns = [] ∧ (aRun false).started = false) ∧
      rdy.reaches 0 0 = true ∧ (((rdy.modCore 0 fun k => k.modQueue 0 fun d => { d with halted := true }).core 0).dmaq[(0 : QId)]).halted = true := by
  decide +kernel
/-- It has received nothing, or the 64 bytes. -/
theorem witness_TransactionsMoveData :
    0 < 64 ∧ inCellar (stoBase 0 + 4096) = false ∧ rdy.mapped (stoBase 0 + 4096) 64 = true ∧ rdy.mapped (stoBase 0) 64 = true ∧
      ¬ (skipBase 0 ≤ stoBase 0 + 4096 ∧ stoBase 0 + 4096 < skipBase 0 + 0x40) ∧ (txn none).wrote = false ∧ (txn none).got = none ∧
      (List.replicate 64 ((0 : Byte), false)).length = 64 := by decide +kernel

/-- Cellar port 0 is up with 256 MiB; a read of it waits, or a write. -/
def celUp (s : State) : State := (s.setPg (.cel 0) CEL_STAT 1).setPg (.cel 0) CEL_CAP 1
def wTxn : Txn := { txn (some 0) with body := .move (stoBase 0) (CEL_BASE + 64) 64 }
theorem witness_CellarPorts :
    (let s := celUp (inFlight (txn (some 0)))
     s.coreUp 0 = true ∧ (s.core 0).txns.find? (fun t => t.tag == (3 : TagId).val) = some (txn (some 0)) ∧
      s.celAccess 0 (txn (some 0)) = ([CEL_BASE / 64 + 1], false) ∧ [CEL_BASE / 64 + 1].filter [CEL_BASE / 64 + 1].contains ≠ [] ∧
      [CEL_BASE / 64 + 1].filter [0].contains = [] ∧
      bits (s.pg (.cel 0) CEL_TIMEOUT) 0 16 ≠ 0 ∧ bits ((s.setPg (.cel 0) CEL_TIMEOUT 0).pg (.cel 0) CEL_TIMEOUT) 0 16 = 0 ∧
      bit (s.pg (.cel 0) CEL_STAT) 0 = true ∧ bit (rdy.pg (.cel 0) CEL_STAT) 0 = false ∧ s.pkgUp = true) ∧
      (celUp (inFlight wTxn)).celAccess 0 wTxn = ([CEL_BASE / 64 + 1], true) ∧ (celUp (inFlight wTxn)).mayWrite1 0 wTxn = true ∧
      (let e : Txn := { wTxn with tag := 2 }
       (celUp (rdy.modCore 0 fun k => { k with txns := [e, wTxn] })).mayWrite1 0 wTxn = false) := by decide +kernel

/-- A write of line 1 granted first, then a read of it; no transaction; a line that context 0's fetch awaits. -/
def turns : State :=
  celUp (rdy.modCore 0 fun k => { k with txns := [{ wTxn with tag := 2, turn := some 0 }, { txn (some 0) with turn := some 1 }] })
def lateFetch : State := rdy.modCore 0 fun k => { k with lateRead := [rdy.streamAt 0 0 0 / 64] }
theorem witness_CellarPorts_order :
    turns.grantedAhead 0 0 { txn (some 0) with turn := some 1 } = true ∧
      turns.grantedAhead 0 0 { wTxn with tag := 2, turn := some 0 } = false ∧ (celUp (inFlight (txn (some 0)))).grantedAhead 0 0 (txn (some 0)) = false ∧
      (rdy.core 0).txns.find? (fun t => t.tag == (3 : TagId).val) = none ∧
      ((lateFetch.ctx 0 0).head = none ∧ (lateFetch.pg (.ctx 0 0) CTX_PC).toNat = 0 ∧ 0 < (lateFetch.pg (.ctx 0 0) CTX_LEN).toNat ∧
        (∀ i, i < 32 → lateFetch.inReach 0 (lateFetch.streamAt 0 0 0 + i) = true) ∧ lateFetch.streamAt 0 0 0 / 64 ∈ (lateFetch.core 0).lateRead) := by
  decide +kernel

theorem witness_ReleaseLoop : ∀ w ∈ (releaseScan [await 2, await 1] 2).1, w.n = 2 := by decide
theorem witness_SignalCounts : (7 : Nat) ≠ 0 ∧ (rdy.core 0).queueOn 5 = [] := by decide +kernel

/-- A signal, or a decrement, of 2 on word 5 has come from core 1. -/
def msg (dec : Bool) : SyncMsg := { word := 5, n := 2, dec := dec, gcid := 7, src := 1, ctx := 0, post := 4 }
def arrived (s : State) (dec : Bool) : State := s.modCore 0 fun k => { k with inbox := [msg dec] }
/-- Context 0 waits for the answer to posting 4; the answer has come. -/
def answered (o : Outcome) (held : Bool) : State :=
  let j := job (withOpcode (sigCmd 1 1) OP_SIGNAL)
  ((rdy.modCore 0 fun k => { k with acks := [⟨0, 4, o⟩], posts := [⟨0, 4, some j⟩] }).modCtx 0 0 fun t =>
    { t with hold := if held then .decrement j 4 else .free })
theorem witness_MeshSignals :
    (∀ d ∈ [true, false], (arrived rdy d).coreUp 0 = true ∧ ((arrived rdy d).core 0).inbox = msg d :: [] ∧ (arrived rdy d).peer 0 (msg d).src = true ∧
      ((arrived rdy d).setPg (.sync 0) SYNC_PEERS_LO 0).peer 0 (msg d).src = false) ∧
      (2 ≤ (syn.syncAt 0 5).count ∧ (rdy.syncAt 0 5).count < 2) ∧
      (let j := job (withOpcode (sigCmd 1 1) OP_SIGNAL)
       ((answered .applied true).core 0).acks = ⟨0, 4, .applied⟩ :: [] ∧
        (((answered .applied true).core 0).posts.find? fun p => p.num == 4).bind (·.job) = some j ∧
        ((answered .applied true).ctx 0 j.ctx).hold = .decrement j 4 ∧ ((answered .applied false).ctx 0 j.ctx).hold = .free) := by decide +kernel

/-- Core 1 has a write to core 0 in flight, posted before the signal, or after it. -/
def writeFirst (n : Nat) : State :=
  (arrived rdy false).modCore 1 fun k => { k with txns := [{ txn none with body := .move (stoBase 1) (stoBase 0) 64, sent := some n }] }
theorem witness_MeshSignals_order :
    (writeFirst 3).coreUp 0 = true ∧ ((writeFirst 3).core 0).inbox = [msg false] ∧ (writeFirst 3).writeAhead (msg false).src 0 (msg false).post = true ∧
      ((writeFirst 5).core 0).inbox = [] ++ msg false :: [] ∧ msg false ∉ ([] : List SyncMsg) ∧
      (writeFirst 5).writeAhead (msg false).src 0 (msg false).post = false := by decide +kernel

theorem witness_MeshRoutes : route 0 3 = .east ∧ route 3 0 = .west ∧ route 0 12 = .south ∧ route 12 0 = .north ∧ route 5 5 = .loc := by decide

/-- Two flits for the local output of bay 5: one of each class. -/
def aFlit (resp : Bool) (w : Nat) : MeshFlit := { resp := resp, dst := 5, msg := .ack 20 ⟨0, 1, .applied⟩, waited := w }
def meshed (w : Nat) : State :=
  { up with mesh := { Mesh.reset with bufs := (Mesh.reset.bufs.set (meshIndex 5 0 0) [aFlit false w]).set (meshIndex 5 1 1) [aFlit true 0] } }
theorem witness_RouterGrants :
    up.pkgUp = true ∧ up.mesh.grant 5 .loc = none ∧ (meshed 0).mesh.grant 5 .loc = some (1, 1) ∧ (meshed 16).mesh.grant 5 .loc = some (0, 0) ∧
      (meshed 0).mesh.bufs[meshIndex 5 1 1] = aFlit true 0 :: [] ∧ (meshed 16).mesh.head 5 0 0 .loc = some (aFlit false 16) ∧
      16 ≤ (aFlit false 16).waited ∧ (meshed 0).mesh.head 5 1 1 .loc = some (aFlit true 0) := by decide +kernel

/-- A request behind the head of its input, which leaves by another output, ages all the same. -/
def behind : Mesh := { Mesh.reset with bufs := Mesh.reset.bufs.set (meshIndex 5 0 0) [{ aFlit false 0 with dst := 6 }, aFlit false 3] }
theorem witness_RouterGrants_idle :
    behind.grant 5 .loc = none ∧ (behind.wait1 5 .loc).bufs[meshIndex 5 0 0] = [{ aFlit false 0 with dst := 6 }, aFlit false 4] := by decide +kernel

/-- Context 0 waits, released or with its time out. -/
def released : State := rdy.modCtx 0 0 fun t => { t with run := .wait, hold := .released }
def aWait (k : WaitKind) (r : Option Nat) : Wait := { await 2 with kind := k, remain := r }
def waiting (k : WaitKind) (r : Option Nat) : State :=
  (rdy.modCtx 0 0 fun t => { t with run := .wait }).modCore 0 fun c => { c with waits := [aWait k r] }
def stuckCore : State := (rdy.setPg (.sync 0) SYNC_DLK_WINDOW 4).modCore 0 fun k => { k with dlk := 4 }
theorem witness_WaitsEnd :
    (released.coreUp 0 = true ∧ (released.ctx 0 0).hold = .released ∧ (released.ctx 0 0).cur = .wait) ∧
      (∀ k ∈ [WaitKind.preWait, .wait, .barrier, .rerun], ((waiting k (some 0)).core 0).waitOf 0 = some (aWait k (some 0)) ∧
        (aWait k (some 0)).remain = some 0 ∧ ((waiting k (some 0)).ctx 0 0).run ≠ .frozen) ∧ (aWait .wait none).remain ≠ some 0 ∧
      (stuckCore.pg (.sync 0) SYNC_DLK_WINDOW ≠ 0 ∧ (stuckCore.pg (.sync 0) SYNC_DLK_WINDOW).toNat ≤ (stuckCore.core 0).dlk ∧
        (stuckCore.core 0).dlkFired = false ∧ ((stuckCore.modCore 0 fun k => { k with dlkFired := true }).core 0).dlkFired = true) ∧
      rdy.reaches 0 0 = true ∧ (3 : W32) ≠ 0 := by decide +kernel

theorem witness_RafterLines :
    rdy.rafMask 0 = 0 ∧ (masked rdy).rafMask 0 ≠ 0 ∧ (masked rdy).missing 0 ≠ 0 ∧ ((masked rdy).setPg .pkg (RAF_ARR 0) 1).missing 0 = 0 := by
  decide +kernel

/-! ## Witnesses: contexts, arrays, links -/

/-- Context 0 of core 0 in a state, with a doorbell or without. -/
def ctxIn (r : CtxState) (p : Bool) : State := rdy.modCtx 0 0 fun t => { t with run := r, pend := p }
def faulty (s : State) : State := s.modCore 0 fun k => { k with fault := true }
def saving (o : SaveOp) : State := rdy.modCtx 0 0 fun t => { t with run := .halted, saveOp := o }
theorem witness_ContextControl :
    (rdy.owner 0 = 0 ∧ virt.owner 0 ≠ 3 ∧ rdy.reaches 0 0 = true ∧ (rdy.core 0).fault = false ∧ ((faulty rdy).core 0).fault = true ∧
        (faulty rdy).reaches 0 0 = true) ∧
      ((ctxIn .faulted true).unitUp 0 = true ∧ ((ctxIn .faulted true).ctx 0 0).pend = true ∧ ((ctxIn .faulted true).ctx 0 0).run = .faulted ∧
        ((ctxIn .faulted true).ctx 0 0).saveOp = .none ∧ ((ctxIn .faulted true).ctx 0 0).resetting = false ∧ ((ctxIn .halted false).ctx 0 0).pend = false) ∧
      (let z (u : CtxState) : State := rdy.modCtx 0 0 fun t => { t with run := .frozen, under := u, frz := true }
       ((z .ready).ctx 0 0).run = .frozen ∧ ((z .ready).ctx 0 0).under ≠ .wait ∧ ((z .wait).ctx 0 0).under = .wait ∧ (rdy.ctx 0 0).again = none) ∧
      (((saving .none).ctx 0 0).saveOp = .none ∧ ((saving .none).ctx 0 0).run = .halted ∧ ((saving .save).ctx 0 0).saveOp = .save ∧
        0 < (saving .save).saveLen 0 0 ∧ (∃ b, ((saving (.restore true)).ctx 0 0).saveOp = .restore b) ∧
        ((bad (saving (.restore true))).firstPoison [⟨.own, stoBase 0 + (bad (saving (.restore true))).saveOff 0 0,
          (bad (saving (.restore true))).saveLen 0 0⟩]).isSome = true) := by
  refine ⟨?_, ?_, ?_, ?_, ?_, ?_, ?_, ⟨true, ?_⟩, ?_⟩ <;> decide +kernel
/-- A doorbell rung while the context ran; a restored wait; a restore of a clean area. -/
theorem witness_ContextControl_more :
    (let s := (ctxIn .faulted true).modCtx 0 0 fun t => { t with late := true }
     s.seqUp 0 = true ∧ (s.ctx 0 0).run = .faulted ∧ (s.ctx 0 0).late = true ∧ ((ctxIn .faulted true).ctx 0 0).late = false) ∧
      (let s := (ctxIn .wait true).modCtx 0 0 fun t => { t with again := some (await 2) }
       (s.ctx 0 0).run = .wait ∧ (s.ctx 0 0).again.isSome = true ∧ (s.ctx 0 0).pend = true ∧ ((ctxIn .wait true).ctx 0 0).again = none) ∧
      (let s := saving (.restore false)
       s.firstPoison [⟨.own, stoBase 0 + s.saveOff 0 0, s.saveLen 0 0⟩] = none) ∧
      (up.hostUp 0 = true ∧ up.owner 0 = (0 : FnId).val) := by decide +kernel
def looping : State := rdy.modCtx 0 0 fun t => { t with loops := [⟨2, 5, 9, 1⟩, ⟨0, 1, 9, 4⟩] }
theorem witness_SaveAreaLayout :
    (∀ l ∈ (looping.ctx 0 0).loops, l.lvl < 8 ∧ ∀ m ∈ (looping.ctx 0 0).loops, m.lvl = l.lvl → m = l) ∧ looping.savedWait 0 0 = none ∧
      areaKind (List.replicate SAVE_BYTES 0) = none ∧ areaKind ((waiting .barrier none).saveArea 0 0) = some .barrier ∧
      ⟨2, 5, 9, 1⟩ ∈ areaLoops (looping.saveArea 0 0) := by decide +kernel
theorem witness_Resets :
    (rdy.reaches 0 0 = true ∧ (rdy.core 0).resetting = false ∧ (rdy.core 0).fault = false ∧ rdy.calm 0 = true ∧ (rdy.core 0).waitOf 0 = none ∧
        (rdy.core 0).busy 0 = false ∧ (rdy.ctx 0 0).hold = .free ∧ ∀ q : QId, ((rdy.core 0).dmaq[q]).halted = false) ∧
      (rdy.core 0).txns = [] ∧ ((inFlight (txn none)).core 0).txns ≠ [] ∧
      ((rdy.modCore 0 fun k => { k with resetting := true }).core 0).resetting = true := by decide +kernel

/-- Bit 0 of word 5 of core 0's storeroom is flipped; the ACT port's lane 0 asks for word 5. -/
def flipped : State := { up with mem := { Mem.reset with flips := [(stoWord 0 5, 1)] } }
def accOf (p : Fin 5) (rmw : Bool) : ShelfAcc := { port := p, lane := 0, word := 5, write := rmw, rmw := rmw }
def shelved (f : Shelf) : State := up.modCore 0 fun k => { k with shelves := k.shelves.set 0 f }
theorem witness_MemoryArrays_ecc :
    up.coreUp 0 = true ∧ eccPort 4 = true ∧
      (flipCount (up.mem.flipsAt (stoWord 0 5) ^^^ 1) = 1 ∧ flipCount (up.mem.flipsAt (stoWord 0 5) ^^^ 3) = 2 ∧
        flipCount (flipped.mem.flipsAt (stoWord 0 5) ^^^ 1) = 0 ∧ flipCount (flipped.mem.flipsAt (stoWord 0 5) ^^^ (1 <<< 73)) = 2) ∧
      (let f := (flipped.core 0).shelves[(0 : ShelfId)]
       f.waiting = [] ∧ f.lock = none ∧ f.scrubWait = none ∧ (flipped.mem.flips.find? fun e => inShelf 0 0 e.1) = some (stoWord 0 5, 1)) ∧
      ((shelved { Shelf.reset with scrubWait := some 3 }).core 0).shelves[(0 : ShelfId)].scrubWait ≠ none ∧
      ((((withUnit up 0 [] [jTile 128]).core 0).unit 0).exec.head?.orElse fun _ => (((withUnit up 0 [] [jTile 128]).core 0).unit 0).queue.head?) =
        some (jTile 128) ∧
      (((up.core 0).unit 0).exec.head?.orElse fun _ => ((up.core 0).unit 0).queue.head?) = none ∧
      (bits (up.pg (.sto 0) STO_SCRUB) 0 16 ≠ 0 ∧ bits ((up.setPg (.sto 0) STO_SCRUB 0).pg (.sto 0) STO_SCRUB) 0 16 = 0) := by decide +kernel

/-- Who reads on each port: a TILE with planes to read, before one that has read all and a TBUILD; the finishing unit; nobody. -/
theorem witness_MemoryArrays_readers :
    let s := withUnit (withUnit up 0 [] [jBuild, { jTile 128 with stage := 1 }, { jTile 128 with uid := 7 }]) 9 [] [jFin 1]
    ((s.core 0).unit 0).exec.find? reading = some { jTile 128 with uid := 7 } ∧ ((s.core 0).unit 0).exec.find? isBuild = some jBuild ∧
      ((s.core 0).unit 9).exec.find? (fun _ => true) = some (jFin 1) ∧ (∀ p ∈ [0, 1, 2, 3, 4, 7], eccPort p = true) ∧
      2 ≤ flipCount (up.mem.flipsAt (stoWord 0 5) ^^^ (3 : BitVec 74)) := by decide +kernel

/-- Every channel has been read up to its first line; a transaction of core 0 reads the attic. -/
def patrolling : State := { up with patrol := Vector.replicate 256 1 }
def xAttic : Txn := { txn none with body := .move 64 (stoBase 0) 64 }
theorem witness_MemoryArrays_attic :
    (up.stackUp 0 = true ∧ (64 : Nat) % 8 = 0 ∧ 64 / 8 % 8 + [(1 : W64), 2].length ≤ 8 ∧ up.place 64 = .attic ∧ up.atticStack 64 = 0 ∧
        up.mem.poisonAt 8 = false ∧ up.patrolled 0 (up.atticChannel 64) ≠ some 1) ∧
      (patrolling.place 0 = .attic ∧ patrolling.atticStack 0 = 0 ∧ patrolling.patrolled 0 (patrolling.atticChannel 0) = some 0) ∧
      (((inFlight xAttic).core 0).txns.find? (fun t => t.tag == (3 : TagId).val) = some xAttic ∧ xAttic.got = none ∧ xAttic.cel = none) ∧
      (bits (up.pg (.att 0) ATT_SCRUB) 0 16 ≠ 0 ∧ bits ((up.setPg (.att 0) ATT_SCRUB 0).pg (.att 0) ATT_SCRUB) 0 16 = 0) := by decide +kernel

/-- The transaction holds its 64 bytes already; of a cellar's, granted or not. -/
theorem witness_MemoryArrays_late :
    (let x : Txn := { xAttic with got := some (List.replicate 64 (0, false)) }
     ((inFlight x).core 0).txns.find? (fun t => t.tag == (3 : TagId).val) = some x ∧ x.wrote = false ∧ x.body.reads = [(64, 64)] ∧
      (List.replicate 64 ((0 : Byte), false)).length = 64 ∧ (inFlight x).mapped 64 64 = true ∧ (inFlight xAttic).readPort xAttic.body = none) ∧
      ((txn (some 0)).cel = some 0 ∧ (txn (some 0)).turn = none ∧ ({ txn (some 0) with turn := some 1 } : Txn).turn ≠ none) := by decide +kernel
theorem witness_MemoryArrays_grants :
    (((shelved { Shelf.reset with lock := some (accOf 4 true) }).core 0).shelves[(0 : ShelfId)].present 0 []).lock = some (accOf 4 true) ∧
      (let f (l : List ShelfAcc) : Shelf := ((up.core 0).shelves[(0 : ShelfId)]).present 0 l
       (f []).lock = none ∧ (f []).grant (up.bound 0 0) = none ∧ (f [accOf 0 false]).grant (up.bound 0 0) = some (.port 0 false)) ∧
      (((shelved { Shelf.reset with scrubWait := some 3 }).core 0).shelves[(0 : ShelfId)].present 0 []).grant (up.bound 0 0) =
        some (.scrubber false) ∧
      ((celUp up).pkgUp && bit ((celUp up).pg (.cel 0) CEL_STAT) 0) = true ∧ (up.arbs[arbIndex (.attic 0 3)]).refresh = false ∧
      (∃ q a v, up.arbGrant (.attic 0 3) { Arbiter.reset with waiting := [⟨4, some 3, 5⟩] } = some (q, a, v)) ∧
      (let s := inFlight xAttic
       s.arbAt 64 = some (.attic 0 (s.atticChannel 64)) ∧ xAttic.body.reads = [(64, 64)] ∧
        (s.core 0).txns.find? (fun x => x.tag == 3) = some xAttic) ∧
      (let x : Txn := { xAttic with body := .move (stoBase 0) 64 64, got := some [] }
       let s := inFlight x
       x.body.writes 0 = some (64, 64) ∧ x.wrote = false ∧ s.mayWrite1 0 x = true ∧ (s.core 0).txns.find? (fun x => x.tag == 3) = some x) := by
  refine ⟨?_, ?_, ?_, ?_, ?_, ⟨_, _, _, rfl⟩, ?_, ?_⟩ <;> decide +kernel

/-- Requester 4 has its turn at a channel, with one grant used of a weight of 3, and transactions wait; requester 5's is aged, or not. -/
def turned : State := up.setPg (.att 0) (ARB_WT 0) 0x3_1111
def atArb (w : Nat) : Arbiter := { Arbiter.reset with waiting := [⟨4, some 0, 5⟩, ⟨5, none, w⟩], turn := 4, used := 1 }
theorem witness_ArbitersAreFair :
    (turned.arbAged (.attic 0 3) (atArb 0x800).waiting = some ⟨5, none, 0x800⟩ ∧ turned.arbAged (.attic 0 3) (atArb 7).waiting = none ∧
        bits (turned.pg (arbPage (.attic 0 3)) ARB_AGE) 0 16 ≠ 0 ∧ (atArb 7).waiting ≠ [] ∧ (atArb 7).ended = false ∧
        (∃ p ∈ (atArb 7).waiting, p.req.val = (atArb 7).turn) ∧ turned.arbWeight (.attic 0 3) 4 = 3 ∧
        (∃ q v, turned.arbGrant (.attic 0 3) (atArb 7) = some (q, false, v))) ∧
      (let f : Shelf := { Shelf.reset with waiting := [(accOf 2 false, 16), (accOf 0 false, 3)] }
       f.asks 2 = true ∧ f.asks 0 = true ∧ 16 ≤ f.age 2 ∧ f.agedGrant (fun p => p.val ≠ 2) = some (.port 2 true) ∧
        f.agedGrant (fun _ => true) = none ∧ f.laneTurn 0 = some (accOf 0 false)) ∧
      ({ Shelf.reset with scrubWait := some 256 } : Shelf).grant (fun _ => true) = some (.scrubber true) ∧
      ({ Shelf.reset with scrubWait := some 2 } : Shelf).grant (fun _ => true) = some (.scrubber false) ∧
      ((∀ p, Shelf.reset.asks p = false) ∧ Shelf.reset.scrubWait = none) := by
  refine ⟨⟨?_, ?_, ?_, ?_, ?_, ⟨⟨4, some 0, 5⟩, ?_, ?_⟩, ?_, ⟨_, _, rfl⟩⟩, ?_⟩ <;> decide +kernel

/-- Requester 4's turn has ended, by its mark or its weight, and requesters 2 and 5 wait: 5 follows 4, then 2. -/
theorem witness_ArbitersAreFair_turn :
    let b (e : Bool) (u : Nat) : Arbiter := { Arbiter.reset with waiting := [⟨2, none, 5⟩, ⟨5, none, 5⟩, ⟨4, none, 5⟩], turn := 4, used := u, ended := e }
    turned.arbAged (.attic 0 3) (b true 1).waiting = none ∧ (b true 1).ended = true ∧ turned.arbWeight (.attic 0 3) (b false 3).turn ≤ (b false 3).used ∧
      (∃ v, turned.arbGrant (.attic 0 3) (b true 1) = some (⟨5, none, 5⟩, false, v)) ∧
      (∃ v, turned.arbGrant (.attic 0 3) (b false 3) = some (⟨5, none, 5⟩, false, v)) := by
  refine ⟨?_, ?_, ?_, ⟨_, rfl⟩, ⟨_, rfl⟩⟩ <;> decide +kernel

def training : State := (up.setPg (.lnk 0) LNK_CTRL 1).setLnkState 0 LNK_TRAINING
def linked : State := (up.setPg (.lnk 0) LNK_CTRL 1).setLnkState 0 LNK_UP
theorem witness_DegradedTraining :
    training.pkgUp = true ∧ training.lnkState 0 = LNK_TRAINING ∧ bit (training.pg (.lnk 0) LNK_CTRL) 0 = true ∧ (0x0F : Byte) ∈ laneGroups ∧
      laneCount 0x0F < training.maxLanes 0 ∧ (0xFF : Byte) ∈ laneGroups ∧ training.maxLanes 0 ≤ laneCount 0xFF ∧ laneCount 0xFF ≤ training.maxLanes 0 := by
  decide +kernel
/-- Port 0 pulls 64 bytes. -/
def pulling (asked : Nat) : State := linked.modPort 0 fun p =>
  { p with pull := some { asked := asked, total := 64, hid := 0, off := 0, dst := 0, sig := 0, rid := 0, out := [], nextTag := 0, miss := false } }
theorem witness_LinkRegisterWrites :
    (up.hostUp 0 = true ∧ bit (1 : W32) 0 = true ∧ bit (up.pg (.lnk 0) LNK_CTRL) 0 = false ∧ bit (linked.pg (.lnk 0) LNK_CTRL) 0 = true ∧
        bit (0 : W32) 0 = false ∧ linked.lnkState 0 = LNK_UP ∧ training.lnkState 0 = LNK_TRAINING ∧ up.lnkState 0 ≠ LNK_UP ∧ up.lnkState 0 ≠ LNK_TRAINING) ∧
      (bit (up.pg (.lnk 0) LNK_PULL_STAT) 0 = false ∧ bit ((up.setPg (.lnk 0) LNK_PULL_STAT 1).pg (.lnk 0) LNK_PULL_STAT) 0 = true ∧
        up.atticOrSto 0 64 = true ∧ up.atticOrSto (stoBase 0 + 0x0800_0000) 64 = false ∧ bit (0 : W32) 31 = false ∧ up.linkUp 0 = false ∧ linked.linkUp 0 = true) ∧
      ((∃ pl, (pulling 64).ports[(0 : PortId)].pull = some pl ∧ pl.total ≤ pl.asked ∧ pl.out = []) ∧
        (∃ pl, (pulling 0).ports[(0 : PortId)].pull = some pl ∧ pl.asked < pl.total)) := by
  refine ⟨?_, ?_, ⟨_, rfl, ?_⟩, ⟨_, rfl, ?_⟩⟩ <;> decide +kernel

def aFlit0 (good : Bool) (seq : BitVec 12) : Flit :=
  { good := good, seq := seq, ack := 0, nak := false, idle := false, cvc := 0, ccnt := 0, fecCorr := 2, fecUncorr := 0, body := [] }
def told : State := linked.modPort 0 fun p =>
  { p with nak := some 3, nakRun := 8, replay := [aFlit0 true 5, aFlit0 true 0, aFlit0 true 1], creditIn := [(2, 7)] }
theorem witness_Flits :
    linked.portUp 0 = true ∧ (aFlit0 true 0).wf = true ∧ (aFlit0 false 0).good = false ∧ (aFlit0 true 0).seq = linked.ports[(0 : PortId)].rxSeq ∧
      (aFlit0 true 1).seq ≠ linked.ports[(0 : PortId)].rxSeq ∧ told.ports[(0 : PortId)].nak ≠ none ∧ linked.ports[(0 : PortId)].txBytes = [] ∧
      linked.ports[(0 : PortId)].replay.length < 512 ∧ told.ports[(0 : PortId)].creditIn = (2, 7) :: [] ∧
      told.ports[(0 : PortId)].replay = [aFlit0 true 5] ++ aFlit0 true 0 :: [aFlit0 true 1] ∧ (aFlit0 true 0).seq = (aFlit0 true 1).ack ∧
      (∀ h ∈ [aFlit0 true 5], h.seq ≠ (aFlit0 true 1).ack) ∧ (∀ h ∈ linked.ports[(0 : PortId)].replay, h.seq ≠ 0) := by decide +kernel
theorem witness_RetryLimit :
    linked.portUp 0 = true ∧ told.portUp 0 = true ∧ 8 ≤ told.ports[(0 : PortId)].nakRun ∧ linked.ports[(0 : PortId)].nakRun < 8 ∧
      ({ aFlit0 true 0 with nak := true } : Flit).nak = true ∧ (aFlit0 true 0).nak = false := by decide +kernel

/-- A message of 64 bytes, or of none. -/
def aMsg (kind : Byte) (n : BitVec 6) : Msg :=
  { Msg.zero with kind := kind, len := n, payload := List.replicate (64 * n.toNat) 0, poison := List.replicate (8 * n.toNat) false }
theorem witness_MessagesRoundTrip :
    (aMsg MSG_WR 1).kind ∈ [MSG_WR, MSG_SIG, MSG_RD, MSG_RDR, MSG_ACK] ∧ (aMsg MSG_WR 1).bad = false ∧ (aMsg MSG_WR 1).len.toNat ≤ 32 ∧
      (aMsg MSG_WR 1).gcid.toNat < 0x2000 ∧ (aMsg MSG_WR 1).status.toNat ≤ 0 ∧ (aMsg MSG_WR 1).pm = false ∧ hasPayload (aMsg MSG_WR 1).kind = true ∧
      (aMsg MSG_WR 1).payload.length = 64 ∧ (aMsg MSG_WR 1).poison.length = 8 ∧ (∀ b ∈ (aMsg MSG_WR 1).poison, b = false) := by decide +kernel
/-- A message waits in a channel of port 0; hatch 0 lies open over the attic's first 4 KiB, or over core 0's storeroom. -/
def received (v : BitVec 2) (m : Msg) (sto : Bool) : State :=
  ((((linked.setPg (.lnk 0) (HT_BASE_HI 0) (if sto then 0x80 else 0)).setPg (.lnk 0) (HT_SIZE 0) 64).setPg (.lnk 0) (HT_CFG 0) 0xF).modPort 0 fun p =>
    { p with rxq := p.rxq.set v.toFin [m] })
theorem witness_LinkMessages :
    (let s := received (chanOf false) (aMsg MSG_WR 1) false
     s.portUp 0 = true ∧ s.ports[(0 : PortId)].rxq[(chanOf false).toFin] = [aMsg MSG_WR 1] ∧ (aMsg MSG_WR 1).kind = MSG_WR ∧
      s.hatchDrop 0 (aMsg MSG_WR 1) = none ∧ (linked.hatchDrop 0 (aMsg MSG_WR 1)).isSome = true) ∧
      (let s := received (chanOf true) (aMsg MSG_SIG 0) true
       s.hatchDrop 0 (aMsg MSG_SIG 0) = none ∧ s.hatchCore 0 (aMsg MSG_SIG 0).hid.toNat = some 0 ∧ (linked.hatchDrop 0 (aMsg MSG_SIG 0)).isSome = true) ∧
      (received VC_REQ (aMsg MSG_RD 1) false).ports[(0 : PortId)].rxq[VC_REQ.toFin] = [aMsg MSG_RD 1] ∧ (aMsg MSG_RD 1).kind = MSG_RD ∧
      (received VC_RSP (aMsg MSG_RDR 1) false).ports[(0 : PortId)].rxq[VC_RSP.toFin] = [aMsg MSG_RDR 1] ∧ (aMsg MSG_ACK 0).kind = MSG_ACK := by
  decide +kernel
theorem witness_HatchesConfine :
    (∃ t, exec (.wr 0 false) (received (chanOf false) (aMsg MSG_WR 1) false) = .next t) ∧
      (∃ t, exec (.rd 0) (received VC_REQ (aMsg MSG_RD 1) false) = .next t) ∧
      (received (chanOf false) (aMsg MSG_WR 1) false).hatchOpen 0 0 = true := by
  refine ⟨⟨_, rfl⟩, ⟨_, rfl⟩, ?_⟩
  decide +kernel
theorem witness_LinkLost : linked.portUp 0 = true ∧ 1 ≤ 3 ∧ 3 ≤ 4 := by decide +kernel

/-! ## Witnesses: power, management -/

/-- The package draws more than its budget, or has been within it for 100 samples under a cap, or cool as long under a throttle. -/
def hot : State := up.modPower fun p => { p with samples := [(0, Vector.replicate 64 40_625_001)] }
/-- 1,000 averages of 2,201 W. -/
def warm : State := up.modPower fun p => { p with averages := List.replicate 1000 2_201_000_000 }
def cappedUp : State := (up.setField .pwr PWR_STAT 13 1 1).modPower fun p => { p with under := 100 }
def throttledUp : State := (up.setField .pwr PWR_STAT 12 1 1).modPower fun p => { p with cool := 100 }
theorem witness_PowerEvents :
    up.pkgUp = true ∧ up.pcap = false ∧ up.overPower = none ∧ hot.pcap = false ∧ hot.overPower = some 2600 ∧ warm.overPower = some 2201 ∧ up.power.under < 100 ∧
      (cappedUp.pcap = true ∧ 100 ≤ cappedUp.power.under ∧ cappedUp.thr = false) ∧ up.thr = false ∧ (303 : BitVec 10).toNat ≤ 303 ∧
      95 ≤ (95 : W16).toNat ∧ (throttledUp.thr = true ∧ 100 ≤ throttledUp.power.cool ∧ throttledUp.pcap = false) ∧ 110 ≤ (110 : Byte).toNat ∧
      up.coreUp 5 = true ∧ (up.island 5).stretched = false ∧ 659 + up.droopMv < up.setpoint 5 ∧ up.setpoint 5 ≤ 660 + up.droopMv ∧
      (let s := up.modIsland 5 fun i => { i with stretched := true }
       (s.island 5).stretched = true ∧ 64 ≤ (#v[0, 64, 0, 0] : Vector Nat 4).toList.sum ∧ 2 * s.setpoint 5 < 2 * 681 + s.droopMv ∧ 2 * 680 + s.droopMv ≤ 2 * s.setpoint 5) := by decide +kernel

def aPhase : PhaseEntry := { mask := 0xFFFF_FFFF, offer := 7, pool := 0xFFFF, energy := #v[11600, 9000, 8100, 0], dur := #v[20000, 23500, 36000, 0] }
/-- V0 fits alone, none fits, or none may be chosen. -/
theorem witness_ChoosesVariants :
    up.candidates aPhase = [0, 1, 2] ∧ up.fits 1 aPhase 0 = true ∧
      (let s := up.modPower fun p => { p with samples := [(9_000_000_000, Vector.replicate 64 0)] }
       (∀ u ∈ s.candidates aPhase, s.fits 1 aPhase u = false) ∧ (2 : Fin 4) ∈ s.candidates aPhase ∧ ∀ u ∈ s.candidates aPhase, u ≤ 2) ∧
      (up.candidates { aPhase with offer := 8 } = [] ∧ (∀ u : Fin 4, u ≤ 3) ∧ up.vallow 3 = true ∧ up.capped = false) ∧
      (let s := cappedUp.setPg .pwr PWR_VALLOW 1
       s.candidates aPhase = [] ∧ s.capped = true ∧ ∀ v : Fin 4, (s.vallow v && decide (2 ≤ v.val)) = false) := by decide +kernel

/-- Core 5 runs at another variant than the one decided, no change under way, and nothing caps it. -/
theorem witness_PhaseDecisions_restore :
    let s := up.modIsland 5 fun i => { i with var := 2 }
    s.capped = false ∧ (s.island 5).goal = none ∧ (s.island 5).var ≠ (s.island 5).decided ∧ (up.island 5).var = (up.island 5).decided ∧
      cappedUp.capped = true ∧ ((up.modIsland 5 fun i => { i with goal := some 1 }).island 5).goal.isSome = true := by decide +kernel

/-- A PHASE of entry 0 holds context 0; the entry is a phase of core 0, or opens pool 0 of one member, which may have run. -/
def phased (pool : W16) (mask : W64) (run : List (Nat × List Nat)) (next : Option Nat) : State :=
  ((rdy.modPower fun p => { p with phases := [{ aPhase with pool := pool, mask := mask }, aPhase],
                                   pools := [{ cnt := 1, member := Vector.replicate 8 1 }], poolRun := run }).modCtx 0 0 fun t =>
    { t with run := .hold, hold := .phase (job (withOpcode Cmd.zero OP_PHASE)) 0 next })
def aDecision : Decision := { entry := 0, inst := 0, var := 1, member := none, exit := false, cause := 0, taken := 0 }
theorem witness_DecisionsStand :
    (∃ t, exec (.phaseDecision 0) ((phased 0xFFFF 1 [] none).modPower fun p => { p with decisions := [aDecision] }) = .next t) ∧
      (((phased 0xFFFF 3 [] none).modPower fun p => { p with decisions := [aDecision] }).decision? 0 0) = some aDecision ∧
      ((match exec (.phaseDecision 0) ((phased 0xFFFF 3 [] none).modPower fun p => { p with decisions := [aDecision] }) with
        | .next t => (t.decision? 0 0).isSome
        | _ => false) = true) := by
  refine ⟨⟨_, rfl⟩, ?_, ?_⟩ <;> decide +kernel
theorem witness_PhaseDecisions :
    ((phased 0xFFFF 1 [] none).seqUp 0 = true ∧ (∃ j, ((phased 0xFFFF 1 [] none).ctx 0 0).hold = .phase j 0 none) ∧
        bit ((phased 0xFFFF 1 [] none).pg .pwr PWR_PT_CTL) 0 = false ∧ bit (((phased 0xFFFF 1 [] none).setPg .pwr PWR_PT_CTL 1).pg .pwr PWR_PT_CTL) 0 = true ∧
        (phased 0xFFFF 1 [] none).phase? 7 = none ∧ ((phased 0xFFFF 1 [] none).phase? 0).isSome = true) ∧
      (maskHas (1 : W64) 0 = true ∧ maskHas (2 : W64) 0 = false ∧ (phased 0xFFFF 1 [] none).windowFull 0 0 1 = false) ∧
      (let s := phased 0xFFFF 1 [] none
       ∀ e, s.phase? 0 = some e → s.decision? 0 (s.instOf 0 0) = none ∧ (s.decide? 0 (s.instOf 0 0) e false).2.exit = false ∧
        (s.decide? 0 (s.instOf 0 0) e false).2.member = none) ∧
      (let s := phased 0 1 [] none
       ∀ e, s.phase? 0 = some e → (s.decide? 0 (s.instOf 0 0) e true).2.exit = false ∧ (s.decide? 0 (s.instOf 0 0) e true).2.member = some 0) ∧
      (let s := phased 0 1 [(0, [0])] none
       ∀ e, s.phase? 0 = some e → (s.decide? 0 (s.instOf 0 0) e true).2.exit = true) ∧
      (let s := (phased 0 1 [] (some 4)).modIsland 0 fun i => { i with goal := some 1 }
       (s.island 0).goal = some 1 ∧ ∃ j, (s.ctx 0 0).hold = .phase j 0 (some 4)) := by
  refine ⟨⟨?_, ⟨job (withOpcode Cmd.zero OP_PHASE), ?_⟩, ?_⟩, ?_, ?_, ?_, ?_, ?_, ⟨job (withOpcode Cmd.zero OP_PHASE), ?_⟩⟩
  · decide +kernel
  · decide +kernel
  · decide +kernel
  · decide +kernel
  · intro s e h
    have : e = ({ aPhase with pool := 0xFFFF, mask := 1 } : PhaseEntry) := Option.some.inj (h.symm.trans rfl)
    subst this
    decide +kernel
  · intro s e h
    have : e = ({ aPhase with pool := 0, mask := 1 } : PhaseEntry) := Option.some.inj (h.symm.trans rfl)
    subst this
    decide +kernel
  · intro s e h
    have : e = ({ aPhase with pool := 0, mask := 1 } : PhaseEntry) := Option.some.inj (h.symm.trans rfl)
    subst this
    decide +kernel
  · decide +kernel
  · decide +kernel

/-- The mailbox runs an op. -/
def asked (op : Nat) : State := (up.setPg .mbx MBX_CMD (w32 op)).setPg .mbx MBX_STAT 1
theorem witness_ManagementServed :
    (∀ r ∈ mgtRows env true, (asked r.op).serves = true ∧ (asked r.op).mbxBusy = true ∧ (asked r.op).mgmt.served = none ∧ (asked r.op).mbxOp = r.op ∧
      (asked r.op).recovery = false ∧ (inRecovery (asked r.op)).recovery = true ∧ (inRecovery (asked r.op)).mbxOp = r.op) ∧
      OP_INFO ∈ i3cOps ∧ OP_INFO ∈ recoveryOps ∧ OP_STAGE ∉ i3cOps ∧ OP_ATTEST ∈ i3cOps ∧ OP_ATTEST ∉ recoveryOps ∧
      (let s := (asked OP_LOG).modMgmt fun m => { m with served := some { status := 0, ret0 := some 3, data := [1, 2, 3, 4, 5], vendor := none } }
       s.mbxBusy = true ∧ s.mgmt.served = some { status := 0, ret0 := some 3, data := [1, 2, 3, 4, 5], vendor := none }) ∧
      (0x77 ∉ i3cOps ∧ 0x77 ≠ OP_TELEMETRY ∧ (asked 0x77).mgmt.served = none ∧ definedOp (asked 0x77).mbxOp = false ∧ definedOp (asked OP_LOG).mbxOp = true) ∧
      (up.hostUp 0 = true ∧ up.mbxBusy = false) := by decide +kernel
/-- Four bytes that are no magic have been staged as firmware. -/
def staged : State := up.modMgmt fun m => { m with psr := (List.range 4).map fun i => (STAGING_AT + stagedAt 1 + i, 0) }
theorem witness_ManagementEffects :
    ((0 : W32).toNat + [(1 : Byte)].length ≤ STAGING_SIZE ∧ STAGING_SIZE < (0xFFFF_FFFF : W32).toNat + [(1 : Byte)].length) ∧
      bit (3 : W32) 8 = false ∧ bit (0x103 : W32) 8 = true ∧ (List.replicate 256 (0 : Byte)).length = 256 ∧
      (up.tokenFail (List.replicate 256 0)).isSome = true ∧
      (staged.verifyStaged [1]).map (·.2.1) = some 1 ∧ bit (1 : W32) 0 = true ∧ (inRecovery staged).recovery = true ∧ staged.recovery = false ∧
      staged.mgmt.fuses.svnFw = BitVec.ofNat 64 (2 ^ 0 - 1) ∧ (BitVec.ofNat 64 (2 ^ 64 - 1) : W64) = 0xFFFF_FFFF_FFFF_FFFF := by decide +kernel
theorem witness_ControllerCommands :
    up.serves = true ∧ (9 : Byte) ≠ 0 ∧ (9 : Byte) ≠ 0xFF ∧
      ((up.record .mbx (mkRec 1 2 3 4 5)).mgmt.logq.length = 1 ∧ (up.record .mbx (mkRec 1 2 3 4 5)).serves = true) ∧
      up.pins.vddMgt = true ∧ up.pins.perst = false ∧ State.reset.pins.perst = true ∧ up.mgmt.level ≠ 2 ∧
      (up.modMgmt fun m => { m with level := 2 }).mgmt.level = 2 ∧ up.mgmt.logNext < LOG_RING ∧ up.mgmt.committing[(0 : Fin 2)] = false ∧
      (up.verifyFlash 1 false).isSome = true ∧
      (up.modMgmt fun m => { m with committing := #v[true, false] }).mgmt.committing[(0 : Fin 2)] = true ∧ (chainPins[0]?).isSome = true ∧
      drivable .avsSdata = false ∧ chainPins.contains .avsSdata = true ∧ drivable .thermtrip = true := by decide +kernel

end Sys2Proof.Tests
end

section
/-! Bit fields of a word: `putBits` bit by bit, and what a field reads after one is replaced. -/

namespace Sys2Proof.Machine
open Sys2Proof

/-- Bit j of a field. -/
theorem testBit_bits (w : W32) (lo len j : Nat) : (bits w lo len).testBit j = (decide (j < len) && w.getLsbD (lo + j)) := by
  rw [bits, Nat.shiftLeft_eq, Nat.one_mul, Nat.testBit_mod_two_pow, Nat.testBit_shiftRight]
  rfl

/-- A number split at a field: the bits above it, the field, the bits below it. -/
theorem field_split (n lo len : Nat) : n = 2 ^ lo * (2 ^ len * (n >>> lo >>> len) + (n >>> lo) % 2 ^ len) + n % 2 ^ lo := by
  rw [Nat.shiftRight_eq_div_pow _ len, Nat.div_add_mod, Nat.shiftRight_eq_div_pow, Nat.div_add_mod]

/-- A word with a field replaced, split at that field. -/
theorem putBits_split (w : W32) (lo len v : Nat) :
    putBits w lo len v = BitVec.ofNat 32 (2 ^ lo * (2 ^ len * (w.toNat >>> lo >>> len) + v % 2 ^ len) + w.toNat % 2 ^ lo) := by
  have hw := field_split w.toNat lo len
  rw [Nat.mul_add] at hw
  rw [putBits, bits, Nat.shiftLeft_eq, Nat.shiftLeft_eq, Nat.shiftLeft_eq, Nat.one_mul, Nat.mul_add, Nat.mul_comm _ (2 ^ lo), Nat.mul_comm _ (2 ^ lo)]
  congr 1
  omega

/-- Replacing a field replaces its bits and leaves the others. -/
theorem getLsbD_putBits (w : W32) (lo len v i : Nat) (h : lo + len ≤ 32) :
    (putBits w lo len v).getLsbD i = if lo ≤ i ∧ i < lo + len then v.testBit (i - lo) else w.getLsbD i := by
  by_cases h32 : i < 32
  · have hlow : w.toNat % 2 ^ lo < 2 ^ lo := Nat.mod_lt _ (Nat.two_pow_pos _)
    have hfield : v % 2 ^ len < 2 ^ len := Nat.mod_lt _ (Nat.two_pow_pos _)
    have hbit : w.getLsbD i = w.toNat.testBit i := rfl
    rw [putBits_split, BitVec.getLsbD_ofNat, Nat.testBit_two_pow_mul_add _ hlow, Nat.testBit_two_pow_mul_add _ hfield, hbit,
      decide_eq_true h32, Bool.true_and]
    by_cases hl : i < lo
    · rw [if_pos hl, if_neg (by omega), Nat.testBit_mod_two_pow, decide_eq_true hl, Bool.true_and]
    · rw [if_neg hl]
      by_cases hf : i - lo < len
      · rw [if_pos hf, if_pos (by omega), Nat.testBit_mod_two_pow, decide_eq_true hf, Bool.true_and]
      · rw [if_neg hf, if_neg (by omega), Nat.testBit_shiftRight, Nat.testBit_shiftRight]
        congr 1; omega
  · rw [BitVec.getLsbD_of_ge _ _ (by omega), BitVec.getLsbD_of_ge w _ (by omega), if_neg (by omega)]

theorem bit_putBits (w : W32) (lo len v i : Nat) (h : lo + len ≤ 32) :
    bit (putBits w lo len v) i = if lo ≤ i ∧ i < lo + len then v.testBit (i - lo) else bit w i := getLsbD_putBits w lo len v i h

/-- A bit put into a word reads back. -/
theorem bit_putBits_bn (w : W32) (i : Nat) (b : Bool) (h : i < 32) : bit (putBits w i 1 (bn b)) i = b := by
  rw [bit_putBits _ _ _ _ _ (by omega), if_pos (by omega), Nat.sub_self]
  cases b <;> rfl

/-- A bit outside the field replaced. -/
theorem bit_putBits_other (w : W32) (lo len v i : Nat) (h : lo + len ≤ 32) (hi : i < lo ∨ lo + len ≤ i) :
    bit (putBits w lo len v) i = bit w i := by rw [bit_putBits _ _ _ _ _ h, if_neg (by omega)]

/-- A field replaced reads as the value put into it. -/
theorem bits_putBits_same (w : W32) (lo len v : Nat) (h : lo + len ≤ 32) : bits (putBits w lo len v) lo len = v % 2 ^ len := by
  refine Nat.eq_of_testBit_eq fun j => ?_
  rw [testBit_bits, Nat.testBit_mod_two_pow, getLsbD_putBits _ _ _ _ _ h]
  by_cases hj : j < len
  · rw [if_pos (by omega), Nat.add_sub_cancel_left]
  · simp [hj]

/-- A field apart from the one replaced reads as before. -/
theorem bits_putBits_other (w : W32) (lo len v lo' len' : Nat) (h : lo + len ≤ 32) (hd : lo' + len' ≤ lo ∨ lo + len ≤ lo') :
    bits (putBits w lo len v) lo' len' = bits w lo' len' := by
  refine Nat.eq_of_testBit_eq fun j => ?_
  rw [testBit_bits, testBit_bits, getLsbD_putBits _ _ _ _ _ h]
  by_cases hj : j < len'
  · rw [if_neg (by omega)]
  · simp [hj]

/-- A field fits in its own width. -/
theorem bits_mod (w : W32) (lo len : Nat) : bits w lo len % 2 ^ len = bits w lo len := by
  have := bits_lt w lo len
  rw [Nat.shiftLeft_eq, Nat.one_mul] at this
  exact Nat.mod_eq_of_lt this

/-- Bit 0 of a word put into another: the masked form of a register write. -/
theorem putBits_bit0 (w v : W32) : putBits w 0 1 (bits v 0 1) = (w &&& ~~~1#32) ||| (v &&& 1#32) := by
  refine BitVec.eq_of_getLsbD_eq fun i hi => ?_
  rw [getLsbD_putBits _ _ _ _ _ (by omega), testBit_bits]
  by_cases h0 : i = 0
  · subst h0; simp
  · rw [if_neg (by omega)]
    simp only [BitVec.getLsbD_or, BitVec.getLsbD_and, BitVec.getLsbD_not, BitVec.getLsbD_one]
    simp [h0, hi]

end Sys2Proof.Machine
end

section
/-! Register addresses, and what every register and structure holds after reset. -/

namespace Sys2Proof.Machine
open Sys2Proof

/-! ## Addresses -/

theorem pageBase_mod (p : Page) : p.base % 0x1000 = 0 := by
  cases p <;> simp only [Page.base] <;> omega

/-- No page lies in the MSI-X table or beyond the security page. -/
theorem pageBase_range (p : Page) : p.base ≤ 0x1_0000 ∨ 0x10_0000 ≤ p.base ∧ p.base ≤ 0xC0_0000 := by
  cases p <;> simp only [Page.base] <;> omega

theorem regReset_base (p : Page) (o : Nat) (h : o < 0x1000) (h4 : o % 4 = 0) : regReset (p.base + o) = pageReset p o := by
  rw [regReset, pageAt_base p o h]
  exact if_pos h4

/-! ## After reset -/

theorem pg_reset (p : Page) (o : Nat) (h : o < 0x1000) (h4 : o % 4 = 0) : State.reset.pg p o = pageReset p o :=
  regReset_base p o h h4

theorem pageReset_block (p : Page) (o : Nat) (h : 0x100 ≤ o) : pageReset p o = blockReset p o := by
  rw [pageReset, if_neg (by simp only [PG_CTRL, PG_CNT_CTRL]; omega), if_neg (by omega)]

/-- A block-specific register after reset. -/
theorem pg_reset_block (p : Page) (o : Nat) (h0 : 0x100 ≤ o) (h : o < 0x1000) (h4 : o % 4 = 0) : State.reset.pg p o = blockReset p o := by
  rw [pg_reset p o h h4, pageReset_block p o h0]

/-- A register of the header that is neither PG_CTRL nor PG_CNT_CTRL is 0 after reset. -/
theorem pg_reset_header (p : Page) (o : Nat) (h : o < 0x100) (h4 : o % 4 = 0) (h1 : o ≠ PG_CTRL) (h2 : o ≠ PG_CNT_CTRL) :
    State.reset.pg p o = 0 := by
  rw [pg_reset p o (by omega) h4, pageReset, if_neg (by tauto), if_pos h]

theorem pg64_counter_reset (p : Page) (i : Nat) (h : i < 24) : State.reset.pg64 p (PG_CNT i) = 0 := by
  have hlo : State.reset.pg p (PG_CNT i) = 0 := pg_reset_header p _ (by simp only [PG_CNT]; omega) (by simp only [PG_CNT]; omega)
    (by simp only [PG_CNT, PG_CTRL]; omega) (by simp only [PG_CNT, PG_CNT_CTRL]; omega)
  have hhi : State.reset.pg p (PG_CNT i + 4) = 0 := pg_reset_header p _ (by simp only [PG_CNT]; omega) (by simp only [PG_CNT]; omega)
    (by simp only [PG_CNT, PG_CTRL]; omega) (by simp only [PG_CNT, PG_CNT_CTRL]; omega)
  rw [State.pg64, hlo, hhi]; rfl

theorem errInfo_reset (p : Page) (i : Fin 4) : State.reset.errInfo p i = 0 :=
  pg_reset_header p _ (by simp only [PG_ERR_INFO0]; omega) (by simp only [PG_ERR_INFO0]; omega)
    (by simp only [PG_ERR_INFO0, PG_CTRL]; omega) (by simp only [PG_ERR_INFO0, PG_CNT_CTRL]; omega)

theorem core_reset (c : CoreId) : State.reset.core c = Core.reset := by simp [State.core, State.reset]

theorem ctx_reset (c : CoreId) (x : CtxId) : State.reset.ctx c x = Ctx.reset := by
  rw [State.ctx, core_reset]; simp [Core.ctx, Core.reset]

/-- A wait table without entries shows 0, and all ones for the time left (R320). -/
theorem shown_wtab_reset (c : CoreId) (x : CtxId) :
    State.reset.shown (.sync c) (SYNC_WTAB x.val) = 0 ∧ State.reset.shown (.sync c) (SYNC_WTAB x.val + 12) = 0xFFFF_FFFF := by
  have hw (y : CtxId) (f : Nat) : State.reset.wtab c y f = if f = 3 then 0xFFFF_FFFF else 0 := by
    simp [State.wtab, core_reset, Core.waitOf, Core.reset]
  have hrun (o : Nat) (h : 0x140 ≤ o) (ho : o < 0x180) (h4 : o % 4 = 0) :
      State.reset.shown (.sync c) o = if (o - 0x140) / 4 % 4 = 3 then 0xFFFF_FFFF else 0 := by
    have : inRun o 0x140 4 16 = true := by simp [inRun]; omega
    rw [State.shown, if_neg (by omega), State.blockShown, if_pos this, hw]
  have hx := x.isLt
  constructor
  · rw [hrun _ (by simp only [SYNC_WTAB]; omega) (by simp only [SYNC_WTAB]; omega) (by simp only [SYNC_WTAB]; omega),
      if_neg (by simp only [SYNC_WTAB]; omega)]
  · rw [hrun _ (by simp only [SYNC_WTAB]; omega) (by simp only [SYNC_WTAB]; omega) (by simp only [SYNC_WTAB]; omega),
      if_pos (by simp only [SYNC_WTAB]; omega)]

/-- Every page's header after reset (R410). -/
theorem header_reset (p : Page) : State.reset.pg p PG_CTRL = 1 ∧ State.reset.pg p PG_CNT_CTRL = 1 ∧ State.reset.pg p PG_EVT_RAW = 0 ∧
    State.reset.pg p PG_EVT_EN = 0 ∧ State.reset.pg p PG_ERR_CODE = 0 ∧ (∀ i : Fin 4, State.reset.errInfo p i = 0) ∧
    ∀ i, i < 24 → State.reset.pg64 p (PG_CNT i) = 0 :=
  ⟨pg_reset p PG_CTRL (by decide) rfl, pg_reset p PG_CNT_CTRL (by decide) rfl, pg_reset p PG_EVT_RAW (by decide) rfl,
    pg_reset p PG_EVT_EN (by decide) rfl, pg_reset p PG_ERR_CODE (by decide) rfl, errInfo_reset p, pg64_counter_reset p⟩

/-! ## The blocks (the register tables of each chapter) -/

/-- A register at a given place of a page after reset, by the block's own table. -/
theorem pg_reset_of_table {p : Page} {o : Nat} {v : W32} (h0 : 0x100 ≤ o) (h : o < 0x1000) (h4 : o % 4 = 0) (hv : blockReset p o = v) :
    State.reset.pg p o = v := (pg_reset_block p o h0 h h4).trans hv

theorem ctxPage_reset (c : CoreId) (x : CtxId) :
    State.reset.pg (.ctx c x) CTX_CFG = 3 ∧ State.reset.pg (.ctx c x) CTX_PC = 0 ∧ State.reset.pg (.ctx c x) CTX_LEN = 0 ∧
      ∀ i, i < 256 → State.reset.pg (.ctx c x) (CTX_MAP i) = 0 := by
  refine ⟨pg_reset_of_table (by decide) (by decide) rfl rfl, pg_reset_of_table (by decide) (by decide) rfl rfl,
    pg_reset_of_table (by decide) (by decide) rfl rfl, fun i hi => ?_⟩
  have ho : 0x400 ≤ CTX_MAP i ∧ CTX_MAP i < 0x800 ∧ CTX_MAP i % 4 = 0 := by simp only [CTX_MAP]; omega
  exact pg_reset_of_table (by omega) (by omega) ho.2.2 (if_neg (by simp only [CTX_CFG]; omega))

theorem portMap_reset (c : CoreId) (p : Nat) (hp : p < 5) : State.reset.pg (.sto c) (STO_PORTMAP p) = 0xFFFF_FFFF := by
  have ho : 0x100 ≤ STO_PORTMAP p ∧ STO_PORTMAP p ≤ 0x110 ∧ STO_PORTMAP p % 4 = 0 := by simp only [STO_PORTMAP]; omega
  exact pg_reset_of_table ho.1 (by omega) ho.2.2 (if_pos ⟨ho.1, ho.2.1⟩)

theorem queueMax_reset (c : CoreId) (q : Nat) (hq : q < 8) : State.reset.pg (.sto c) (DMA_QMAX q) = 0x200 := by
  have ho : 0x200 ≤ DMA_QMAX q ∧ DMA_QMAX q ≤ 0x21C ∧ DMA_QMAX q % 4 = 0 := by simp only [DMA_QMAX]; omega
  refine pg_reset_of_table (by omega) (by omega) ho.2.2 ?_
  rw [blockReset, if_neg (by omega), if_neg (by simp only [STO_SCRUB]; omega), if_pos ⟨ho.1, ho.2.1⟩]

/-- The weights of an arbiter of the attic or the cellar: ten registers of eight, and the last weight alone (R345). -/
theorem arbWeights_reset (p : Page) (hp : (∃ t, p = .att t) ∨ ∃ q, p = .cel q) :
    (∀ i, i < 10 → State.reset.pg p (ARB_WT i) = 0x1111_1111) ∧ State.reset.pg p (ARB_WT 10) = 1 := by
  refine ⟨fun i hi => ?_, ?_⟩
  · have ho : 0x120 ≤ ARB_WT i ∧ ARB_WT i ≤ 0x144 ∧ ARB_WT i % 4 = 0 := by simp only [ARB_WT]; omega
    refine pg_reset_of_table (by omega) (by omega) ho.2.2 ?_
    rcases hp with ⟨t, rfl⟩ | ⟨q, rfl⟩
    · rw [blockReset, if_neg (by simp only [ATT_SCRUB]; omega), if_neg (by simp only [ARB_AGE]; omega), if_pos ⟨ho.1, ho.2.1⟩]
    · rw [blockReset, if_neg (by simp only [CEL_TIMEOUT]; omega), if_neg (by simp only [ARB_AGE]; omega), if_pos ⟨ho.1, ho.2.1⟩]
  · rcases hp with ⟨t, rfl⟩ | ⟨q, rfl⟩ <;> exact pg_reset_of_table (by decide) (by decide) rfl rfl

/-- The registers of a core's blocks after reset. -/
theorem corePages_reset (c : CoreId) :
    State.reset.pg (.seq c) SEQ_AGE_LIMIT = 0x1000 ∧ State.reset.pg (.seq c) SEQ_QUANTUM = 0x10 ∧ State.reset.pg (.seq c) SEQ_PHASE_CNT = 0 ∧
      (∀ x, State.reset.pg (.ctx c x) CTX_CFG = 3 ∧ State.reset.pg (.ctx c x) CTX_PC = 0 ∧ State.reset.pg (.ctx c x) CTX_LEN = 0 ∧
        ∀ i, i < 256 → State.reset.pg (.ctx c x) (CTX_MAP i) = 0) ∧
      (∀ g, State.reset.pg (.eg c g) LOFT_CFG = 1 ∧ State.reset.pg (.eg c g) SLOT_SAT = 0) ∧
      State.reset.pg (.se c) LOFT_CFG = 1 ∧ State.reset.pg (.fu c) FU_SKIP_CTL = 0 ∧
      (∀ p, p < 5 → State.reset.pg (.sto c) (STO_PORTMAP p) = 0xFFFF_FFFF) ∧ State.reset.pg (.sto c) STO_SCRUB = 0x1000 ∧
      (∀ q, q < 8 → State.reset.pg (.sto c) (DMA_QMAX q) = 0x200) ∧ State.reset.pg (.sync c) SYNC_DLK_WINDOW = 0x0100_0000 ∧
      State.reset.pg (.sync c) SYNC_PEERS_LO = 0xFFFF_FFFF ∧ State.reset.pg (.sync c) SYNC_PEERS_HI = 0xFFFF_FFFF ∧
      (∀ x : CtxId, State.reset.shown (.sync c) (SYNC_WTAB x.val) = 0 ∧ State.reset.shown (.sync c) (SYNC_WTAB x.val + 12) = 0xFFFF_FFFF) := by
  refine ⟨?_, ?_, ?_, ctxPage_reset c, fun g => ⟨?_, ?_⟩, ?_, ?_, portMap_reset c, ?_, queueMax_reset c, ?_, ?_, ?_, shown_wtab_reset c⟩
  all_goals exact pg_reset_of_table (by decide) (by decide) rfl rfl

/-- State after reset that is no register: contexts, units, queues, wait tables, memories and lofts are empty. -/
theorem empty_reset :
    (∀ (c : CoreId) (x : CtxId), (State.reset.ctx c x).run = .halted ∧ (State.reset.ctx c x).pend = false ∧
        (State.reset.ctx c x).loops = []) ∧
      (∀ c : CoreId, (State.reset.core c).waits = [] ∧ (State.reset.core c).live = [] ∧ (State.reset.core c).txns = [] ∧
        (∀ u : Nat, ((State.reset.core c).unit u).queue = [] ∧ ((State.reset.core c).unit u).exec = []) ∧
        ∀ q : QId, ((State.reset.core c).dmaq[q]).queue = [] ∧ ((State.reset.core c).dmaq[q]).halted = false) ∧
      (∀ a : Nat, inCellar a = false → State.reset.mem.byte a = 0) ∧
      (∀ w : Nat, State.reset.mem.feAt w = false ∧ State.reset.mem.poisonAt w = false) ∧
      (∀ k : Nat, State.reset.loftAt k = { s := 0, c := 0 }) ∧ State.reset.pending = [] := by
  refine ⟨fun c x => ?_, fun c => ?_, fun a ha => ?_, fun w => ⟨rfl, rfl⟩, fun k => ?_, rfl⟩
  · rw [ctx_reset]; exact ⟨rfl, rfl, rfl⟩
  · rw [core_reset]; simp [Core.reset, Core.unit]
  · rw [Mem.byte, ha]; rfl
  · change Entry.ofWord 0 = _
    decide

/-- Settles O2: every register of the tables by `pg_reset`, the rest by the structures of `State.reset`. -/
theorem resetValues : Obligations.ResetValues := by
  refine ⟨⟨header_reset, corePages_reset, fun t => ⟨?_, ?_, arbWeights_reset _ (.inl ⟨t, rfl⟩)⟩,
    fun p => ⟨?_, ?_, ?_, arbWeights_reset _ (.inr ⟨p, rfl⟩)⟩, ?_, ?_, ?_, ?_, ?_, ?_⟩, empty_reset⟩
  all_goals exact pg_reset_of_table (by decide) (by decide) rfl rfl

end Sys2Proof.Machine
end

section
/-! Fields of registers, the delivery of interrupts, counts and loops over numbers: what each changes and what it leaves. -/

namespace Sys2Proof.Machine
open Sys2Proof

/-! ## Loops over numbers -/

theorem forRange_succ (n : Nat) (f : Nat → α → α) (a : α) : forRange (n + 1) f a = f n (forRange n f a) := by
  rw [forRange, forRange, List.range_succ, List.foldl_append]; rfl

/-- A loop whose every turn leaves the value does nothing. -/
theorem forRange_of_fixed (n : Nat) (f : Nat → α → α) (a : α) (h : ∀ i, i < n → f i a = a) : forRange n f a = a := by
  induction n with
  | zero => rfl
  | succ n ih => rw [forRange_succ, ih fun i hi => h i (by omega), h n (by omega)]

/-! ## Registers -/

theorem State.setPg_frame (s : State) (p : Page) (o : Nat) (v : W32) : s.setPg p o v = { s with regs := (s.setPg p o v).regs } := rfl

theorem State.setField_frame (s : State) (p : Page) (o lo len v : Nat) :
    s.setField p o lo len v = { s with regs := (s.setField p o lo len v).regs } := rfl

@[simp] theorem State.pg_setField_same (s : State) (p : Page) (o lo len v : Nat) :
    (s.setField p o lo len v).pg p o = putBits (s.pg p o) lo len v := State.pg_setPg_same ..

theorem State.pg_setField_other (s : State) (p q : Page) (o o' lo len v : Nat) (h : o < 0x1000) (h' : o' < 0x1000) (hne : q ≠ p ∨ o' ≠ o) :
    (s.setField p o lo len v).pg q o' = s.pg q o' := by
  rw [State.setField, State.pg_setPg _ _ _ _ _ _ h h', if_neg (by tauto)]

/-- Recovery mode is a bit of PKG_STAT. -/
theorem State.recovery_setPg (s : State) (p : Page) (o : Nat) (v : W32) (h : o < 0x1000) (hne : p ≠ .pkg ∨ o ≠ PKG_STAT) :
    (s.setPg p o v).recovery = s.recovery := by
  rw [State.recovery, State.pg_setPg _ _ _ _ _ _ h (by decide), if_neg (by tauto)]; rfl

/-! ## The delivery of interrupts (R408, R409) -/

/-- t is s after interrupts have gone out, if any: the host interface has changed, its MSI-X tables apart, and of the registers the
counters of the package page. -/
structure Delivered (s t : State) : Prop where
  frame : t = { s with host := t.host, regs := t.regs }
  msix : t.host.msix = s.host.msix
  pg : ∀ (q : Page) (o : Nat), o < 0x1000 → (q ≠ .pkg ∨ o < 0x40 ∨ 0x100 ≤ o) → t.pg q o = s.pg q o

theorem Delivered.refl (s : State) : Delivered s s := ⟨rfl, rfl, fun _ _ _ _ => rfl⟩

theorem Delivered.trans {s t u : State} (h : Delivered s t) (k : Delivered t u) : Delivered s u where
  frame := by
    have e := k.frame
    rw [h.frame] at e
    exact e
  msix := k.msix.trans h.msix
  pg q o ho hq := (k.pg q o ho hq).trans (h.pg q o ho hq)

theorem Delivered.cores {s t : State} (h : Delivered s t) : t.cores = s.cores := by rw [h.frame]
theorem Delivered.power {s t : State} (h : Delivered s t) : t.power = s.power := by rw [h.frame]
theorem Delivered.mgmt {s t : State} (h : Delivered s t) : t.mgmt = s.mgmt := by rw [h.frame]
theorem Delivered.pins {s t : State} (h : Delivered s t) : t.pins = s.pins := by rw [h.frame]

theorem Delivered.modHost (s : State) (f : HostIf → HostIf) (hf : (f s.host).msix = s.host.msix) : Delivered s (s.modHost f) :=
  ⟨rfl, hf, fun _ _ _ _ => rfl⟩

theorem Delivered.bump (s : State) (i n : Nat) (hi : i < 24) : Delivered s (s.bump .pkg i n) where
  frame := by rw [s.bump_frame]
  msix := by rw [s.bump_frame]
  pg q o ho hq := s.pg_bump .pkg q i n o hi ho hq

theorem Delivered.sendVector (s : State) (f : FnId) (v : Nat) : Delivered s (s.sendVector f v) := by
  rw [State.sendVector]
  dsimp only
  split
  · exact .refl s
  · split
    · exact .modHost s _ rfl
    · exact (Delivered.modHost s _ rfl).trans (.bump _ 3 1 (by decide))

theorem Delivered.deliver (s : State) (n : Nat) : Delivered s (s.deliver n) := by
  rw [State.deliver]
  split
  · exact .sendVector ..
  · exact .refl s

theorem Delivered.rise (s t : State) (n : Nat) : Delivered t (s.rise t n) := by
  rw [State.rise]
  split
  · exact .deliver ..
  · exact .refl t

/-- An event sets its raw bit; what else it changes is a delivery. -/
theorem Delivered.event (s : State) (p : Page) (b : Nat) : Delivered (s.setField p PG_EVT_RAW b 1 1) (s.event p b) := .rise ..

theorem Delivered.flushPending (s : State) (f : FnId) : Delivered s (s.flushPending f) := by
  refine forRange_keeps (Delivered s) 128 _ (fun i t h => ?_) s (.refl s)
  split
  · exact h.trans (.sendVector ..)
  · exact h

/-- A source that has risen is delivered. -/
theorem State.rise_eq (s t : State) (n : Nat) :
    s.rise t n = if s.sourceHigh n = false ∧ t.sourceHigh n = true then t.deliver n else t := by
  simp [State.rise]

end Sys2Proof.Machine
end

section
/-! Register writes by the host: where a write goes, and what each kind of register does with it (R13 to R15, R402, R403, R408 to R413). -/

namespace Sys2Proof.Machine
open Sys2Proof

/-! ## Where a write goes -/

/-- REGISTER_WRITE of a function whose requests reach the package. -/
theorem exec_registerWrite {fn : FnId} {s : State} (hup : s.hostUp fn = true) (off : BitVec 26) (size : Nat) (v : W64) :
    exec (.registerWrite fn off size v) s = .next (s.writeBar0 fn off.toNat size v) :=
  congrArg Host.Outcome.next (if_pos hup)

theorem toNat_pageOffset (p : Page) (o : Nat) (ho : o < 0x1000) : (BitVec.ofNat 26 (p.base + o)).toNat = p.base + o := by
  have := pageBase_range p
  rw [BitVec.toNat_ofNat]
  omega

theorem writeBar0_of_misaligned (s : State) (fn : FnId) (off size : Nat) (v : W64) (h4 : ¬(size = 4 ∧ off % 4 = 0))
    (h8 : ¬(size = 8 ∧ off % 8 = 0)) : s.writeBar0 fn off size v = s := by
  rw [State.writeBar0, if_neg h4, if_neg h8]

/-- A write within a page. -/
theorem writeReg_page (s : State) (fn : FnId) (p : Page) (o : Nat) (v : W32) (ho : o < 0x1000) :
    s.writeReg fn (p.base + o) v =
      if !s.pageThere p || !s.mayWrite fn p then s else if o < 0x100 then s.writeHeader p o v else s.writeBlock fn p o v := by
  have := pageBase_range p
  rw [State.writeReg, if_neg (by omega), pageAt_base p o ho]

theorem writeReg_denied {s : State} {fn : FnId} {p : Page} (hm : s.mayWrite fn p = false) (o : Nat) (v : W32) (ho : o < 0x1000) :
    s.writeReg fn (p.base + o) v = s := by
  rw [writeReg_page s fn p o v ho, hm, if_pos (by simp)]

theorem writeReg_header {s : State} {fn : FnId} {p : Page} (hp : s.pageThere p = true) (hm : s.mayWrite fn p = true) (o : Nat) (v : W32)
    (ho : o < 0x100) : s.writeReg fn (p.base + o) v = s.writeHeader p o v := by
  rw [writeReg_page s fn p o v (by omega), hp, hm, if_neg (by decide), if_pos ho]

theorem writeReg_block {s : State} {fn : FnId} {p : Page} (hp : s.pageThere p = true) (hm : s.mayWrite fn p = true) (o : Nat) (v : W32)
    (h0 : 0x100 ≤ o) (ho : o < 0x1000) : s.writeReg fn (p.base + o) v = s.writeBlock fn p o v := by
  rw [writeReg_page s fn p o v ho, hp, hm, if_neg (by decide), if_neg (by omega)]

/-- Four aligned bytes are one register. -/
theorem exec_write4 {fn : FnId} {s : State} (hup : s.hostUp fn = true) (p : Page) (o : Nat) (v : W64) (ho : o < 0x1000) (h4 : o % 4 = 0) :
    exec (.registerWrite fn (BitVec.ofNat 26 (p.base + o)) 4 v) s = .next (s.writeReg fn (p.base + o) (v.setWidth 32)) := by
  have := pageBase_mod p
  rw [exec_registerWrite hup, toNat_pageOffset p o ho, State.writeBar0, if_pos ⟨rfl, by omega⟩]

/-- Eight aligned bytes are two registers, the lower offset first. -/
theorem exec_write8 {fn : FnId} {s : State} (hup : s.hostUp fn = true) (p : Page) (o : Nat) (v : W64) (ho : o < 0x1000) (h8 : o % 8 = 0) :
    exec (.registerWrite fn (BitVec.ofNat 26 (p.base + o)) 8 v) s =
      .next ((s.writeReg fn (p.base + o) (v.setWidth 32)).writeReg fn (p.base + (o + 4)) ((v >>> 32).setWidth 32)) := by
  have := pageBase_mod p
  rw [exec_registerWrite hup, toNat_pageOffset p o ho, State.writeBar0, if_neg (by omega), if_pos ⟨rfl, by omega⟩, Nat.add_assoc]

theorem exec_write_header {fn : FnId} {p : Page} {s : State} (hup : s.hostUp fn = true) (hp : s.pageThere p = true)
    (hm : s.mayWrite fn p = true) (o : Nat) (v : W64) (ho : o < 0x100) (h4 : o % 4 = 0) :
    exec (.registerWrite fn (BitVec.ofNat 26 (p.base + o)) 4 v) s = .next (s.writeHeader p o (v.setWidth 32)) := by
  rw [exec_write4 hup p o v (by omega) h4, writeReg_header hp hm o _ ho]

theorem exec_write_block {fn : FnId} {p : Page} {s : State} (hup : s.hostUp fn = true) (hp : s.pageThere p = true)
    (hm : s.mayWrite fn p = true) (o : Nat) (v : W64) (h0 : 0x100 ≤ o) (ho : o < 0x1000) (h4 : o % 4 = 0) :
    exec (.registerWrite fn (BitVec.ofNat 26 (p.base + o)) 4 v) s = .next (s.writeBlock fn p o (v.setWidth 32)) := by
  rw [exec_write4 hup p o v ho h4, writeReg_block hp hm o _ h0 ho]

/-- A write by a function without the right changes nothing, whatever its size (R403). -/
theorem exec_write_denied {fn : FnId} {p : Page} {s : State} (hup : s.hostUp fn = true) (hm : s.mayWrite fn p = false) (o size : Nat) (v : W64)
    (ho : o < 0x1000) : exec (.registerWrite fn (BitVec.ofNat 26 (p.base + o)) size v) s = .next s := by
  have := pageBase_mod p
  by_cases h4 : size = 4 ∧ o % 4 = 0
  · rw [h4.1, exec_write4 hup p o v ho h4.2, writeReg_denied hm o _ ho]
  · by_cases h8 : size = 8 ∧ o % 8 = 0
    · rw [h8.1, exec_write8 hup p o v ho h8.2, writeReg_denied hm o _ ho, writeReg_denied hm (o + 4) _ (by omega)]
    · rw [exec_registerWrite hup, toNat_pageOffset p o ho, writeBar0_of_misaligned _ _ _ _ _ (by omega) (by omega)]

/-! ## Registers that a write sets under their mask (R14, R15) -/

theorem plainReg_place {p : Page} {o : Nat} (h : plainReg p o = true) : 0x100 ≤ o ∧ o < 0x1000 ∧ o % 4 = 0 := by
  unfold plainReg at h
  rw [Bool.and_eq_true, decide_eq_true_iff] at h
  exact h.1

theorem writeBlock_of_plainReg {p : Page} {o : Nat} (h : plainReg p o = true) (s : State) (fn : FnId) (v : W32) :
    s.writeBlock fn p o v = s.writeRw p o v := by
  cases p <;> simp_all [plainReg, State.writeBlock, State.writeCtx]

/-- The owners of cores stand in registers that are not plain. -/
theorem mayWrite_writeRw {p : Page} {o : Nat} (h : plainReg p o = true) (s : State) (fn : FnId) (v : W32) (q : Page) :
    (s.writeRw p o v).mayWrite fn q = s.mayWrite fn q := by
  have howner (c : CoreId) : (s.writeRw p o v).owner c = s.owner c := by
    have hc := c.isLt
    have hne : ¬(Page.pkg = p ∧ PKG_CORE_FN (c.val / 8) = o) := by
      rintro ⟨rfl, rfl⟩
      simp [plainReg, inRun, PKG_CORE_FN] at h
      omega
    rw [State.owner, State.owner, State.writeRw, State.pg_setPg _ _ _ _ _ _ (plainReg_place h).2.1 (by simp only [PKG_CORE_FN]; omega),
      if_neg hne]
  simp only [State.mayWrite, State.ownsPage, howner]

theorem pageThere_setPg (s : State) (p : Page) (o : Nat) (v : W32) (ho : o < 0x1000) (hne : p ≠ .pkg ∨ o ≠ PKG_STAT) (q : Page) :
    (s.setPg p o v).pageThere q = s.pageThere q := by
  unfold State.pageThere
  rw [s.recovery_setPg p o v ho hne]; rfl

/-- The stream registers and the map of a context (R179, R294). -/
theorem streamReg_place {o : Nat} (h : o = CTX_PC ∨ o = CTX_BASE_LO ∨ o = CTX_BASE_HI ∨ o = CTX_LEN ∨ inRun o 0x400 4 256 = true) :
    0x100 ≤ o ∧ o < 0x1000 ∧ o % 4 = 0 ∧ o ≠ CTX_CFG := by
  rcases h with rfl | rfl | rfl | rfl | h
  · decide
  · decide
  · decide
  · decide
  · simp [inRun] at h
    simp only [CTX_CFG]
    omega

/-- They take a write while the context is HALTED or FAULTED. -/
theorem writeCtx_stream (s : State) (fn : FnId) (c : CoreId) (x : CtxId) {o : Nat} (v : W32)
    (h : o = CTX_PC ∨ o = CTX_BASE_LO ∨ o = CTX_BASE_HI ∨ o = CTX_LEN ∨ inRun o 0x400 4 256 = true) :
    s.writeBlock fn (.ctx c x) o v =
      if (s.ctx c x).run = .halted ∨ (s.ctx c x).run = .faulted then s.writeRw (.ctx c x) o v else s := by
  change s.writeCtx fn c x o v = _
  rw [State.writeCtx, if_neg (streamReg_place h).2.2.2, if_pos h]
  simp

/-- The mailbox takes a write while it is not busy (R450). -/
theorem writeBlock_mbx (s : State) (fn : FnId) (o : Nat) (v : W32) (hgo : s.mbxBusy = false → o ≠ MBX_GO) :
    s.writeBlock fn .mbx o v = if s.mbxBusy then s else s.writeRw .mbx o v := by
  change (if s.mbxBusy then s else if o = MBX_GO then _ else _) = _
  cases hb : s.mbxBusy with
  | true => rfl
  | false => simp [hgo hb]

/-! ## Registers that not every write or writer sets (R402, R403) -/

/-- All bits are writable: the value is stored. -/
theorem writeRw_all {p : Page} {o : Nat} (h : rwMask p o = 0xFFFF_FFFF) (s : State) (v : W32) : s.writeRw p o v = s.setPg p o v := by
  have hall : (0xFFFF_FFFF : W32) = BitVec.allOnes 32 := rfl
  simp only [State.writeRw, h, hall, BitVec.not_allOnes, BitVec.and_zero, BitVec.zero_or, BitVec.and_allOnes]

/-- The nibbles of the first n cores of PKG_CORE_FNi, each where its core is quiet. -/
def coreFnNibbles (s : State) (i : Nat) (v : W32) (n : Nat) : State :=
  forRange n (fun j s => if s.quiet (Fin.ofNat 64 (8 * i + j)) then s.setField .pkg (PKG_CORE_FN i) (4 * j) 4 (bits v (4 * j) 4) else s) s

theorem coreFnNibbles_all (s : State) (i : Nat) (v : W32) : s.writeCoreFn i v = coreFnNibbles s i v 8 := rfl

theorem coreFnNibbles_succ (s : State) (i : Nat) (v : W32) (n : Nat) : coreFnNibbles s i v (n + 1) =
    if (coreFnNibbles s i v n).quiet (Fin.ofNat 64 (8 * i + n))
    then (coreFnNibbles s i v n).setField .pkg (PKG_CORE_FN i) (4 * n) 4 (bits v (4 * n) 4) else coreFnNibbles s i v n := forRange_succ ..

theorem coreFnNibbles_frame (s : State) (i : Nat) (v : W32) (n : Nat) :
    coreFnNibbles s i v n = { s with regs := (coreFnNibbles s i v n).regs } := by
  refine forRange_keeps (fun t : State => t = { s with regs := t.regs }) n _ (fun j t ht => ?_) s rfl
  split
  · rw [State.setField_frame, ht]
  · exact ht

/-- Whether a core is quiet is no matter of registers. -/
theorem quiet_coreFnNibbles (s : State) (i : Nat) (v : W32) (n : Nat) (c : CoreId) : (coreFnNibbles s i v n).quiet c = s.quiet c := by
  rw [coreFnNibbles_frame]; rfl

theorem quiet_iff (s : State) (c : CoreId) : s.quiet c = true ↔ ∀ x : CtxId, (s.ctx c x).run = .halted ∨ (s.ctx c x).run = .faulted := by
  simp only [State.quiet, State.ctx, Core.ctx, List.all_eq_true, Vector.mem_toList_iff, Bool.or_eq_true, beq_iff_eq]
  constructor
  · intro h x
    exact h _ (Vector.getElem_mem x.isLt)
  · intro h t ht
    obtain ⟨i, hi, rfl⟩ := Vector.getElem_of_mem ht
    exact h ⟨i, hi⟩

theorem pg_coreFnNibbles_other (s : State) (i : Nat) (hi : i < 8) (v : W32) (n : Nat) (q : Page) (o : Nat) (ho : o < 0x1000)
    (hne : q ≠ .pkg ∨ o ≠ PKG_CORE_FN i) : (coreFnNibbles s i v n).pg q o = s.pg q o := by
  refine forRange_keeps (fun t : State => t.pg q o = s.pg q o) n _ (fun j t ht => ?_) s rfl
  split
  · rw [State.pg_setField_other _ _ _ _ _ _ _ _ (by simp only [PKG_CORE_FN]; omega) ho hne, ht]
  · exact ht

theorem bits_coreFnNibbles (s : State) (i : Nat) (v : W32) (n j : Nat) (hn : n ≤ 8) (hj : j < 8) :
    bits ((coreFnNibbles s i v n).pg .pkg (PKG_CORE_FN i)) (4 * j) 4 =
      if j < n ∧ s.quiet (Fin.ofNat 64 (8 * i + j)) = true then bits v (4 * j) 4 else bits (s.pg .pkg (PKG_CORE_FN i)) (4 * j) 4 := by
  induction n with
  | zero => simp [coreFnNibbles, forRange]
  | succ n ih =>
    have ih := ih (by omega)
    rw [coreFnNibbles_succ, quiet_coreFnNibbles]
    by_cases hq : s.quiet (Fin.ofNat 64 (8 * i + n)) = true
    · rw [if_pos hq, State.pg_setField_same]
      by_cases hjn : j = n
      · subst hjn
        rw [bits_putBits_same _ _ _ _ (by omega), bits_mod, if_pos ⟨by omega, hq⟩]
      · rw [bits_putBits_other _ _ _ _ _ _ (by omega) (by omega), ih]
        exact if_congr (and_congr_left fun _ => by omega) rfl rfl
    · rw [if_neg hq, ih]
      refine if_congr (and_congr_left fun hqj => ?_) rfl rfl
      have : j ≠ n := fun e => hq (e ▸ hqj)
      omega

end Sys2Proof.Machine
end

section
/-! Register writes by the host, the registers with a rule of their own: core functions and rafter masks, CTX_CFG, the sync peers, saturation bits,
the MSI-X table, the page header. -/

namespace Sys2Proof.Machine
open Sys2Proof

/-! ## The package page -/

theorem inRun_of (lo step n i : Nat) (hi : i < n) (hs : 0 < step) : inRun (lo + step * i) lo step n = true := by
  have : step * i < step * n := Nat.mul_lt_mul_of_pos_left hi hs
  simp [inRun, this]

theorem writeBlock_coreFn (s : State) (fn : FnId) (i : Nat) (v : W32) (hi : i < 8) :
    s.writeBlock fn .pkg (PKG_CORE_FN i) v = coreFnNibbles s i v 8 := by
  have hrun : inRun (PKG_CORE_FN i) 0x140 4 8 = true := inRun_of 0x140 4 8 i hi (by decide)
  have hidx : (PKG_CORE_FN i - 0x140) / 4 = i := by simp only [PKG_CORE_FN]; omega
  change (if inRun (PKG_CORE_FN i) 0x140 4 8 = true then _ else _) = _
  rw [if_pos hrun, hidx, coreFnNibbles_all]

/-- A rafter mask takes the bits of enabled cores (R311): cores 0 to 31 in the low register, the others in the high one. -/
theorem writeBlock_rafMask (s : State) (fn : FnId) (k : Nat) (v : W32) (hk : k < 32) :
    s.writeBlock fn .pkg (0x200 + 4 * k) v = s.setPg .pkg (0x200 + 4 * k)
      (v &&& if k % 2 = 0 then s.mgmt.fuses.coreEn.setWidth 32 else (s.mgmt.fuses.coreEn >>> 32).setWidth 32) := by
  have hno : ¬ inRun (0x200 + 4 * k) 0x140 4 8 = true := by simp [inRun]; omega
  change (if inRun (0x200 + 4 * k) 0x140 4 8 = true then _ else if inRun (0x200 + 4 * k) 0x200 4 32 = true then _ else _) = _
  rw [if_neg hno, if_pos (inRun_of 0x200 4 32 k hk (by decide))]
  by_cases h : k % 2 = 0
  · rw [if_pos h]
    simp only [show (0x200 + 4 * k) % 8 = 0 by omega, if_true]
    rw [w32, BitVec.ofNat_toNat]
  · rw [if_neg h]
    simp only [show ¬ (0x200 + 4 * k) % 8 = 0 by omega, if_false]
    rw [w32, ← BitVec.toNat_ushiftRight, BitVec.ofNat_toNat]

/-! ## CTX_CFG, the sync peers, saturation bits -/

/-- CTX_CFG: the class and the weight always, priv by function 0 alone (R403). -/
theorem writeBlock_ctxCfg (s : State) (fn : FnId) (c : CoreId) (x : CtxId) (v : W32) :
    s.writeBlock fn (.ctx c x) CTX_CFG v =
      if fn = 0 then (s.setField (.ctx c x) CTX_CFG 0 2 (bits v 0 2)).setField (.ctx c x) CTX_CFG 2 1 (bits v 2 1)
      else s.setField (.ctx c x) CTX_CFG 0 2 (bits v 0 2) := rfl

/-- What that leaves in CTX_CFG, and everywhere else. -/
theorem ctxCfg_written (s : State) (fn : FnId) (c : CoreId) (x : CtxId) (v : W32) (t : State) (ht : t = s.writeBlock fn (.ctx c x) CTX_CFG v) :
    t = { s with regs := t.regs } ∧ bits (t.pg (.ctx c x) CTX_CFG) 0 2 = bits v 0 2 ∧
      bit (t.pg (.ctx c x) CTX_CFG) 2 = (if fn = 0 then bit v 2 else bit (s.pg (.ctx c x) CTX_CFG) 2) ∧
      bits (t.pg (.ctx c x) CTX_CFG) 3 29 = bits (s.pg (.ctx c x) CTX_CFG) 3 29 ∧
      ∀ (q : Page) (o : Nat), o < 0x1000 → (q ≠ .ctx c x ∨ o ≠ CTX_CFG) → t.pg q o = s.pg q o := by
  have hcfg : CTX_CFG < 0x1000 := by decide
  rw [writeBlock_ctxCfg] at ht
  by_cases hf : fn = 0
  · rw [if_pos hf] at ht
    subst ht
    rw [State.pg_setField_same, State.pg_setField_same]
    refine ⟨rfl, ?_, ?_, ?_, fun q o ho hne => ?_⟩
    · rw [bits_putBits_other _ _ _ _ _ _ (by decide) (by decide), bits_putBits_same _ _ _ _ (by decide), bits_mod]
    · rw [if_pos hf, bit_putBits _ _ _ _ _ (by decide), if_pos (by decide), testBit_bits]; rfl
    · rw [bits_putBits_other _ _ _ _ _ _ (by decide) (by decide), bits_putBits_other _ _ _ _ _ _ (by decide) (by decide)]
    · rw [State.pg_setField_other _ _ _ _ _ _ _ _ hcfg ho hne, State.pg_setField_other _ _ _ _ _ _ _ _ hcfg ho hne]
  · rw [if_neg hf] at ht
    subst ht
    rw [State.pg_setField_same]
    refine ⟨rfl, ?_, ?_, ?_, fun q o ho hne => ?_⟩
    · rw [bits_putBits_same _ _ _ _ (by decide), bits_mod]
    · rw [if_neg hf, bit_putBits_other _ _ _ _ _ (by decide) (by decide)]
    · rw [bits_putBits_other _ _ _ _ _ _ (by decide) (by decide)]
    · rw [State.pg_setField_other _ _ _ _ _ _ _ _ hcfg ho hne]

/-- The sync peers take a write by function 0 alone (R403). -/
theorem writeBlock_syncPeers (s : State) (fn : FnId) (c : CoreId) {o : Nat} (ho : o = SYNC_PEERS_LO ∨ o = SYNC_PEERS_HI) (v : W32) :
    s.writeBlock fn (.sync c) o v = if fn = 0 then s.setPg (.sync c) o v else s := by
  have hw : s.writeRw (.sync c) o v = s.setPg (.sync c) o v := by
    rcases ho with rfl | rfl <;> exact writeRw_all rfl s v
  rw [← hw]
  rcases ho with rfl | rfl <;> rfl

/-- The saturation bits of a loft's slots clear where a 1 is written (R118). -/
theorem writeBlock_slotSat (s : State) (fn : FnId) {c : CoreId} {p : Page} (hp : (∃ g, p = .eg c g) ∨ p = .se c) (v : W32) :
    s.writeBlock fn p SLOT_SAT v = s.setPg p SLOT_SAT (s.pg p SLOT_SAT &&& ~~~v) := by
  rcases hp with ⟨g, rfl⟩ | rfl <;> rfl

/-! ## The MSI-X table -/

theorem exec_write_msix {fn : FnId} {s : State} (hup : s.hostUp fn = true) (u d : Nat) (hu : u < 128) (hd : d < 4) (v : W64) :
    exec (.registerWrite fn (BitVec.ofNat 26 (0x2_0000 + 16 * u + 4 * d)) 4 v) s =
      .next (if s.recovery then s else s.writeMsix fn (4 * u + d) (v.setWidth 32)) := by
  have hoff : (BitVec.ofNat 26 (0x2_0000 + 16 * u + 4 * d)).toNat = 0x2_0000 + 16 * u + 4 * d := by rw [BitVec.toNat_ofNat]; omega
  have hidx : (0x2_0000 + 16 * u + 4 * d - 0x2_0000) / 4 = 4 * u + d := by omega
  rw [exec_registerWrite hup, hoff, State.writeBar0, if_pos ⟨rfl, by omega⟩, State.writeReg, if_pos (by omega), hidx]

/-- Nothing pending, nothing sent. -/
theorem flushPending_of_none (s : State) (f : FnId) (h : ∀ k, k < 128 → s.host.pba.contains (128 * f.val + k) = false) : s.flushPending f = s :=
  forRange_of_fixed 128 _ s fun k hk => by simp only [h k hk]; rfl

/-- The word a function writes into its table, before pending vectors go out. -/
def msixStored (s : State) (f : FnId) (k : Nat) (v : W32) : State :=
  s.modHost fun h => { h with msix := smSet msixReset h.msix (512 * f.val + k) (if k % 4 = 3 then v &&& 1 else v) }

theorem writeMsix_eq (s : State) (f : FnId) (k : Nat) (v : W32) : s.writeMsix f k v = (msixStored s f k v).flushPending f := rfl

/-- A table word after a write: of a control word the mask bit alone; every other word as before. -/
theorem msixWord_stored (s : State) (f : FnId) (u d : Nat) (hd : d < 4) (v : W32) :
    (msixStored s f (4 * u + d) v).msixWord f.val u d = (if d = 3 then v &&& 1 else v) ∧
      (u < 128 → ∀ g k e, k < 128 → e < 4 → (g ≠ f.val ∨ k ≠ u ∨ e ≠ d) →
        (msixStored s f (4 * u + d) v).msixWord g k e = s.msixWord g k e) := by
  constructor
  · have hctl : (4 * u + d) % 4 = 3 ↔ d = 3 := by omega
    have hkey : 512 * f.val + 4 * u + d = 512 * f.val + (4 * u + d) := by omega
    rw [State.msixWord, hkey]
    exact (smGet_set_same ..).trans (if_congr hctl rfl rfl)
  · intro hu g k e hk he hne
    exact smGet_set_other _ _ _ _ _ (by omega)

theorem msixWord_of_delivered {s t : State} (h : Delivered s t) (g k e : Nat) : t.msixWord g k e = s.msixWord g k e := by
  rw [State.msixWord, h.msix]; rfl

/-! ## The header (R410 to R413) -/

/-- PG_CTRL.en as written. -/
theorem setField_ctrlEn (s : State) (p : Page) (v : W32) :
    s.setField p PG_CTRL 0 1 (bits v 0 1) = s.setPg p PG_CTRL ((s.pg p PG_CTRL &&& ~~~1#32) ||| (v &&& 1#32)) := by
  rw [State.setField, putBits_bit0]

theorem writeCtrl_other (s : State) (p : Page) (v : W32) (hc : ∀ c x, p ≠ .ctx c x) (hs : ∀ c, p ≠ .seq c) :
    s.writeCtrl p v = s.rise (s.setField p PG_CTRL 0 1 (bits v 0 1)) p.source := by
  cases p with
  | ctx c x => exact absurd rfl (hc c x)
  | seq c => exact absurd rfl (hs c)
  | _ => rfl

/-- The counters of a page below the n-th cleared. -/
def countersCleared (s : State) (p : Page) (n : Nat) : State := forRange n (fun i s => s.setPg64 p (PG_CNT i) 0) s

theorem clearCounters_eq (s : State) (p : Page) : s.clearCounters p = countersCleared s p 24 := rfl

theorem countersCleared_frame (s : State) (p : Page) (n : Nat) : countersCleared s p n = { s with regs := (countersCleared s p n).regs } :=
  forRange_keeps (fun t : State => t = { s with regs := t.regs }) n _
    (fun i t ht => by rw [State.setPg64, State.setPg_frame, State.setPg_frame, ht]) s rfl

/-- Each register of a page is 0 where a counter has been cleared, and as before elsewhere. -/
theorem pg_countersCleared (s : State) (p q : Page) (n o : Nat) (hn : n ≤ 24) (ho : o < 0x1000) (h4 : o % 4 = 0) :
    (countersCleared s p n).pg q o = if q = p ∧ 0x40 ≤ o ∧ o < PG_CNT n then 0 else s.pg q o := by
  induction n with
  | zero => rw [if_neg (by simp only [PG_CNT]; omega)]; rfl
  | succ n ih =>
    have h0 : PG_CNT n < 0x1000 ∧ PG_CNT n + 4 < 0x1000 := by simp only [PG_CNT]; omega
    have hcnt : 0x40 ≤ PG_CNT n ∧ PG_CNT n % 4 = 0 ∧ PG_CNT (n + 1) = PG_CNT n + 8 := by simp only [PG_CNT]; omega
    rw [countersCleared, forRange_succ, ← countersCleared, State.setPg64, State.pg_setPg _ _ _ _ _ _ h0.2 ho, State.pg_setPg _ _ _ _ _ _ h0.1 ho,
      ih (by omega)]
    by_cases hq : q = p
    · by_cases hlo : o = PG_CNT n
      · rw [if_neg (by omega), if_pos ⟨hq, hlo⟩, if_pos ⟨hq, by omega⟩]; rfl
      · by_cases hhi : o = PG_CNT n + 4
        · rw [if_pos ⟨hq, hhi⟩, if_pos ⟨hq, by omega⟩]; rfl
        · rw [if_neg (by tauto), if_neg (by tauto)]
          exact if_congr (and_congr_right fun _ => by omega) rfl rfl
    · rw [if_neg (by tauto), if_neg (by tauto), if_neg (by tauto), if_neg (by tauto)]

/-! ## REGISTER_WRITE, PG_EVT_CLEAR, COUNTER_CLEAR -/

/-- The value of a register under a write: the writable bits from the value written, the others as they are (R14, R15). -/
def maskedValue (s : State) (p : Page) (o : Nat) (v : W32) : W32 := (s.pg p o &&& ~~~(rwMask p o)) ||| (v &&& rwMask p o)

theorem writeRw_eq (s : State) (p : Page) (o : Nat) (v : W32) : s.writeRw p o v = s.setPg p o (maskedValue s p o v) := rfl

theorem exec_write_plain {fn : FnId} {p : Page} {s : State} (hup : s.hostUp fn = true) (hp : s.pageThere p = true) (hm : s.mayWrite fn p = true)
    (o : Nat) (v : W64) (h : plainReg p o = true) :
    exec (.registerWrite fn (BitVec.ofNat 26 (p.base + o)) 4 v) s = .next (s.setPg p o (maskedValue s p o (v.setWidth 32))) := by
  obtain ⟨h0, ho, h4⟩ := plainReg_place h
  rw [exec_write_block hup hp hm o v h0 ho h4, writeBlock_of_plainReg h, writeRw_eq]

/-- The second half of an eight-byte write finds its register as it was, and the page and the right still there. -/
theorem exec_write_plain8 {fn : FnId} {p : Page} {s : State} (hup : s.hostUp fn = true) (hp : s.pageThere p = true) (hm : s.mayWrite fn p = true)
    (o : Nat) (v : W64) (h : plainReg p o = true) (h' : plainReg p (o + 4) = true) (h8 : o % 8 = 0) :
    exec (.registerWrite fn (BitVec.ofNat 26 (p.base + o)) 8 v) s =
      .next ((s.setPg p o (maskedValue s p o (v.setWidth 32))).setPg p (o + 4) (maskedValue s p (o + 4) ((v >>> 32).setWidth 32))) := by
  obtain ⟨h0, ho, -⟩ := plainReg_place h
  obtain ⟨h0', ho', -⟩ := plainReg_place h'
  have hstat : o ≠ PKG_STAT := by simp only [PKG_STAT]; omega
  have hp' : (s.writeRw p o (v.setWidth 32)).pageThere p = true := (pageThere_setPg s p o _ ho (.inr hstat) p).trans hp
  have hm' : (s.writeRw p o (v.setWidth 32)).mayWrite fn p = true := (mayWrite_writeRw h s fn _ p).trans hm
  have hval (u : W32) : maskedValue (s.writeRw p o (v.setWidth 32)) p (o + 4) u = maskedValue s p (o + 4) u := by
    rw [maskedValue, State.writeRw, State.pg_setPg_off _ _ _ _ _ _ ho ho' (by omega)]; rfl
  rw [exec_write8 hup p o v ho h8, writeReg_block hp hm o _ h0 ho, writeBlock_of_plainReg h, writeReg_block hp' hm' (o + 4) _ h0' ho',
    writeBlock_of_plainReg h', writeRw_eq _ p (o + 4), hval, writeRw_eq]

/-- A stream register of a context that runs is left as it is (R179). -/
theorem exec_write_stream {fn : FnId} {c : CoreId} {x : CtxId} {s : State} (hup : s.hostUp fn = true) (hp : s.pageThere (.ctx c x) = true)
    (hm : s.mayWrite fn (.ctx c x) = true) {o : Nat} (v : W64)
    (h : o = CTX_PC ∨ o = CTX_BASE_LO ∨ o = CTX_BASE_HI ∨ o = CTX_LEN ∨ inRun o 0x400 4 256 = true) :
    exec (.registerWrite fn (BitVec.ofNat 26 ((Page.ctx c x).base + o)) 4 v) s =
      .next (if (s.ctx c x).run = .halted ∨ (s.ctx c x).run = .faulted
        then s.setPg (.ctx c x) o (maskedValue s (.ctx c x) o (v.setWidth 32)) else s) := by
  obtain ⟨h0, ho, h4, -⟩ := streamReg_place h
  rw [exec_write_block hup hp hm o v h0 ho h4, writeCtx_stream s fn c x _ h, writeRw_eq]

/-- A write to the MSI-X table outside recovery mode: the word, and what was pending behind its mask. -/
theorem msix_written (fn : FnId) (s : State) (u d : Nat) (hu : u < 128) (hd : d < 4) (v : W32) (t : State)
    (ht : t = s.writeMsix fn (4 * u + d) v) :
    t = { s with host := t.host, regs := t.regs } ∧ t.msixWord fn.val u d = (if d = 3 then v &&& 1 else v) ∧
      (∀ g k e, k < 128 → e < 4 → (g ≠ fn.val ∨ k ≠ u ∨ e ≠ d) → t.msixWord g k e = s.msixWord g k e) ∧
      ((∀ k, k < 128 → s.host.pba.contains (128 * fn.val + k) = false) → t.regs = s.regs ∧ t.host = { s.host with msix := t.host.msix }) := by
  obtain ⟨hsame, hother⟩ := msixWord_stored s fn u d hd v
  have hdel := Delivered.flushPending (msixStored s fn (4 * u + d) v) fn
  rw [← writeMsix_eq, ← ht] at hdel
  refine ⟨hdel.frame, ?_, fun g k e hk he hne => ?_, fun hnone => ?_⟩
  · rw [msixWord_of_delivered hdel, hsame]
  · rw [msixWord_of_delivered hdel, hother hu g k e hk he hne]
  · rw [ht, writeMsix_eq, flushPending_of_none (msixStored s fn (4 * u + d) v) fn hnone]
    exact ⟨rfl, rfl⟩

/-- PKG_CORE_FNi after a write: the nibbles of quiet cores are set, nothing else (R402). -/
theorem coreFn_written (s : State) (i : Nat) (hi : i < 8) (v : W32) (t : State) (ht : t = coreFnNibbles s i v 8) :
    t = { s with regs := t.regs } ∧
      (∀ j, j < 8 → bits (t.pg .pkg (PKG_CORE_FN i)) (4 * j) 4 =
        if ∀ x : CtxId, (s.ctx (Fin.ofNat 64 (8 * i + j)) x).run = .halted ∨ (s.ctx (Fin.ofNat 64 (8 * i + j)) x).run = .faulted
        then bits v (4 * j) 4 else bits (s.pg .pkg (PKG_CORE_FN i)) (4 * j) 4) ∧
      ∀ (q : Page) (o : Nat), o < 0x1000 → (q ≠ .pkg ∨ o ≠ PKG_CORE_FN i) → t.pg q o = s.pg q o := by
  rw [ht]
  refine ⟨coreFnNibbles_frame s i v 8, fun j hj => ?_, pg_coreFnNibbles_other s i hi v 8⟩
  rw [bits_coreFnNibbles s i v 8 j le_rfl hj]
  exact if_congr ⟨fun h => (quiet_iff _ _).1 h.2, fun h => ⟨hj, (quiet_iff _ _).2 h⟩⟩ rfl rfl

/-- A write of PG_CNT_CTRL: run is set, and with clr every counter is cleared (R413). -/
theorem writeHeader_cntCtrl (s : State) (p : Page) (v : W32) :
    s.writeHeader p PG_CNT_CTRL v =
      if bit v 1 then (s.setPg p PG_CNT_CTRL ((s.pg p PG_CNT_CTRL &&& ~~~1#32) ||| (v &&& 1#32))).clearCounters p
      else s.setPg p PG_CNT_CTRL ((s.pg p PG_CNT_CTRL &&& ~~~1#32) ||| (v &&& 1#32)) := rfl

/-- COUNTER_CLEAR writes the run bit as it stands, so that only the counters change. -/
theorem exec_counterClear {fn : FnId} {p : Page} {s : State} (hup : s.hostUp fn = true) (hp : s.pageThere p = true)
    (hm : s.mayWrite fn p = true) :
    exec (.counterClear fn p) s = .next (countersCleared (s.setPg p PG_CNT_CTRL (s.pg p PG_CNT_CTRL)) p 24) := by
  have hclr : bit (s.pg p PG_CNT_CTRL ||| 2) 1 = true := by simp [bit]
  have hrun (w : W32) : (w &&& ~~~1#32) ||| ((w ||| 2) &&& 1#32) = w := by
    refine BitVec.eq_of_getLsbD_eq fun i hi => ?_
    by_cases h0 : i = 0
    · subst h0; simp
    · simp only [BitVec.getLsbD_or, BitVec.getLsbD_and, BitVec.getLsbD_not, BitVec.getLsbD_one]
      simp [h0, hi]
  change Host.Outcome.next (if s.hostUp fn = true then s.writeReg fn (p.base + PG_CNT_CTRL) (s.pg p PG_CNT_CTRL ||| 2) else s) = _
  rw [if_pos hup, writeReg_header hp hm _ _ (by decide), writeHeader_cntCtrl, if_pos hclr, hrun, clearCounters_eq]

theorem exec_pgEvtClear {fn : FnId} {p : Page} {s : State} (hup : s.hostUp fn = true) (hp : s.pageThere p = true)
    (hm : s.mayWrite fn p = true) (b : W32) : exec (.pgEvtClear fn p b) s = .next (s.clearEvt p b) := by
  change Host.Outcome.next (if s.hostUp fn = true then s.writeReg fn (p.base + PG_EVT) b else s) = _
  rw [if_pos hup, writeReg_header hp hm _ _ (by decide)]; rfl

/-- What COUNTER_CLEAR leaves: zero in every counter of the page, every other register as it was. -/
theorem counters_cleared (s : State) (p : Page) (t : State) (ht : t = countersCleared (s.setPg p PG_CNT_CTRL (s.pg p PG_CNT_CTRL)) p 24) :
    (∀ i, i < 24 → t.pg64 p (PG_CNT i) = 0) ∧
      (∀ (q : Page) (o : Nat), o < 0x1000 → o % 4 = 0 → (q ≠ p ∨ o < 0x40 ∨ 0x100 ≤ o) → t.pg q o = s.pg q o) ∧
      t = { s with regs := t.regs } := by
  rw [ht]
  refine ⟨fun i hi => ?_, fun q o ho h4 hne => ?_, ?_⟩
  · have hi' : 0x40 ≤ PG_CNT i ∧ PG_CNT i % 4 = 0 ∧ PG_CNT i + 4 < PG_CNT 24 ∧ PG_CNT 24 < 0x1000 := by simp only [PG_CNT]; omega
    rw [State.pg64, pg_countersCleared _ p p 24 _ le_rfl (by omega) (by omega), if_pos ⟨rfl, by omega⟩,
      pg_countersCleared _ p p 24 _ le_rfl (by omega) (by omega), if_pos ⟨rfl, by omega⟩]
    rfl
  · have h24 : PG_CNT 24 = 0x100 := rfl
    rw [pg_countersCleared _ p q 24 o le_rfl ho h4, if_neg (fun ⟨hq, h1, h2⟩ => hne.elim (· hq) (by omega)),
      State.pg_setPg _ _ _ _ _ _ (by decide) ho]
    split
    · next h => rw [h.1, h.2]
    · rfl
  · rw [countersCleared_frame, State.setPg_frame]

end Sys2Proof.Machine
end

section
/-! REGISTER_WRITE, PG_EVT_CLEAR and COUNTER_CLEAR: the clauses put together. -/

namespace Sys2Proof.Machine
open Sys2Proof

/-- Settles O11: each clause by the rule for its kind of register. -/
theorem registerWrites : Obligations.RegisterWrites := by
  refine ⟨fun fn p s hup hp => ⟨fun o v hm h => exec_write_plain hup hp hm o v h, fun o v hm h h' h8 => exec_write_plain8 hup hp hm o v h h' h8,
      ?streamRegister, ?mailbox, ?misaligned, fun o size v ho hm => exec_write_denied hup hm o size v ho⟩,
    fun fn v s hup => ⟨fun hp hfn => ⟨?coreFunctions, ?rafterMask⟩, ?contextConfig, ?syncPeers, ?slotSaturation, ?msixTable⟩,
    fun fn p v s hup hp hm => ⟨?ctrlContext, ?ctrlSequencer, ?ctrlOther, ?eventEnable, ?counterControl⟩,
    fun fn p s hup hp hm => ⟨fun b => exec_pgEvtClear hup hp hm b, ⟨_, exec_counterClear hup hp hm, counters_cleared s p _ rfl⟩⟩⟩
  case streamRegister =>
    rintro c x o v rfl hm h
    rw [exec_write_stream hup hp hm v h]
    exact ⟨fun hrun => by rw [if_pos hrun]; rfl, fun h1 h2 => by rw [if_neg (by tauto)]⟩
  case mailbox =>
    rintro o v rfl hm h0 ho h4
    rw [exec_write_block hup hp hm o v h0 ho h4]
    refine ⟨fun hb hgo => ?_, fun hb => ?_⟩
    · rw [writeBlock_mbx _ _ _ _ fun _ => hgo, hb]; rfl
    · rw [writeBlock_mbx _ _ _ _ (by simp [hb]), hb]; rfl
  case misaligned =>
    intro off size v h4 h8
    rw [exec_registerWrite hup, writeBar0_of_misaligned _ _ _ _ _ h4 h8]
  case coreFunctions =>
    intro i hi
    have hm : s.mayWrite fn .pkg = true := by rw [hfn]; rfl
    have ho : 0x100 ≤ PKG_CORE_FN i ∧ PKG_CORE_FN i < 0x1000 ∧ PKG_CORE_FN i % 4 = 0 := by simp only [PKG_CORE_FN]; omega
    refine ⟨_, (exec_write_block hup hp hm _ v ho.1 ho.2.1 ho.2.2).trans (congrArg _ (writeBlock_coreFn s fn i _ hi)), ?_⟩
    exact coreFn_written s i hi _ _ rfl
  case rafterMask =>
    intro l
    have hm : s.mayWrite fn .pkg = true := by rw [hfn]; rfl
    have hl := l.isLt
    have hlo : RAF_MASK l.val = 0x200 + 4 * (2 * l.val) := by simp only [RAF_MASK]; omega
    have hhi : RAF_MASK l.val + 4 = 0x200 + 4 * (2 * l.val + 1) := by simp only [RAF_MASK]; omega
    rw [Nat.add_assoc, hhi, hlo, exec_write_block hup hp hm _ v (by omega) (by omega) (by omega),
      exec_write_block hup hp hm _ v (by omega) (by omega) (by omega), writeBlock_rafMask _ _ _ _ (by omega), writeBlock_rafMask _ _ _ _ (by omega),
      if_pos (by omega), if_neg (by omega)]
    exact ⟨rfl, rfl⟩
  case contextConfig =>
    intro c x hp hm
    exact ⟨_, exec_write_block hup hp hm _ v (by decide) (by decide) (by decide), ctxCfg_written s fn c x _ _ rfl⟩
  case syncPeers =>
    intro c o ho hp hm
    have hplace : 0x100 ≤ o ∧ o < 0x1000 ∧ o % 4 = 0 := by rcases ho with rfl | rfl <;> decide
    rw [exec_write_block hup hp hm _ v hplace.1 hplace.2.1 hplace.2.2, writeBlock_syncPeers s fn c ho]
  case slotSaturation =>
    intro c p hunit hp hm
    rw [exec_write_block hup hp hm _ v (by decide) (by decide) (by decide), writeBlock_slotSat s fn hunit]
  case msixTable =>
    intro u d hu hd
    rw [exec_write_msix hup u d hu hd]
    refine ⟨fun hr => by rw [hr]; rfl, fun hr => ⟨_, by rw [hr]; rfl, msix_written fn s u d hu hd _ _ rfl⟩⟩
  case ctrlContext =>
    rintro c x rfl
    beta_reduce
    rw [← State.rise_eq, ← setField_ctrlEn]
    exact exec_write_header hup hp hm PG_CTRL v (by decide) (by decide)
  case ctrlSequencer =>
    rintro c rfl
    beta_reduce
    rw [← State.rise_eq, ← setField_ctrlEn]
    exact exec_write_header hup hp hm PG_CTRL v (by decide) (by decide)
  case ctrlOther =>
    intro hc hs
    beta_reduce
    rw [← State.rise_eq, ← setField_ctrlEn, ← writeCtrl_other s p _ hc hs]
    exact exec_write_header hup hp hm PG_CTRL v (by decide) (by decide)
  case eventEnable =>
    beta_reduce
    rw [← State.rise_eq]
    exact exec_write_header hup hp hm PG_EVT_EN v (by decide) (by decide)
  case counterControl =>
    intro r
    exact exec_write_header hup hp hm PG_CNT_CTRL v (by decide) (by decide)

end Sys2Proof.Machine
end

section
/-! Power, the shared operations: rounding, records and events, folds over cores, the islands under a cap. -/

namespace Sys2Proof.Machine
open Sys2Proof

/-! ## Rounding (R12) -/

/-- A rounded quotient is a nearest one, and of two as near the even one. -/
theorem rneDiv_nearest (a b : Nat) (hb : 1 ≤ b) :
    2 * b * rneDiv a b ≤ 2 * a + b ∧ 2 * a ≤ 2 * b * rneDiv a b + b ∧
      (2 * a + b = 2 * b * rneDiv a b ∨ 2 * a = 2 * b * rneDiv a b + b → rneDiv a b % 2 = 0) := by
  have hdiv : b * (a / b) + a % b = a := Nat.div_add_mod a b
  have hlt : a % b < b := Nat.mod_lt _ (by omega)
  have hmul (q : Nat) : 2 * b * q = 2 * (b * q) := Nat.mul_assoc 2 b q
  rw [hmul]
  by_cases hup : b < 2 * (a % b) ∨ 2 * (a % b) = b ∧ a / b % 2 = 1
  · have hr : rneDiv a b = a / b + 1 := if_pos hup
    rw [hr, Nat.mul_add]
    omega
  · have hr : rneDiv a b = a / b := if_neg hup
    rw [hr]
    omega

/-- The mean of some powers is a nearest one. -/
theorem meanUw_nearest (l : List Nat) (h : 1 ≤ l.length) :
    2 * l.length * meanUw l ≤ 2 * l.sum + l.length ∧ 2 * l.sum ≤ 2 * l.length * meanUw l + l.length ∧
      (2 * l.sum + l.length = 2 * l.length * meanUw l ∨ 2 * l.sum = 2 * l.length * meanUw l + l.length → meanUw l % 2 = 0) := by
  rw [meanUw, Nat.max_eq_right h]
  exact rneDiv_nearest _ _ h

/-! ## Folds -/

/-- What the step of an element establishes and every step keeps holds after a fold over a list with that element. -/
theorem foldl_establishes (Q : α → Prop) (g : α → β → α) (b : β) (hset : ∀ a, Q (g a b)) (hkeep : ∀ a d, Q a → Q (g a d))
    (l : List β) (hb : b ∈ l) (a : α) : Q (l.foldl g a) := by
  induction l generalizing a with
  | nil => simp at hb
  | cons d r ih =>
    rcases List.mem_cons.1 hb with rfl | hr
    · exact foldl_keeps Q g hkeep r _ (hset a)
    · exact ih hr _

theorem enabledCores_nodup (s : State) : s.enabledCores.Nodup := (List.nodup_finRange 64).filter _

theorem mem_enabledCores (s : State) (c : CoreId) : c ∈ s.enabledCores ↔ s.enabled c = true := by
  simp [State.enabledCores]

/-! ## Events and records -/

@[simp] theorem State.event_cores (s : State) (p : Page) (b : Nat) : (s.event p b).cores = s.cores := (Delivered.event s p b).cores
@[simp] theorem State.event_power (s : State) (p : Page) (b : Nat) : (s.event p b).power = s.power := (Delivered.event s p b).power
@[simp] theorem State.event_mgmt (s : State) (p : Page) (b : Nat) : (s.event p b).mgmt = s.mgmt := (Delivered.event s p b).mgmt
@[simp] theorem State.event_pins (s : State) (p : Page) (b : Nat) : (s.event p b).pins = s.pins := (Delivered.event s p b).pins

/-- An event changes its raw bits and counters of the package page. -/
theorem State.pg_event (s : State) (p q : Page) (b o : Nat) (ho : o < 0x1000) (hne : q ≠ p ∨ o ≠ PG_EVT_RAW)
    (hq : q ≠ .pkg ∨ o < 0x40 ∨ 0x100 ≤ o) : (s.event p b).pg q o = s.pg q o := by
  rw [(Delivered.event s p b).pg q o ho hq, State.pg_setField_other _ _ _ _ _ _ _ _ (by decide) ho hne]

@[simp] theorem State.putCode_cores (s : State) (p : Page) (r : Rec) : (s.putCode p r).cores = s.cores := rfl
@[simp] theorem State.putCode_power (s : State) (p : Page) (r : Rec) : (s.putCode p r).power = s.power := rfl
@[simp] theorem State.putCode_pins (s : State) (p : Page) (r : Rec) : (s.putCode p r).pins = s.pins := rfl

/-- A recorded code stands in five registers of its page. -/
theorem State.pg_putCode (s : State) (p q : Page) (r : Rec) (o : Nat) (ho : o < 0x1000) :
    (s.putCode p r).pg q o =
      if q = p ∧ o = PG_ERR_INFO0 + 12 then r.i3 else if q = p ∧ o = PG_ERR_INFO0 + 8 then r.i2
      else if q = p ∧ o = PG_ERR_INFO0 + 4 then r.i1 else if q = p ∧ o = PG_ERR_INFO0 then r.i0
      else if q = p ∧ o = PG_ERR_CODE then w32 r.code.toNat else s.pg q o := by
  rw [← State.pg_setPg _ _ _ _ _ _ (by decide) ho, ← State.pg_setPg _ _ _ _ _ _ (by decide) ho, ← State.pg_setPg _ _ _ _ _ _ (by decide) ho,
    ← State.pg_setPg _ _ _ _ _ _ (by decide) ho, ← State.pg_setPg _ _ _ _ _ _ (by decide) ho]
  rfl

@[simp] theorem State.record_cores (s : State) (p : Page) (r : Rec) : (s.record p r).cores = s.cores := by simp [State.record]
@[simp] theorem State.record_power (s : State) (p : Page) (r : Rec) : (s.record p r).power = s.power := by simp [State.record]
@[simp] theorem State.record_pins (s : State) (p : Page) (r : Rec) : (s.record p r).pins = s.pins := by simp [State.record]

/-- An event recorded: the registers of its code, its raw bits, counters of the package page. -/
theorem State.pg_record (s : State) (p q : Page) (r : Rec) (o : Nat) (ho : o < 0x1000) (hne : q ≠ p ∨ o ≠ PG_EVT_RAW)
    (hq : q ≠ .pkg ∨ o < 0x40 ∨ 0x100 ≤ o) : (s.record p r).pg q o = (s.putCode p r).pg q o :=
  State.pg_event _ p q EVT_ERR o ho hne hq

/-! ## Islands -/

theorem State.island_modIsland (s : State) (c d : CoreId) (f : Island → Island) :
    (s.modIsland c f).island d = if d = c then f (s.island c) else s.island d := by
  by_cases h : d = c
  · subst h; simp [State.island, State.modIsland]
  · rw [if_neg h, State.island, State.modIsland, State.core_modCore_other _ _ _ _ h]; rfl

/-- Every island of an enabled core changed by a function of its core. -/
def State.changeIslands (s : State) (f : CoreId → Island → Island) : State := s.enabledCores.foldl (fun t c => t.modIsland c (f c)) s

theorem State.changeIslands_frame (s : State) (f : CoreId → Island → Island) :
    s.changeIslands f = { s with cores := (s.changeIslands f).cores } :=
  foldl_keeps (fun t : State => t = { s with cores := t.cores }) _ (fun t c ht => by rw [State.modIsland, State.modCore, ht]) _ s rfl

@[simp] theorem State.changeIslands_pg (s : State) (f : CoreId → Island → Island) (p : Page) (o : Nat) :
    (s.changeIslands f).pg p o = s.pg p o := by
  rw [s.changeIslands_frame f]; rfl

@[simp] theorem State.changeIslands_power (s : State) (f : CoreId → Island → Island) : (s.changeIslands f).power = s.power := by
  rw [s.changeIslands_frame f]

theorem island_foldl_modIsland (f : CoreId → Island → Island) (l : List CoreId) (hl : l.Nodup) (s : State) (c : CoreId) :
    (l.foldl (fun t d => t.modIsland d (f d)) s).island c = if c ∈ l then f c (s.island c) else s.island c := by
  induction l generalizing s with
  | nil => rfl
  | cons d r ih =>
    obtain ⟨hd, hr⟩ := List.nodup_cons.1 hl
    rw [List.foldl_cons, ih hr, State.island_modIsland]
    by_cases hc : c = d
    · subst hc
      rw [if_neg hd, if_pos rfl, if_pos (by simp)]
    · simp [hc]

/-- Each island of an enabled core is changed once. -/
theorem State.island_changeIslands (s : State) (f : CoreId → Island → Island) (c : CoreId) (h : s.enabled c = true) :
    (s.changeIslands f).island c = f c (s.island c) := by
  rw [State.changeIslands, island_foldl_modIsland f _ (enabledCores_nodup s), if_pos ((mem_enabledCores s c).2 h)]

end Sys2Proof.Machine
end

section
/-! The power cap, the thermal throttle and the trip (R392 to R394, R466). -/

namespace Sys2Proof.Machine
open Sys2Proof

/-! ## Islands under a cap -/

/-- An island at the onset of a cap or a throttle: above V2 it is to run at V2. -/
def Island.capped (i : Island) : Island :=
  match i.goal with
  | some g => { i with goal := some (capVar true g), onset := i.onset || decide (g < 2) }
  | none => if i.var < 2 then { i with goal := some 2, onset := true } else i

/-- An island when they have lifted; `held`: a PHASE of it waits for its decision. -/
def Island.freed (held : Bool) (i : Island) : Island :=
  { i with goal := if held = true ∨ i.var = i.decided then none else some i.decided, onset := false }

theorem capIslands_eq (s : State) : s.capIslands = s.changeIslands fun _ => Island.capped := rfl

/-- The change that such an island has to make: none if it has none to make and runs at V2 or V3. -/
def Island.cappedGoal (i : Island) : Option (Fin 4) :=
  match i.goal with
  | some g => some (capVar true g)
  | none => if i.var < 2 then some 2 else none

theorem Island.capped_goal (i : Island) : i.capped.goal = i.cappedGoal := by
  unfold Island.capped Island.cappedGoal
  cases hg : i.goal with
  | some g => rfl
  | none =>
    by_cases hv : i.var < 2
    · simp only [if_pos hv]
    · simp only [if_neg hv, hg]

/-- Changing an island leaves every context. -/
theorem awaitsPhase_modIsland (s : State) (c d : CoreId) (f : Island → Island) : (s.modIsland d f).awaitsPhase c = s.awaitsPhase c := by
  have hctx : (s.modIsland d f).ctx c 0 = s.ctx c 0 := by
    by_cases h : c = d
    · subst h; simp [State.modIsland, State.ctx, Core.ctx]
    · rw [State.ctx, State.modIsland, State.core_modCore_other _ _ _ _ h]; rfl
  rw [State.awaitsPhase, hctx]; rfl

theorem foldl_freed (l : List CoreId) (s t : State) (h : ∀ c, t.awaitsPhase c = s.awaitsPhase c) :
    l.foldl (fun t c => t.modIsland c (Island.freed (t.awaitsPhase c))) t =
      l.foldl (fun t c => t.modIsland c (Island.freed (s.awaitsPhase c))) t := by
  induction l generalizing t with
  | nil => rfl
  | cons d r ih => rw [List.foldl_cons, List.foldl_cons, h d, ih _ fun c => (awaitsPhase_modIsland ..).trans (h c)]

theorem freeIslands_eq (s : State) (h : s.capped = false) : s.freeIslands = s.changeIslands fun c => Island.freed (s.awaitsPhase c) := by
  rw [State.freeIslands, if_neg (by simp [h])]
  exact foldl_freed _ s s fun _ => rfl

/-- They lift or stay, in the islands only. -/
theorem freeIslands_frame (s : State) : s.freeIslands = { s with cores := s.freeIslands.cores } := by
  cases h : s.capped with
  | true => rw [State.freeIslands, if_pos h]
  | false => rw [freeIslands_eq s h, ← State.changeIslands_frame]

theorem pg_freeIslands (s : State) (p : Page) (o : Nat) : s.freeIslands.pg p o = s.pg p o := by rw [freeIslands_frame]; rfl

theorem awaitsPhase_iff (s : State) (c : CoreId) : s.awaitsPhase c = true ↔ ∃ j x, (s.ctx c 0).hold = .phase j x none := by
  unfold State.awaitsPhase
  constructor
  · intro h
    split at h
    · next j x hx => exact ⟨j, x, hx⟩
    · simp at h
  · rintro ⟨j, x, hx⟩
    rw [hx]

/-! ## The onset -/

/-- The onset of a cap or a throttle, once its bits are set: the islands, the record, the event, ALERT_N. -/
def State.onset (s : State) (r : Rec) : State := ((s.capIslands.record .pwr r).event .pwr EVT_STATE).setAlert

/-- It leaves every register of the power page but the code and the raw events. -/
theorem pg_onset (s : State) (r : Rec) (o : Nat) (ho : o < 0x1000) (hne : o ≠ PG_EVT_RAW) :
    (s.onset r).pg .pwr o = (s.putCode .pwr r).pg .pwr o := by
  have hpg : (s.onset r).pg .pwr o = ((s.capIslands.record .pwr r).event .pwr EVT_STATE).pg .pwr o := rfl
  rw [hpg, State.pg_event _ _ _ _ _ ho (.inr hne) (.inl (by decide)), State.pg_record _ _ _ _ _ ho (.inr hne) (.inl (by decide)),
    State.pg_putCode _ _ _ _ _ ho, State.pg_putCode _ _ _ _ _ ho, capIslands_eq, State.changeIslands_pg]

theorem pg_onset_block (s : State) (r : Rec) (o : Nat) (h0 : 0x100 ≤ o) (ho : o < 0x1000) : (s.onset r).pg .pwr o = s.pg .pwr o := by
  have hne (n : Nat) (hn : n < 0x100) : ¬(Page.pwr = .pwr ∧ o = n) := fun h => by omega
  rw [pg_onset s r o ho (by simp only [PG_EVT_RAW]; omega), State.pg_putCode _ _ _ _ _ ho, if_neg (hne _ (by decide)), if_neg (hne _ (by decide)),
    if_neg (hne _ (by decide)), if_neg (hne _ (by decide)), if_neg (hne _ (by decide))]

theorem thr_onset (s : State) (r : Rec) : (s.onset r).thr = s.thr := by
  rw [State.thr, pg_onset_block s r PWR_STAT (by decide) (by decide)]; rfl

theorem pcap_onset (s : State) (r : Rec) : (s.onset r).pcap = s.pcap := by
  rw [State.pcap, pg_onset_block s r PWR_STAT (by decide) (by decide)]; rfl

theorem power_onset (s : State) (r : Rec) : (s.onset r).power = s.power := by
  have h : (s.onset r).power = ((s.capIslands.record .pwr r).event .pwr EVT_STATE).power := rfl
  rw [h, State.event_power, State.record_power, capIslands_eq, State.changeIslands_power]

/-- The record of THERM_THROTTLE stands in the power page. -/
theorem codes_onset (s : State) (cause sensor value : Nat) :
    (s.onset (thermRec cause sensor value)).pg .pwr PG_ERR_CODE = 0x0501 ∧
      (s.onset (thermRec cause sensor value)).pg .pwr PG_ERR_INFO0 = w32 (cause + sensor <<< 1) ∧
      (s.onset (thermRec cause sensor value)).pg .pwr (PG_ERR_INFO0 + 4) = w32 (value % 0x1_0000) := by
  refine ⟨?_, ?_, ?_⟩
  all_goals
    rw [pg_onset _ _ _ (by decide) (by decide), State.pg_putCode _ _ _ _ _ (by decide)]
    rfl

/-- ALERT_N stands while a cap or a throttle does. -/
theorem alert_onset (s : State) (r : Rec) (h : s.capped = true) : (s.onset r).pins.alert = true := by
  have hcap : ((s.capIslands.record .pwr r).event .pwr EVT_STATE).capped = s.capped := by
    have hthr : ((s.capIslands.record .pwr r).event .pwr EVT_STATE).thr = s.thr := thr_onset s r
    have hpcap : ((s.capIslands.record .pwr r).event .pwr EVT_STATE).pcap = s.pcap := pcap_onset s r
    rw [State.capped, hthr, hpcap]; rfl
  change (((s.capIslands.record .pwr r).event .pwr EVT_STATE).capped || _) = true
  rw [hcap, h, Bool.true_or]

/-- t is s with every island above V2 on its way to V2 (R392, R393). -/
def CapsIslands (s t : State) : Prop := ∀ c : CoreId, s.enabled c = true → (t.island c).goal = (s.island c).cappedGoal

theorem capsIslands_onset (s : State) (r : Rec) : CapsIslands s (s.onset r) := by
  intro c h
  have hcores : (s.onset r).cores = ((s.capIslands.record .pwr r).event .pwr EVT_STATE).cores := rfl
  rw [State.event_cores, State.record_cores] at hcores
  have hisl : (s.onset r).island c = s.capIslands.island c := by rw [State.island, State.core, hcores]; rfl
  rw [hisl, capIslands_eq, State.island_changeIslands s _ c h, Island.capped_goal]

end Sys2Proof.Machine
end

section
/-! The power cap, the thermal throttle and the trip: onset, lift, and what each leaves (R392 to R394). -/

namespace Sys2Proof.Machine
open Sys2Proof

/-! ## Bits of PWR_STAT -/

theorem bit_putBits_one (w : W32) (lo v i : Nat) (h : lo < 32) : bit (putBits w lo 1 v) i = if i = lo then v.testBit 0 else bit w i := by
  rw [bit_putBits _ _ _ _ _ (by omega)]
  by_cases hi : i = lo
  · rw [if_pos (by omega), if_pos hi, hi, Nat.sub_self]
  · rw [if_neg (by omega), if_neg hi]

theorem bit_setField_one (s : State) (p : Page) (o lo v i : Nat) (h : lo < 32) :
    bit ((s.setField p o lo 1 v).pg p o) i = if i = lo then v.testBit 0 else bit (s.pg p o) i := by
  rw [State.pg_setField_same, bit_putBits_one _ _ _ _ h]

/-! ## Onset -/

/-- A cap comes into force: PWR_STAT.pcap, and the count of samples within the budget starts again. -/
def State.capStart (s : State) : State := (s.setField .pwr PWR_STAT 13 1 1).modPower fun p => { p with under := 0 }

/-- A throttle comes into force: PWR_STAT.thr and mem, and the count of cool samples starts again. -/
def State.throttleStart (s : State) (sensor : Nat) : State :=
  ((s.setField .pwr PWR_STAT 12 1 1).setField .pwr PWR_STAT 14 1 (bn (decide (256 ≤ sensor)))).modPower fun p => { p with cool := 0 }

theorem stat_capStart (s : State) : s.capStart.pcap = true ∧ s.capStart.thr = s.thr := by
  rw [State.pcap, State.thr, State.capStart, State.pg_modPower, bit_setField_one _ _ _ _ _ _ (by decide),
    bit_setField_one _ _ _ _ _ _ (by decide), if_pos rfl, if_neg (by decide)]
  exact ⟨rfl, rfl⟩

theorem stat_throttleStart (s : State) (sensor : Nat) :
    (s.throttleStart sensor).thr = true ∧ (s.throttleStart sensor).pcap = s.pcap ∧
      bit ((s.throttleStart sensor).pg .pwr PWR_STAT) 14 = decide (256 ≤ sensor) := by
  have hbit (i : Nat) : bit ((s.throttleStart sensor).pg .pwr PWR_STAT) i =
      if i = 14 then (bn (decide (256 ≤ sensor))).testBit 0 else if i = 12 then Nat.testBit 1 0 else bit (s.pg .pwr PWR_STAT) i := by
    rw [State.throttleStart, State.pg_modPower, bit_setField_one _ _ _ _ _ _ (by decide), bit_setField_one _ _ _ _ _ _ (by decide)]
  rw [State.thr, State.pcap, hbit, hbit, hbit, if_neg (by decide), if_pos rfl, if_neg (by decide), if_neg (by decide), if_pos rfl]
  refine ⟨rfl, rfl, ?_⟩
  cases decide (256 ≤ sensor) <;> rfl

theorem exec_powerCapOnset {s : State} (hup : s.pkgUp = true) : exec .powerCapOnset s = .next s.capOnset :=
  congrArg Host.Outcome.next (if_pos hup)

theorem exec_powerCapLift {s : State} (hup : s.pkgUp = true) : exec .powerCapLift s = .next s.capLift :=
  congrArg Host.Outcome.next (if_pos hup)

theorem exec_thermThrottle {s : State} (hup : s.pkgUp = true) (n : BitVec 10) (d : W16) :
    exec (.thermThrottle n d) s = .next (s.throttle n.toNat d.toNat) :=
  congrArg Host.Outcome.next (if_pos hup)

theorem exec_throttleLift {s : State} (hup : s.pkgUp = true) : exec .throttleLift s = .next s.throttleLift :=
  congrArg Host.Outcome.next (if_pos hup)

theorem capOnset_of_over {s : State} {w : Nat} (hp : s.pcap = false) (ho : s.overPower = some w) :
    s.capOnset = s.capStart.onset (thermRec 1 0 w) := by
  rw [State.capOnset, if_neg (by simp [hp]), ho]; rfl

theorem capOnset_of_within {s : State} (ho : s.overPower = none) : s.capOnset = s := by
  rw [State.capOnset, ho]; exact ite_self s

theorem throttle_of_hot {s : State} {n d : Nat} (ht : s.thr = false) (hn : n ≤ 303) (hd : 95 ≤ d) :
    s.throttle n d = (s.throttleStart n).onset (thermRec 0 n d) := by
  have hno : ¬(s.thr = true ∨ (!sensorOk n) = true ∨ d < 95) := by simp [ht, sensorOk, hn, hd]
  rw [State.throttle, if_neg hno]; rfl

theorem throttle_of_not {s : State} {n d : Nat} (h : s.thr = true ∨ 303 < n ∨ d < 95) : s.throttle n d = s := by
  have hyes : s.thr = true ∨ (!sensorOk n) = true ∨ d < 95 := by simpa [sensorOk] using h
  rw [State.throttle, if_pos hyes]

/-- A power limit is exceeded by the latest samples, or by the average over 1 ms, which needs 1 ms of samples (R392). -/
theorem overPower_none_iff (s : State) : s.overPower = none ↔ s.power.summed ≤ 2600000000 ∧
    (s.power.averages.length = 1000 → s.power.averages.sum ≤ 1000000000 * s.budget) := by
  rw [State.overPower]
  by_cases hsum : 2600000000 < s.power.summed
  · rw [if_pos hsum]
    exact ⟨fun h => by simp at h, fun h => absurd hsum (Nat.not_lt.2 h.1)⟩
  · rw [if_neg hsum]
    by_cases havg : s.power.averages.length = 1000 ∧ 1000000000 * s.budget < s.power.averages.sum
    · rw [if_pos havg]
      exact ⟨fun h => by simp at h, fun h => absurd havg.2 (Nat.not_lt.2 (h.2 havg.1))⟩
    · rw [if_neg havg]
      exact ⟨fun _ => ⟨Nat.not_lt.1 hsum, fun hl => Nat.not_lt.1 fun hlt => havg ⟨hl, hlt⟩⟩, fun _ => rfl⟩

/-! ## Lift -/

/-- The lift of a cap or a throttle, once its bit is cleared: the islands, ALERT_N. -/
def State.lift (s : State) : State := s.freeIslands.setAlert

theorem pg_lift (s : State) (p : Page) (o : Nat) : s.lift.pg p o = s.pg p o := pg_freeIslands s p o

theorem alert_lift (s : State) : s.lift.pins.alert = (s.capped || s.recovery) := by
  change (s.freeIslands.capped || s.freeIslands.recovery) = _
  simp only [State.capped, State.thr, State.pcap, State.recovery, pg_freeIslands]

/-- t is s with every island on its way back to its decided variant, but for one whose PHASE waits for its decision (R394). -/
def FreesIslands (s t : State) : Prop :=
  ∀ c : CoreId, s.enabled c = true →
    (((∃ j x, (s.ctx c 0).hold = .phase j x none) ∨ (s.island c).var = (s.island c).decided) → (t.island c).goal = none) ∧
      ((∀ j x, (s.ctx c 0).hold ≠ .phase j x none) → (s.island c).var ≠ (s.island c).decided → (t.island c).goal = some (s.island c).decided)

theorem freesIslands_lift (s : State) (hcap : s.capped = false) : FreesIslands s s.lift := by
  intro c hen
  have hisl : s.lift.island c = Island.freed (s.awaitsPhase c) (s.island c) := by
    change s.freeIslands.island c = _
    rw [freeIslands_eq s hcap, State.island_changeIslands s _ c hen]
  rw [hisl]
  refine ⟨fun h => if_pos (h.imp_left (awaitsPhase_iff s c).2), fun h hv => if_neg ?_⟩
  rintro (ha | he)
  · obtain ⟨j, x, hx⟩ := (awaitsPhase_iff s c).1 ha
    exact h j x hx
  · exact hv he

theorem capLift_of_long {s : State} (hp : s.pcap = true) (hu : 100 ≤ s.power.under) :
    s.capLift = (s.setField .pwr PWR_STAT 13 1 0).lift := if_pos ⟨hp, hu⟩

theorem capLift_of_not {s : State} (h : s.pcap = false ∨ s.power.under < 100) : s.capLift = s :=
  if_neg fun ⟨hp, hu⟩ => h.elim (by simp [hp]) (by omega)

theorem throttleLift_of_long {s : State} (ht : s.thr = true) (hc : 100 ≤ s.power.cool) :
    s.throttleLift = (s.setField .pwr PWR_STAT 12 1 0).lift := if_pos ⟨ht, hc⟩

theorem throttleLift_of_not {s : State} (h : s.thr = false ∨ s.power.cool < 100) : s.throttleLift = s :=
  if_neg fun ⟨ht, hc⟩ => h.elim (by simp [ht]) (by omega)

/-- PWR_STAT after a cap has lifted, and after a throttle has. -/
theorem stat_capEnd (s : State) : (s.setField .pwr PWR_STAT 13 1 0).pcap = false ∧ (s.setField .pwr PWR_STAT 13 1 0).thr = s.thr := by
  rw [State.pcap, State.thr, bit_setField_one _ _ _ _ _ _ (by decide),
    bit_setField_one _ _ _ _ _ _ (by decide), if_pos rfl, if_neg (by decide)]
  exact ⟨rfl, rfl⟩

theorem stat_throttleEnd (s : State) : (s.setField .pwr PWR_STAT 12 1 0).thr = false ∧ (s.setField .pwr PWR_STAT 12 1 0).pcap = s.pcap := by
  rw [State.thr, State.pcap, bit_setField_one _ _ _ _ _ _ (by decide),
    bit_setField_one _ _ _ _ _ _ (by decide), if_pos rfl, if_neg (by decide)]
  exact ⟨rfl, rfl⟩

theorem recovery_setField_pwr (s : State) (lo len v : Nat) : (s.setField .pwr PWR_STAT lo len v).recovery = s.recovery :=
  s.recovery_setPg .pwr PWR_STAT _ (by decide) (.inl (by decide))

/-! ## Trip (R393) -/

theorem exec_thermalTrip {s : State} (hal : s.alive = true) (n : BitVec 10) (d : Byte) :
    exec (.thermalTrip n d) s = .next (s.trip n.toNat d.toNat) :=
  congrArg Host.Outcome.next (if_pos hal)

theorem trip_of_not {s : State} {n d : Nat} (h : 303 < n ∨ d < 110) : s.trip n d = s := by
  have hyes : (!sensorOk n) = true ∨ d < 110 := by simpa [sensorOk] using h
  rw [State.trip, if_pos hyes]

/-- The package after a trip whose log is v. -/
def State.stopped (s : State) (v : W32) : State :=
  let s := s.setPg .pwr PWR_TRIP_LOG v
  { (s.modPower fun p => { p with tripped := true }) with pins := { s.pins with thermtrip := true } }

theorem trip_of_hot {s : State} {n d : Nat} (hn : n ≤ 303) (hd : 110 ≤ d) : s.trip n d = s.stopped (w32 (n + d <<< 10 + 1 <<< 31)) := by
  have hno : ¬((!sensorOk n) = true ∨ d < 110) := by simp [sensorOk, hn, hd]
  exact if_neg hno

/-- THERMTRIP_N asserts, the clocks stop, the log stands, every link port falls idle. -/
theorem stopped_spec (s : State) (v : W32) :
    (s.stopped v).pins.thermtrip = true ∧ (s.stopped v).alive = false ∧ (s.stopped v).pg .pwr PWR_TRIP_LOG = v ∧
      (s.stopped v).mem = s.mem ∧ (s.stopped v).cores = s.cores ∧ ∀ p : PortId, (s.stopped v).pinLevel (.lnkLanes p) = .idle := by
  have hal : (s.stopped v).alive = false := by simp [State.alive, State.stopped]
  refine ⟨rfl, hal, s.pg_setPg_same .pwr PWR_TRIP_LOG v, rfl, rfl, fun p => ?_⟩
  have hidle : (s.stopped v).portIdle p = true := by rw [State.portIdle, hal]; rfl
  exact if_pos hidle

end Sys2Proof.Machine
end

section
/-! Samples of current and temperature, droop, and the clauses of power put together (R263, R382, R383, R391 to R396). -/

namespace Sys2Proof.Machine
open Sys2Proof

/-! ## CURRENT_SAMPLE -/

/-- The state in which a sample is formed: the counters of throttle and cap have counted it. -/
def State.sampleCounted (s : State) : State := (s.bump .pwr 2 (bn s.thr)).bump .pwr 3 (bn s.pcap)

theorem sampleCounted_frame (s : State) : s.sampleCounted = { s with regs := s.sampleCounted.regs } := by
  rw [State.sampleCounted, State.bump_frame, State.bump_frame]

theorem budget_sampleCounted (s : State) : s.sampleCounted.budget = s.budget := by
  rw [State.budget, State.sampleCounted, State.pg_bump _ .pwr .pwr 3 _ PWR_BUDGET (by decide) (by decide) (.inr (.inr (by decide))),
    State.pg_bump _ .pwr .pwr 2 _ PWR_BUDGET (by decide) (by decide) (.inr (.inr (by decide)))]
  rfl

/-- The power state after a sample. -/
def State.sampledPower (s : State) (p : PowerSample) : Power :=
  let q := s.power.addSample (s.packageUw (s.islandUw p)) (s.islandUw p)
  { q with under := if q.pPkg ≤ 1000000 * s.budget then q.under + 1 else 0 }

theorem currentSample_eq (s : State) (p : PowerSample) : s.currentSample p = { s.sampleCounted with power := s.sampledPower p } := by
  have hpower : s.sampleCounted.power = s.power := by rw [sampleCounted_frame]
  have hisl : s.sampleCounted.islandUw p = s.islandUw p := by rw [sampleCounted_frame]; rfl
  have hpkg (v : Vector Nat 64) : s.sampleCounted.packageUw v = s.packageUw v := by rw [sampleCounted_frame]; rfl
  rw [State.sampledPower, ← hpower, ← hisl, ← hpkg, ← budget_sampleCounted]
  rfl

theorem exec_currentSample {s : State} (hup : s.pkgUp = true) (p : PowerSample) : exec (.currentSample p) s = .next (s.currentSample p) :=
  congrArg Host.Outcome.next (if_pos hup)

/-- A sample enters the averages: the newest of at most 100, and P_pkg of at most 1,000. -/
theorem sampledPower_eq (s : State) (p : PowerSample) :
    s.sampledPower p =
      { s.power with samples := ((s.packageUw (s.islandUw p), s.islandUw p) :: s.power.samples).take 100
                     averages := ((s.sampledPower p).pPkg :: s.power.averages).take 1000
                     under := if (s.sampledPower p).pPkg ≤ 1000000 * s.budget then s.power.under + 1 else 0 } := rfl

theorem samples_nonempty (s : State) (p : PowerSample) : 1 ≤ (s.sampledPower p).samples.length := by
  rw [sampledPower_eq]
  simp

/-! ## JUNCTION_SENSOR_SAMPLE -/

theorem exec_junctionSensorSample {s : State} (hup : s.pkgUp = true) (j : JunctionSample) :
    exec (.junctionSensorSample j) s = .next (s.junctionSample j) :=
  congrArg Host.Outcome.next (if_pos hup)

/-- The power state after a junction sample. -/
def State.junctionPower (s : State) (j : JunctionSample) : State :=
  s.modPower fun p => { p with temp := j.sensor, rail := j.rail, cool := if s.coolSample j then p.cool + 1 else 0 }

/-- The bands of an island in FU_SKIP_SENSE (R263). -/
def senseBands (j : JunctionSample) (c : CoreId) : W32 := w32 (tempBand (hottest j.sensor c) + voltBand j.rail[c] <<< 3)

def State.setSense (j : JunctionSample) (s : State) (c : CoreId) : State := s.setPg (.fu c) FU_SKIP_SENSE (senseBands j c)

/-- The temperature of a stack in ATT_STAT (R328). -/
def State.setStackTemp (j : JunctionSample) (s : State) (u : StackId) : State :=
  (s.setField (.att u) ATT_STAT 8 8 j.stackTemp[u]).setField (.att u) ATT_STAT 1 1 (bn (decide (85 < j.stackTemp[u])))

theorem junctionSample_folds (s : State) (j : JunctionSample) :
    s.junctionSample j =
      ((s.junctionPower j).enabledCores.foldl (State.setSense j) (s.junctionPower j)).stacks.foldl (State.setStackTemp j)
        ((s.junctionPower j).enabledCores.foldl (State.setSense j) (s.junctionPower j)) := rfl

theorem junctionSample_eq (s : State) (j : JunctionSample) :
    s.junctionSample j = s.stacks.foldl (State.setStackTemp j) (s.enabledCores.foldl (State.setSense j) (s.junctionPower j)) := by
  have hcores : (s.junctionPower j).enabledCores = s.enabledCores := rfl
  have hstacks : (s.enabledCores.foldl (State.setSense j) (s.junctionPower j)).stacks = s.stacks := by
    have hm := foldl_keeps (fun t : State => t.mgmt = s.mgmt) (State.setSense j) (fun t c ht => (State.setPg_mgmt t ..).trans ht)
      s.enabledCores (s.junctionPower j) rfl
    rw [State.stacks, hm]; rfl
  rw [junctionSample_folds, hcores, hstacks]

theorem pg_setSense_other (j : JunctionSample) (s : State) (c : CoreId) (q : Page) (o : Nat) (ho : o < 0x1000)
    (hne : q ≠ .fu c ∨ o ≠ FU_SKIP_SENSE) : (s.setSense j c).pg q o = s.pg q o := by
  rw [State.setSense, State.pg_setPg _ _ _ _ _ _ (by decide) ho, if_neg (by tauto)]

theorem pg_setStackTemp_other (j : JunctionSample) (s : State) (u : StackId) (q : Page) (o : Nat) (ho : o < 0x1000)
    (hne : q ≠ .att u ∨ o ≠ ATT_STAT) : (s.setStackTemp j u).pg q o = s.pg q o := by
  rw [State.setStackTemp, State.pg_setField_other _ _ _ _ _ _ _ _ (by decide) ho hne, State.pg_setField_other _ _ _ _ _ _ _ _ (by decide) ho hne]

/-- The temperature stands in bits [15:8], its warning in bit 1. -/
theorem setStackTemp_shows (j : JunctionSample) (s : State) (u : StackId) :
    bits ((s.setStackTemp j u).pg (.att u) ATT_STAT) 8 8 = j.stackTemp[u] % 256 ∧
      bit ((s.setStackTemp j u).pg (.att u) ATT_STAT) 1 = decide (85 < j.stackTemp[u]) := by
  rw [State.setStackTemp, State.pg_setField_same, State.pg_setField_same]
  constructor
  · rw [bits_putBits_other _ _ _ _ _ _ (by decide) (by decide), bits_putBits_same _ _ _ _ (by decide)]; rfl
  · exact bit_putBits_bn _ _ _ (by decide)

/-- Every island's bands, every stack's temperature, and no other register. -/
theorem pg_junctionSample (s : State) (j : JunctionSample) :
    (∀ c : CoreId, s.enabled c = true → (s.junctionSample j).pg (.fu c) FU_SKIP_SENSE = senseBands j c) ∧
      (∀ u : StackId, u ∈ s.stacks → bits ((s.junctionSample j).pg (.att u) ATT_STAT) 8 8 = j.stackTemp[u] % 256 ∧
        bit ((s.junctionSample j).pg (.att u) ATT_STAT) 1 = decide (85 < j.stackTemp[u])) ∧
      (∀ (p : Page) (o : Nat), o < 0x1000 → o ≠ FU_SKIP_SENSE → o ≠ ATT_STAT → (s.junctionSample j).pg p o = s.pg p o) := by
  rw [junctionSample_eq]
  refine ⟨fun c hc => ?_, fun u hu => ?_, fun p o ho h1 h2 => ?_⟩
  · refine foldl_keeps (fun t : State => t.pg (.fu c) FU_SKIP_SENSE = senseBands j c) _ (fun t u ht => ?_) _ _ ?_
    · rw [pg_setStackTemp_other _ _ _ _ _ (by decide) (.inr (by decide)), ht]
    · refine foldl_establishes (fun t : State => t.pg (.fu c) FU_SKIP_SENSE = senseBands j c) _ c (fun t => State.pg_setPg_same ..)
        (fun t d ht => ?_) _ ((mem_enabledCores s c).2 hc) _
      by_cases hd : d = c
      · subst hd; exact State.pg_setPg_same ..
      · rw [pg_setSense_other _ _ _ _ _ (by decide) (.inl (by simpa using Ne.symm hd)), ht]
  · refine foldl_establishes (fun t : State => bits (t.pg (.att u) ATT_STAT) 8 8 = j.stackTemp[u] % 256 ∧
      bit (t.pg (.att u) ATT_STAT) 1 = decide (85 < j.stackTemp[u])) _ u (fun t => setStackTemp_shows j t u) (fun t d ht => ?_) _ hu _
    by_cases hd : d = u
    · subst hd; exact setStackTemp_shows j t d
    · rw [pg_setStackTemp_other _ _ _ _ _ (by decide) (.inl (by simpa using Ne.symm hd))]
      exact ht
  · refine foldl_keeps (fun t : State => t.pg p o = s.pg p o) _ (fun t u ht => ?_) _ _
      (foldl_keeps (fun t : State => t.pg p o = s.pg p o) _ (fun t c ht => ?_) _ _ rfl)
    · rw [pg_setStackTemp_other _ _ _ _ _ ho (.inr h2), ht]
    · rw [pg_setSense_other _ _ _ _ _ ho (.inr h1), ht]

/-- Of the rest a junction sample changes the power state. -/
theorem junctionSample_frame (s : State) (j : JunctionSample) :
    s.junctionSample j = { s with regs := (s.junctionSample j).regs, power := (s.junctionPower j).power } := by
  rw [junctionSample_eq]
  refine foldl_keeps (fun t : State => t = { s with regs := t.regs, power := (s.junctionPower j).power }) _ (fun t u ht => ?_) _ _
    (foldl_keeps (fun t : State => t = { s with regs := t.regs, power := (s.junctionPower j).power }) _ (fun t c ht => ?_) _ _ rfl)
  · rw [State.setStackTemp, State.setField_frame, State.setField_frame, ht]
  · rw [State.setSense, State.setPg_frame, ht]

/-- A sample is cool when every sensor that exists lies below the lift level (R393). -/
theorem coolSample_iff (s : State) (j : JunctionSample) :
    s.coolSample j = true ↔ ∀ i, s.sensorThere i = true → j.sensor[i] < 95 - (bits (s.pg .pwr PWR_THM_HYST) 0 4 : Int) := by
  simp only [State.coolSample, List.all_eq_true, List.mem_finRange, true_implies, Bool.or_eq_true, Bool.not_eq_true', decide_eq_true_iff]
  refine forall_congr' fun i => ?_
  cases s.sensorThere i <;> simp

/-- The hottest of four sensors is none below another, and one of them. -/
theorem hottest_spec (v : Vector Int 304) (c : CoreId) :
    (∀ k, k < 4 → v[Fin.ofNat 304 (4 * c.val + k)] ≤ hottest v c) ∧ ∃ k, k < 4 ∧ hottest v c = v[Fin.ofNat 304 (4 * c.val + k)] := by
  have key (f : Nat → Int) : (∀ k, k < 4 → f k ≤ max (max (f 0) (f 1)) (max (f 2) (f 3))) ∧
      ∃ k, k < 4 ∧ max (max (f 0) (f 1)) (max (f 2) (f 3)) = f k := by
    constructor
    · intro k hk
      interval_cases k <;> omega
    · rcases max_choice (max (f 0) (f 1)) (max (f 2) (f 3)) with h | h <;> rw [h]
      · rcases max_choice (f 0) (f 1) with h | h <;> rw [h]
        · exact ⟨0, by decide, rfl⟩
        · exact ⟨1, by decide, rfl⟩
      · rcases max_choice (f 2) (f 3) with h | h <;> rw [h]
        · exact ⟨2, by decide, rfl⟩
        · exact ⟨3, by decide, rfl⟩
  exact key fun k => v[Fin.ofNat 304 (4 * c.val + k)]

end Sys2Proof.Machine
end

section
/-! Droop, and the clauses of power put together (R391 to R396). -/

namespace Sys2Proof.Machine
open Sys2Proof

/-! ## Droop (R391, R396) -/

theorem exec_droopStretch {c : CoreId} {s : State} (hup : s.coreUp c = true) (rail : Nat) :
    exec (.droopStretch c rail) s = .next (s.droop c rail) :=
  congrArg Host.Outcome.next (if_pos hup)

theorem exec_droopRestore {c : CoreId} {s : State} (hup : s.coreUp c = true) (cyc : Vector Nat 4) (above rail : Nat) :
    exec (.droopRestore c cyc above rail) s = .next (s.droopEnd c cyc above rail) :=
  congrArg Host.Outcome.next (if_pos hup)

theorem droop_of_low {c : CoreId} {s : State} {rail : Nat} (hs : (s.island c).stretched = false) (hr : rail + s.droopMv < s.setpoint c) :
    s.droop c rail = (s.modIsland c fun i => { i with stretched := true }).bump .pwr 4 1 := if_pos ⟨by simp [hs], hr⟩

theorem droop_of_not {c : CoreId} {s : State} {rail : Nat} (h : (s.island c).stretched = true ∨ s.setpoint c ≤ rail + s.droopMv) :
    s.droop c rail = s := if_neg fun ⟨hs, hr⟩ => h.elim (fun h => by simp [h] at hs) (fun h => by omega)

theorem droopEnd_of_long {c : CoreId} {s : State} {cyc : Vector Nat 4} {above rail : Nat} (hs : (s.island c).stretched = true) (ha : 64 ≤ above)
    (hc : above ≤ cyc.toList.sum) (hr : 2 * s.setpoint c < 2 * rail + s.droopMv) :
    s.droopEnd c cyc above rail = (s.modIsland c fun i => { i with stretched := false }).bump .pwr 5 (droopNs cyc) := if_pos ⟨hs, ha, hc, hr⟩

theorem droopEnd_of_not {c : CoreId} {s : State} {cyc : Vector Nat 4} {above rail : Nat}
    (h : (s.island c).stretched = false ∨ above < 64 ∨ cyc.toList.sum < above ∨ 2 * rail + s.droopMv ≤ 2 * s.setpoint c) :
    s.droopEnd c cyc above rail = s := by
  refine if_neg fun ⟨hs, ha, hc, hr⟩ => ?_
  rcases h with h | h
  · simp [h] at hs
  · omega

/-! ## AVSBUS_READ (R382) -/

theorem exec_avsbusRead {s : State} (hal : s.alive = true) (v a d : Vector Nat 10) :
    exec (.avsbusRead v a d) s =
      .next { s with power := { s.power with volts := v, amps := a, temps := d, atRead := s.power.islands } } :=
  congrArg Host.Outcome.next (if_pos hal)

/-! ## Cores under a change of registers -/

@[simp] theorem State.enabled_setField (s : State) (p : Page) (o lo len v : Nat) (c : CoreId) :
    (s.setField p o lo len v).enabled c = s.enabled c := by
  rw [State.enabled, State.setField, State.setPg_mgmt]; rfl

@[simp] theorem State.core_setField (s : State) (p : Page) (o lo len v : Nat) (c : CoreId) : (s.setField p o lo len v).core c = s.core c :=
  State.core_setPg ..

@[simp] theorem State.ctx_setField (s : State) (p : Page) (o lo len v : Nat) (c : CoreId) (x : CtxId) :
    (s.setField p o lo len v).ctx c x = s.ctx c x := State.ctx_setPg ..

@[simp] theorem State.island_setField (s : State) (p : Page) (o lo len v : Nat) (c : CoreId) :
    (s.setField p o lo len v).island c = s.island c := by rw [State.island, State.core_setField]; rfl

@[simp] theorem State.enabled_modPower (s : State) (f : Power → Power) (c : CoreId) : (s.modPower f).enabled c = s.enabled c := rfl
@[simp] theorem State.island_modPower (s : State) (f : Power → Power) (c : CoreId) : (s.modPower f).island c = s.island c := rfl

/-- Setting a field of a register, and a change of the power state, are no matter of cores. -/
theorem capsIslands_setField (s t : State) (p : Page) (o lo len v : Nat) : CapsIslands (s.setField p o lo len v) t ↔ CapsIslands s t := by
  simp only [CapsIslands, State.enabled_setField, State.island_setField]

theorem capsIslands_modPower (s t : State) (f : Power → Power) : CapsIslands (s.modPower f) t ↔ CapsIslands s t := by
  simp only [CapsIslands, State.enabled_modPower, State.island_modPower]

theorem freesIslands_setField (s t : State) (p : Page) (o lo len v : Nat) : FreesIslands (s.setField p o lo len v) t ↔ FreesIslands s t := by
  simp only [FreesIslands, State.enabled_setField, State.island_setField, State.ctx_setField]

theorem capsIslands_capStart (s t : State) : CapsIslands s.capStart t ↔ CapsIslands s t := by
  rw [State.capStart, capsIslands_modPower, capsIslands_setField]

theorem capsIslands_throttleStart (s t : State) (n : Nat) : CapsIslands (s.throttleStart n) t ↔ CapsIslands s t := by
  rw [State.throttleStart, capsIslands_modPower, capsIslands_setField, capsIslands_setField]

/-! ## The clauses -/

/-- The onset of a cap from a state within its rules. -/
theorem capOnset_spec {s : State} {w : Nat} (hp : s.pcap = false) (ho : s.overPower = some w) (t : State) (ht : t = s.capOnset) :
    t.pcap = true ∧ t.thr = s.thr ∧ t.pg .pwr PG_ERR_CODE = 0x0501 ∧ t.pg .pwr PG_ERR_INFO0 = 1 ∧
      t.pg .pwr (PG_ERR_INFO0 + 4) = w32 (w % 0x1_0000) ∧ t.pins.alert = true ∧ t.power.under = 0 ∧
      CapsIslands s t := by
  obtain ⟨hpcap, hthr⟩ := stat_capStart s
  obtain ⟨hcode, hcause, hvalue⟩ := codes_onset s.capStart 1 0 w
  rw [ht, capOnset_of_over hp ho]
  refine ⟨(pcap_onset ..).trans hpcap, (thr_onset ..).trans hthr, hcode, hcause, hvalue, alert_onset _ _ (by simp [State.capped, hpcap]), ?_,
    (capsIslands_capStart s _).1 (capsIslands_onset _ _)⟩
  rw [power_onset]; rfl

/-- The onset of a throttle. -/
theorem throttle_spec {s : State} {n d : Nat} (hthr : s.thr = false) (hn : n ≤ 303) (hd : 95 ≤ d) (t : State) (ht : t = s.throttle n d) :
    t.thr = true ∧ t.pcap = s.pcap ∧ bit (t.pg .pwr PWR_STAT) 14 = decide (256 ≤ n) ∧ t.pg .pwr PG_ERR_CODE = 0x0501 ∧
      t.pg .pwr PG_ERR_INFO0 = w32 (n <<< 1) ∧ t.pins.alert = true ∧ t.power.cool = 0 ∧
      CapsIslands s t := by
  obtain ⟨hon, hpcap, hmem⟩ := stat_throttleStart s n
  obtain ⟨hcode, hsensor, -⟩ := codes_onset (s.throttleStart n) 0 n d
  rw [Nat.zero_add] at hsensor
  rw [ht, throttle_of_hot hthr hn hd]
  refine ⟨(thr_onset ..).trans hon, (pcap_onset ..).trans hpcap, ?_, hcode, hsensor, alert_onset _ _ (by simp [State.capped, hon]), ?_,
    (capsIslands_throttleStart s _ n).1 (capsIslands_onset _ _)⟩
  · rw [pg_onset_block _ _ PWR_STAT (by decide) (by decide), hmem]
  · rw [power_onset]; rfl

/-- The lift of a cap. -/
theorem capLift_spec {s : State} (hp : s.pcap = true) (hu : 100 ≤ s.power.under) (t : State) (ht : t = s.capLift) :
    t.pcap = false ∧ t.thr = s.thr ∧ t.pins.alert = (s.thr || s.recovery) ∧
      (s.thr = false → FreesIslands s t) := by
  obtain ⟨hpcap, hthr⟩ := stat_capEnd s
  have hcap : (s.setField .pwr PWR_STAT 13 1 0).capped = s.thr := by rw [State.capped, hpcap, hthr, Bool.or_false]
  rw [ht, capLift_of_long hp hu]
  refine ⟨?_, ?_, ?_, fun hno => (freesIslands_setField ..).1 (freesIslands_lift _ (hcap.trans hno))⟩
  · rw [State.pcap, pg_lift]; exact hpcap
  · rw [State.thr, pg_lift]; exact hthr
  · rw [alert_lift, hcap, recovery_setField_pwr]

/-- The lift of a throttle. -/
theorem throttleLift_spec {s : State} (hon : s.thr = true) (hc : 100 ≤ s.power.cool) (t : State) (ht : t = s.throttleLift) :
    t.thr = false ∧ t.pcap = s.pcap ∧ t.pins.alert = (s.pcap || s.recovery) ∧
      (s.pcap = false → FreesIslands s t) := by
  obtain ⟨hthr, hpcap⟩ := stat_throttleEnd s
  have hcap : (s.setField .pwr PWR_STAT 12 1 0).capped = s.pcap := by rw [State.capped, hpcap, hthr, Bool.false_or]
  rw [ht, throttleLift_of_long hon hc]
  refine ⟨?_, ?_, ?_, fun hno => (freesIslands_setField ..).1 (freesIslands_lift _ (hcap.trans hno))⟩
  · rw [State.thr, pg_lift]; exact hthr
  · rw [State.pcap, pg_lift]; exact hpcap
  · rw [alert_lift, hcap, recovery_setField_pwr]

/-- Settles O54: samples by their power state and their folds, cap and throttle by onset and lift, droop by its two conditions. -/
theorem powerEvents : Obligations.PowerEvents := by
  refine ⟨fun s => ⟨fun p hup => ?current, fun j hup => ?junction, fun v a d hal => exec_avsbusRead hal v a d⟩,
    fun s => ⟨overPower_none_iff s, fun hup => ⟨fun hp => ?capStands, fun ho => ?capWithin, fun w hp ho => ?capOnset, fun h => ?capNoLift,
      fun hp hu => ?capLift, fun n d => ⟨fun h => ?throttleNot, fun hthr hn hd => ?throttle⟩, fun h => ?throttleNoLift,
      fun hon hc => ?throttleLift⟩,
      fun hal n d => ⟨fun h => ?tripNot, fun hn hd => ?trip⟩⟩,
    fun c s hup => ⟨fun rail hs hr => ?droop, fun rail h => ?droopNot,
      fun cyc above rail => ⟨fun hs ha hc hr => ?restore, fun h => ?restoreNot⟩⟩⟩
  case current =>
    exact ⟨_, (exec_currentSample hup p).trans (congrArg _ (currentSample_eq s p)), rfl, sampledPower_eq s p,
      fun f => ⟨samples_nonempty s p, by
        have h := meanUw_nearest ((s.sampledPower p).samples.map f) (by rw [List.length_map]; exact samples_nonempty s p)
        rw [List.length_map] at h
        exact h⟩, rfl, fun c => rfl⟩
  case junction =>
    obtain ⟨hsense, hstack, hother⟩ := pg_junctionSample s j
    have hframe := junctionSample_frame s j
    exact ⟨_, exec_junctionSensorSample hup j, by rw [hframe]; rfl, coolSample_iff s j, hottest_spec j.sensor, hsense, hstack, hother,
      by rw [hframe]⟩
  case capStands => rw [exec_powerCapOnset hup, State.capOnset, if_pos hp]
  case capWithin => rw [exec_powerCapOnset hup, capOnset_of_within ho]
  case capOnset => exact ⟨_, exec_powerCapOnset hup, capOnset_spec hp ho _ rfl⟩
  case capNoLift => rw [exec_powerCapLift hup, capLift_of_not h]
  case capLift => exact ⟨_, exec_powerCapLift hup, capLift_spec hp hu _ rfl⟩
  case throttleNot => rw [exec_thermThrottle hup, throttle_of_not h]
  case throttle => exact ⟨_, exec_thermThrottle hup n d, throttle_spec hthr hn hd _ rfl⟩
  case throttleNoLift => rw [exec_throttleLift hup, throttleLift_of_not h]
  case throttleLift => exact ⟨_, exec_throttleLift hup, throttleLift_spec hon hc _ rfl⟩
  case tripNot => rw [exec_thermalTrip hal, trip_of_not h]
  case trip => exact ⟨_, (exec_thermalTrip hal n d).trans (congrArg _ (trip_of_hot hn hd)), stopped_spec s _⟩
  case droop => rw [exec_droopStretch hup, droop_of_low hs hr]
  case droopNot => rw [exec_droopStretch hup, droop_of_not h]
  case restore => rw [exec_droopRestore hup, droopEnd_of_long hs ha hc hr]; rfl
  case restoreNot => rw [exec_droopRestore hup, droopEnd_of_not h]

end Sys2Proof.Machine
end

section
/-! The mesh: dimension-order routes (R23), the turns of a router output and whom it grants (R26). -/

namespace Sys2Proof.Machine
open Sys2Proof

/-! ## Routes -/

theorem route_of_column_lt {b dst : BayId} (h : b.val % 4 < dst.val % 4) : route b dst = .east := if_pos h

theorem route_of_column_gt {b dst : BayId} (h : dst.val % 4 < b.val % 4) : route b dst = .west :=
  (if_neg h.asymm).trans (if_pos h)

/-- In the destination's column the rows alone decide. -/
theorem route_of_column_eq {b dst : BayId} (h : b.val % 4 = dst.val % 4) :
    route b dst = if b.val / 4 < dst.val / 4 then .south else if dst.val / 4 < b.val / 4 then .north else .loc :=
  (if_neg h.not_lt).trans (if_neg h.symm.not_lt)

theorem route_of_row_lt {b dst : BayId} (hc : b.val % 4 = dst.val % 4) (hr : b.val / 4 < dst.val / 4) : route b dst = .south := by
  rw [route_of_column_eq hc, if_pos hr]

theorem route_of_row_gt {b dst : BayId} (hc : b.val % 4 = dst.val % 4) (hr : dst.val / 4 < b.val / 4) : route b dst = .north := by
  rw [route_of_column_eq hc, if_neg hr.asymm, if_pos hr]

theorem route_self (b : BayId) : route b b = .loc := by
  rw [route_of_column_eq rfl, if_neg (lt_irrefl _), if_neg (lt_irrefl _)]

/-! ## Neighbours -/

theorem neighbour_east {b : BayId} (h : b.val < 15) : (neighbour b .east).1.val = b.val + 1 := Nat.mod_eq_of_lt (by omega)

theorem neighbour_west {b : BayId} (h : 1 ≤ b.val) : (neighbour b .west).1.val + 1 = b.val := by
  have hval : (neighbour b .west).1.val = b.val - 1 := Nat.mod_eq_of_lt (by omega)
  omega

theorem neighbour_south {b : BayId} (h : b.val < 12) : (neighbour b .south).1.val = b.val + 4 := Nat.mod_eq_of_lt (by omega)

theorem neighbour_north {b : BayId} (h : 4 ≤ b.val) : (neighbour b .north).1.val + 4 = b.val := by
  have hval : (neighbour b .north).1.val = b.val - 4 := Nat.mod_eq_of_lt (by omega)
  omega

/-- Settles O37: each output by its comparison of columns or rows, and the bay beyond it. -/
theorem meshRoutes : Obligations.MeshRoutes := by
  intro b dst
  have hb := b.isLt
  have hdst := dst.isLt
  refine ⟨fun h => ⟨route_of_column_lt h, neighbour_east ?_⟩, fun h => ⟨route_of_column_gt h, neighbour_west ?_⟩,
    fun hc hr => ⟨route_of_row_lt hc hr, neighbour_south ?_⟩, fun hc hr => ⟨route_of_row_gt hc hr, neighbour_north ?_⟩,
    fun h => h ▸ route_self b⟩
  all_goals omega

/-! ## Whom an output grants -/

/-- The turn of an output passes every input once: it finds one that qualifies, or none does. -/
theorem Mesh.turn_spec (m : Mesh) (b : BayId) (out : Dir) (k : Nat) (p : Nat → Bool) :
    (∃ d, m.turn b out k p = some d ∧ d < 5 ∧ p d = true) ∨ (m.turn b out k p = none ∧ ∀ d < 5, p d = false) := by
  cases h : m.turn b out k p with
  | some d =>
    obtain ⟨i, -, rfl⟩ := List.mem_map.1 (List.mem_of_find?_eq_some h)
    exact .inl ⟨_, rfl, Nat.mod_lt _ (by decide), List.find?_some h⟩
  | none =>
    refine .inr ⟨rfl, fun d hd => Bool.eq_false_iff.2 (List.find?_eq_none.1 h d (List.mem_map.2 ?_))⟩
    generalize m.last[meshIndex b (dirNum out) k] = last
    exact ⟨(d + 4 - last % 5) % 5, List.mem_range.2 (by omega), by omega⟩

/-- An input presents a flit of class k for an output. -/
def Mesh.presents (m : Mesh) (b : BayId) (out : Dir) (k d : Nat) : Bool := (m.head b d k out).isSome

/-- An input presents a request that has waited 16 cycles. -/
def Mesh.presentsAged (m : Mesh) (b : BayId) (out : Dir) (d : Nat) : Bool :=
  match m.head b d 0 out with
  | some f => decide (16 ≤ f.waited)
  | none => false

theorem Mesh.presentsAged_iff (m : Mesh) (b : BayId) (out : Dir) (d : Nat) :
    m.presentsAged b out d = true ↔ ∃ f, m.head b d 0 out = some f ∧ 16 ≤ f.waited := by
  unfold presentsAged
  cases m.head b d 0 out <;> simp

theorem Mesh.presents_of_aged {m : Mesh} {b : BayId} {out : Dir} {d : Nat} (h : m.presentsAged b out d = true) :
    m.presents b out 0 d = true := by
  obtain ⟨f, hf, -⟩ := (m.presentsAged_iff b out d).1 h
  rw [presents, hf]; rfl

theorem Mesh.grant_eq (m : Mesh) (b : BayId) (out : Dir) : m.grant b out =
    ((m.turn b out 0 (m.presentsAged b out)).map (·, 0)).orElse fun _ =>
      ((m.turn b out 1 (m.presents b out 1)).map (·, 1)).orElse fun _ => (m.turn b out 0 (m.presents b out 0)).map (·, 0) := rfl

/-- What an output can grant: an aged request; with none, a response; with neither, a request; else nothing (R26). -/
theorem Mesh.grant_cases (m : Mesh) (b : BayId) (out : Dir) :
    (∃ d < 5, m.presentsAged b out d = true ∧ m.grant b out = some (d, 0)) ∨
    (∀ d < 5, m.presentsAged b out d = false) ∧
      ((∃ d < 5, m.presents b out 1 d = true ∧ m.grant b out = some (d, 1)) ∨
      (∀ d < 5, m.presents b out 1 d = false) ∧
        ((∃ d < 5, m.presents b out 0 d = true ∧ m.grant b out = some (d, 0)) ∨
        (∀ d < 5, m.presents b out 0 d = false) ∧ m.grant b out = none)) := by
  rw [grant_eq]
  obtain ⟨d, ht, hd, hp⟩ | ⟨ht, haged⟩ := m.turn_spec b out 0 (m.presentsAged b out)
  · exact .inl ⟨d, hd, hp, by rw [ht]; rfl⟩
  refine .inr ⟨haged, ?_⟩
  obtain ⟨d, ht1, hd, hp⟩ | ⟨ht1, hresp⟩ := m.turn_spec b out 1 (m.presents b out 1)
  · exact .inl ⟨d, hd, hp, by rw [ht, ht1]; rfl⟩
  refine .inr ⟨hresp, ?_⟩
  obtain ⟨d, ht0, hd, hp⟩ | ⟨ht0, hreq⟩ := m.turn_spec b out 0 (m.presents b out 0)
  · exact .inl ⟨d, hd, hp, by rw [ht, ht1, ht0]; rfl⟩
  · exact .inr ⟨hreq, by rw [ht, ht1, ht0]; rfl⟩

theorem Mesh.grant_presented {m : Mesh} {b : BayId} {out : Dir} {d k : Nat} (h : m.grant b out = some (d, k)) :
    d < 5 ∧ (k = 0 ∨ k = 1) ∧ m.presents b out k d = true := by
  obtain ⟨e, he, hp, hg⟩ | ⟨-, ⟨e, he, hp, hg⟩ | ⟨-, ⟨e, he, hp, hg⟩ | ⟨-, hg⟩⟩⟩ := m.grant_cases b out <;>
    rw [hg] at h <;> cases h
  · exact ⟨he, .inl rfl, presents_of_aged hp⟩
  · exact ⟨he, .inr rfl, hp⟩
  · exact ⟨he, .inl rfl, hp⟩

/-- With nothing granted, no input presents a flit. -/
theorem Mesh.not_presents_of_grant_none {m : Mesh} {b : BayId} {out : Dir} {d k : Nat} (h : m.grant b out = none) (hd : d < 5)
    (hk : k < 2) : m.presents b out k d = false := by
  obtain ⟨_, -, -, hg⟩ | ⟨-, ⟨_, -, -, hg⟩ | ⟨hresp, ⟨_, -, -, hg⟩ | ⟨hreq, -⟩⟩⟩ := m.grant_cases b out
  iterate 3 exact absurd (h.symm.trans hg) (by simp)
  obtain rfl | rfl : k = 0 ∨ k = 1 := by omega
  · exact hreq d hd
  · exact hresp d hd

theorem Mesh.grant_of_aged {m : Mesh} {b : BayId} {out : Dir} {d : Nat} (hd : d < 5) (h : m.presentsAged b out d = true) :
    ∃ e, m.grant b out = some (e, 0) ∧ m.presentsAged b out e = true := by
  obtain ⟨e, -, hp, hg⟩ | ⟨hnone, -⟩ := m.grant_cases b out
  · exact ⟨e, hg, hp⟩
  · exact absurd h (by rw [hnone d hd]; decide)

theorem Mesh.grant_of_response {m : Mesh} {b : BayId} {out : Dir} {d : Nat} (hd : d < 5) (h : m.presents b out 1 d = true)
    (hnone : ∀ e < 5, m.presentsAged b out e = false) : ∃ e, m.grant b out = some (e, 1) := by
  obtain ⟨e, he, hp, -⟩ | ⟨-, ⟨e, -, -, hg⟩ | ⟨hresp, -⟩⟩ := m.grant_cases b out
  · exact absurd hp (by rw [hnone e he]; decide)
  · exact ⟨e, hg⟩
  · exact absurd h (by rw [hresp d hd]; decide)

end Sys2Proof.Machine
end

section
/-! ROUTER_GRANT: the cycle waited at an output, what the router moves (R24, R26). -/

namespace Sys2Proof.Machine
open Sys2Proof

/-! ## Buffers -/

/-- A fold that changes the places of a list, each once. -/
theorem getElem_foldl_vmod (g : β → Fin n) (f : α → α) (l : List β) (hl : (l.map g).Nodup) (v : Vector α n) (j : Fin n) :
    (l.foldl (fun v i => vmod v (g i) f) v)[j] = if j ∈ l.map g then f v[j] else v[j] := by
  induction l generalizing v with
  | nil => rfl
  | cons i r ih =>
    obtain ⟨hi, hr⟩ := List.nodup_cons.1 hl
    rw [List.foldl_cons, ih hr]
    by_cases hj : j = g i
    · subst hj
      rw [if_neg hi, if_pos (by simp), vmod_same]
    · rw [vmod_other _ _ _ _ hj, List.map_cons]
      simp only [List.mem_cons, hj, false_or]

theorem meshIndex_val (b : BayId) {d k : Nat} (hd : d < 5) (hk : k < 2) : (meshIndex b d k).val = 10 * b.val + 2 * d + k :=
  Nat.mod_eq_of_lt (by omega)

/-- The ten buffers of a bay stand at ten places. -/
theorem meshIndex_nodup (b : BayId) : ((List.range 10).map fun i => meshIndex b (i / 2) (i % 2)).Nodup := by
  refine List.Nodup.map_on (fun i hi j hj h => ?_) List.nodup_range
  have hval := congrArg Fin.val h
  rw [List.mem_range] at hi hj
  rw [meshIndex_val b (by omega) (by omega), meshIndex_val b (by omega) (by omega)] at hval
  omega

/-- The cycle waited at an output, in a buffer of its bay. -/
theorem Mesh.bufs_wait1 (m : Mesh) (b : BayId) (out : Dir) {d k : Nat} (hd : d < 5) (hk : k < 2) :
    (m.wait1 b out).bufs[meshIndex b d k] =
      m.bufs[meshIndex b d k].map fun f => if route b f.dst = out then { f with waited := f.waited + 1 } else f := by
  have hmem : meshIndex b d k ∈ (List.range 10).map fun i => meshIndex b (i / 2) (i % 2) := by
    refine List.mem_map.2 ⟨2 * d + k, List.mem_range.2 (by omega), ?_⟩
    rw [show (2 * d + k) / 2 = d by omega, show (2 * d + k) % 2 = k by omega]
  exact (getElem_foldl_vmod _ _ _ (meshIndex_nodup b) _ _).trans (if_pos hmem)

/-! ## One cycle of an output -/

theorem exec_routerGrant {s : State} (hup : s.pkgUp = true) (b : BayId) (out : Dir) :
    exec (.routerGrant b out) s = .next (s.routerStep b out) := congrArg Host.Outcome.next (if_pos hup)

theorem State.routerStep_of_none {s : State} {b : BayId} {out : Dir} (h : s.mesh.grant b out = none) :
    s.routerStep b out = { s with mesh := s.mesh.wait1 b out } := by
  rw [routerStep, h]

/-- The mesh once a granted flit has left its input: `rest` stays there, the turn is taken, the others have waited. -/
def Mesh.granted (m : Mesh) (b : BayId) (out : Dir) (d k : Nat) (rest : List MeshFlit) : Mesh :=
  ({ m with bufs := m.bufs.set (meshIndex b d k) rest, last := m.last.set (meshIndex b (dirNum out) k) d } : Mesh).wait1 b out

theorem State.routerStep_of_some {s : State} {b : BayId} {out : Dir} {d k : Nat} {f : MeshFlit} {rest : List MeshFlit}
    (h : s.mesh.grant b out = some (d, k)) (hbuf : s.mesh.bufs[meshIndex b d k] = f :: rest) :
    s.routerStep b out = if out = .loc then ({ s with mesh := s.mesh.granted b out d k rest } : State).arriveFlit f
      else { s with mesh := { s.mesh.granted b out d k rest with
        bufs := vmod (s.mesh.granted b out d k rest).bufs (meshIndex (neighbour b out).1 (neighbour b out).2 k) fun l =>
          l ++ [{ f with waited := 0 }] } } := by
  simp only [routerStep, h, hbuf]
  rfl

/-- Settles O38: the moves by the two outcomes of a grant, the grants by their order of precedence. -/
theorem routerGrants : Obligations.RouterGrants := by
  refine ⟨fun b out s hup => ⟨fun h => ?idle, fun d k f rest h hbuf => ⟨fun hout => ?leaves, fun hout => ?moves⟩⟩,
    fun m b out => ⟨fun d k => m.bufs_wait1 b out, fun d k => m.grant_presented, fun d k hd hk hp hnone => ?granted,
      fun d f hd hf hw => ?aged, fun d f hd hf hyoung => ?response⟩⟩
  case idle => rw [exec_routerGrant hup, State.routerStep_of_none h]
  case leaves => rw [exec_routerGrant hup, State.routerStep_of_some h hbuf, if_pos hout]; rfl
  case moves => rw [exec_routerGrant hup, State.routerStep_of_some h hbuf, if_neg hout]; rfl
  case granted => exact absurd hp (by rw [← Mesh.presents, Mesh.not_presents_of_grant_none hnone hd hk]; decide)
  case aged =>
    obtain ⟨e, hg, he⟩ := Mesh.grant_of_aged hd ((m.presentsAged_iff b out d).2 ⟨f, hf, hw⟩)
    obtain ⟨g, hhead, hwaited⟩ := (m.presentsAged_iff b out e).1 he
    exact ⟨e, g, hg, hhead, hwaited⟩
  case response =>
    refine Mesh.grant_of_response hd (by rw [Mesh.presents, hf]; rfl) fun e he => Bool.eq_false_iff.2 fun haged => ?_
    obtain ⟨g, hhead, hwaited⟩ := (m.presentsAged_iff b out e).1 haged
    exact absurd (hyoung e g he hhead) (by omega)

end Sys2Proof.Machine
end

section
/-! The planes of a tap (R41, R50, R52): what one plane adds, and what all planes of a code add up to. -/

namespace Sys2Proof.Machine
open Sys2Proof

/-- A row's pattern holds the plane's bits of its four codes, and its table entry adds the weights they select (R41, R50). -/
theorem tableEntry_rowPattern (w0 w1 w2 w3 : Int) (j c0 c1 c2 c3 : Nat) : tableEntry w0 w1 w2 w3 (rowPattern j c0 c1 c2 c3) =
    w0 * bn (c0.testBit j) + w1 * bn (c1.testBit j) + w2 * bn (c2.testBit j) + w3 * bn (c3.testBit j) := by
  have hbits : ∀ a b c d : Bool, (bn a + 2 * bn b + 4 * bn c + 8 * bn d).testBit 0 = a ∧
      (bn a + 2 * bn b + 4 * bn c + 8 * bn d).testBit 1 = b ∧ (bn a + 2 * bn b + 4 * bn c + 8 * bn d).testBit 2 = c ∧
      (bn a + 2 * bn b + 4 * bn c + 8 * bn d).testBit 3 = d := by decide
  have hsel : ∀ (w : Int) (b : Bool), (if b then w else 0) = w * bn b := by rintro w (_ | _) <;> simp [bn]
  obtain ⟨h0, h1, h2, h3⟩ := hbits (c0.testBit j) (c1.testBit j) (c2.testBit j) (c3.testBit j)
  rw [tableEntry, rowPattern, h0, h1, h2, h3, hsel, hsel, hsel, hsel]

/-- One plane through the adder tree is the dot product of the weights and the plane's bits (R52). -/
theorem treeSum_eq_dot (j : Nat) (ws : List Int) (cs : List Nat) (hlen : ws.length = cs.length) (h4 : 4 ∣ ws.length) :
    treeSum j ws cs = dot ws (cs.map fun q => (bn (q.testBit j) : Int)) := by
  induction ws, cs using treeSum.induct with
  | case1 w0 w1 w2 w3 ws c0 c1 c2 c3 cs ih =>
    simp only [List.length_cons] at hlen h4
    rw [treeSum, tableEntry_rowPattern, ih (by omega) (by omega)]
    simp only [List.map_cons, dot]
    ring
  | case2 ws cs hshort =>
    match ws, cs, hlen, h4, hshort with
    | [], [], _, _, _ => rfl
    | _ :: _ :: _ :: _ :: _, _ :: _ :: _ :: _ :: _, _, _, hshort => exact absurd rfl (hshort _ _ _ _ _ _ _ _ _ _ rfl)
    | [_], _, _, h4, _ | [_, _], _, _, h4, _ | [_, _, _], _, _, h4, _ => simp only [List.length_cons, List.length_nil] at h4; omega

/-- The dot product with a sum of vectors, each scaled. -/
theorem sum_mul_dot {ι : Type} (l : List ι) (a : ι → Int) (b : ι → Nat → Int) (ws : List Int) (cs : List Nat) :
    (l.map fun j => a j * dot ws (cs.map (b j))).sum = dot ws (cs.map fun q => (l.map fun j => a j * b j q).sum) := by
  induction ws generalizing cs with
  | nil => simp [dot]
  | cons w ws ih =>
    cases cs with
    | nil => simp [dot]
    | cons q cs =>
      simp only [List.map_cons, dot, mul_add, List.sum_map_add, ih, ← List.sum_map_mul_left]
      congr 3
      funext j
      ring

/-- The bits of a number, weighed by their powers of two, up to bit n. -/
theorem sum_two_pow_testBit (q n : Nat) :
    ((List.range n).map fun j => ((1 <<< j : Nat) : Int) * bn (q.testBit j)).sum = (q % 2 ^ n : Nat) := by
  induction n with
  | zero => simp [Nat.mod_one]
  | succ n ih =>
    have hbit : bn (q.testBit n) = q / 2 ^ n % 2 := by rw [← Nat.toNat_testBit]; cases q.testBit n <;> rfl
    rw [List.sum_range_succ, ih, Nat.mod_pow_succ, hbit, Nat.shiftLeft_eq, Nat.one_mul]
    push_cast
    rfl

/-- What a code is worth in the shift-accumulator: its planes, each with its weight (R50). -/
def planeVal (f : Fmt) (q : Nat) : Int := ((List.range f.bits).map fun j => planeWeight f j * bn (q.testBit j)).sum

theorem planeSum_eq_dot (f : Fmt) (ws : List Int) (cs : List Nat) (hlen : ws.length = cs.length) (h4 : 4 ∣ ws.length) :
    planeSum f ws cs = dot ws (cs.map (planeVal f)) := by
  unfold planeSum planeVal
  rw [← sum_mul_dot]
  simp only [treeSum_eq_dot _ ws cs hlen h4]

/-- Unsigned codes: the planes weigh as the bits of the number do. -/
theorem planeVal_bu {b q : Nat} (hq : q < 2 ^ b) : planeVal (.bu b) q = codeVal (.bu b) q :=
  (sum_two_pow_testBit q b).trans (congrArg _ (Nat.mod_eq_of_lt hq))

/-- BS1: the single plane weighs 2, where the value of a code is 2u - 1. -/
theorem planeVal_bs_one {q : Nat} (hq : q < 2) : planeVal (.bs 1) q = codeVal (.bs 1) q + 1 := by
  interval_cases q <;> rfl

/-- Two's complement: the top plane weighs negative. -/
theorem planeVal_bs {b q : Nat} (hb : 2 ≤ b) (hq : q < 2 ^ b) : planeVal (.bs b) q = codeVal (.bs b) q := by
  obtain ⟨n, rfl⟩ : ∃ n, b = n + 1 := ⟨b - 1, by omega⟩
  have hlow : ((List.range n).map fun j => planeWeight (.bs (n + 1)) j * bn (q.testBit j)).sum = (q % 2 ^ n : Nat) := by
    rw [← sum_two_pow_testBit]
    refine congrArg List.sum (List.map_congr_left fun j hj => ?_)
    have := List.mem_range.1 hj
    rw [planeWeight, if_neg (by omega), if_neg (by omega)]
  have htop : planeWeight (.bs (n + 1)) n = -(2 ^ n : Nat) := by
    rw [planeWeight, if_neg (by omega), Nat.add_sub_cancel, if_pos rfl, Nat.shiftLeft_eq, Nat.one_mul]
  rw [planeVal, Fmt.bits, List.sum_range_succ, hlow, htop, codeVal, if_neg (by omega), signed, Nat.shiftLeft_eq, Nat.shiftLeft_eq,
    Nat.one_mul, Nat.one_mul, Nat.add_sub_cancel, Nat.mod_eq_of_lt hq]
  have hpow : 2 ^ (n + 1) = 2 * 2 ^ n := by rw [Nat.pow_succ, Nat.mul_comm]
  by_cases hlt : q < 2 ^ n
  · rw [Nat.testBit_lt_two_pow hlt, Nat.mod_eq_of_lt hlt, if_pos hlt]
    simp [bn]
  · obtain ⟨r, rfl⟩ : ∃ r, q = 2 ^ n + r := ⟨q - 2 ^ n, by omega⟩
    have hr : r < 2 ^ n := by omega
    rw [Nat.testBit_two_pow_add_eq, Nat.testBit_lt_two_pow hr, Nat.add_mod_left, Nat.mod_eq_of_lt hr, if_neg hlt, hpow]
    simp only [bn, Bool.not_false, if_true]
    push_cast
    ring

theorem dot_map_add_one (g : Nat → Int) (ws : List Int) (cs : List Nat) (hlen : ws.length = cs.length) :
    dot ws (cs.map fun q => g q + 1) = dot ws (cs.map g) + ws.sum := by
  induction ws generalizing cs with
  | nil => simp [dot]
  | cons w ws ih =>
    cases cs with
    | nil => simp at hlen
    | cons q cs =>
      simp only [List.map_cons, dot, List.sum_cons, ih cs (Nat.succ.inj hlen)]
      ring

/-- Settles O7: the planes one by one through the tree, then the value of a code by its format. -/
theorem planesAddUp : Obligations.PlanesAddUp := by
  intro f ws cs hf hb hlen h4 hcodes
  rw [planeSum_eq_dot f ws cs hlen h4]
  have hvals (g : Nat → Int) (h : ∀ q < 2 ^ f.bits, planeVal f q = g q) : cs.map (planeVal f) = cs.map g :=
    List.map_congr_left fun q hq => h q (hcodes q hq)
  by_cases h1 : f = .bs 1
  · subst h1
    rw [if_pos rfl, hvals (fun q => codeVal (.bs 1) q + 1) fun q hq => planeVal_bs_one hq, dot_map_add_one _ _ _ hlen]
  · rw [if_neg h1, Int.add_zero, hvals (codeVal f) fun q hq => ?_]
    match f, hf with
    | .bs b, _ =>
      have hb1 : b ≠ 1 := fun h => h1 (congrArg Fmt.bs h)
      exact planeVal_bs (by simp only [Fmt.bits] at hb; omega) hq
    | .bu b, _ => exact planeVal_bu hq

end Sys2Proof.Machine
end

section
/-! Entries of the loft (R116, R119): reads after writes, the keys of a slot, the pairs that a TILE delivers. -/

namespace Sys2Proof.Machine
open Sys2Proof

/-! ## Reads after writes -/

@[simp] theorem Entry.ofWord_toWord (x : Entry) : Entry.ofWord x.toWord = x := by
  have hs : (x.c ++ x.s).setWidth 32 = x.s := BitVec.setWidth_append_eq_right
  have hc : ((x.c ++ x.s) >>> 32).setWidth 32 = x.c := by
    refine BitVec.eq_of_getLsbD_eq fun i hi => ?_
    rw [BitVec.getLsbD_setWidth, BitVec.getLsbD_ushiftRight, BitVec.getLsbD_append]
    simp [hi]
  exact congrArg₂ Entry.mk hs hc

@[simp] theorem State.loftAt_setLoft_same (s : State) (k : Nat) (x : Entry) : (s.setLoft k x).loftAt k = x := by
  rw [loftAt, setLoft, smGet_set_same, Entry.ofWord_toWord]

theorem State.loftAt_setLoft_other (s : State) {k i : Nat} (x : Entry) (h : i ≠ k) : (s.setLoft k x).loftAt i = s.loftAt i :=
  congrArg Entry.ofWord (smGet_set_other _ _ _ _ _ h)

/-! ## Keys (R115, R116) -/

/-- The entries of a slot lie within the loft of an engine. -/
theorem loftIndex_lt {u cnt slot m q : Nat} (hslot : slot < 1 <<< slotLog cnt) (hm : m < maxM u cnt) (hq : q < 32) :
    loftIndex u cnt slot m q < 8192 := by
  unfold maxM at hm
  unfold loftIndex
  generalize 1 <<< slotLog cnt = n at *
  have hsize : loftSize u ≤ 8192 := by unfold loftSize; split <;> omega
  calc slot * (loftSize u / n) + 32 * m + q
    _ < (slot + 1) * (loftSize u / n) := by rw [Nat.add_mul]; omega
    _ ≤ n * (loftSize u / n) := Nat.mul_le_mul_right _ hslot
    _ ≤ loftSize u := Nat.mul_div_le _ _
    _ ≤ 8192 := hsize

theorem loftIndex_inj {u cnt slot m m' q q' : Nat} (hq : q < 32) (hq' : q' < 32) :
    loftIndex u cnt slot m q = loftIndex u cnt slot m' q' ↔ m = m' ∧ q = q' := by
  unfold loftIndex
  omega

/-- A key names one core, unit, engine and index. -/
theorem loftKey_inj {c d : CoreId} {u v e f i j : Nat} (hu : u < 9) (hv : v < 9) (he : e < 8) (hf : f < 8) (hi : i < 8192) (hj : j < 8192) :
    loftKey c u e i = loftKey d v f j ↔ c = d ∧ u = v ∧ e = f ∧ i = j := by
  rw [Fin.ext_iff]
  unfold loftKey
  omega

theorem lt_of_mem_activeEngines {e n : Nat} (h : e ∈ activeEngines n) : e < 8 := List.mem_range.1 (List.mem_filter.1 h).1

/-! ## Updates of a list of entries -/

section
variable {ι : Type} (key : ι → Nat) (upd : ι → Entry → Entry × Bool)

/-- An entry is updated; the flag gathers what its update tells. -/
def updateEntry (a : State × Bool) (i : ι) : State × Bool :=
  (a.1.setLoft (key i) (upd i (a.1.loftAt (key i))).1, a.2 || (upd i (a.1.loftAt (key i))).2)

theorem updateEntries_frame (l : List ι) (a : State × Bool) :
    (l.foldl (updateEntry key upd) a).1 = { a.1 with loft := (l.foldl (updateEntry key upd) a).1.loft } := by
  induction l generalizing a with
  | nil => rfl
  | cons i r ih => exact ih _

theorem loftAt_updateEntries_other (l : List ι) (a : State × Bool) {k : Nat} (h : ∀ i ∈ l, k ≠ key i) :
    (l.foldl (updateEntry key upd) a).1.loftAt k = a.1.loftAt k := by
  induction l generalizing a with
  | nil => rfl
  | cons i r ih =>
    obtain ⟨hi, hr⟩ := List.forall_mem_cons.1 h
    exact (ih _ hr).trans (State.loftAt_setLoft_other _ _ hi)

/-- An entry listed once is updated once, and the flag tells whether one of the updates has told it. -/
theorem updateEntries_spec (l : List ι) (hl : (l.map key).Nodup) (a : State × Bool) :
    (∀ i ∈ l, (l.foldl (updateEntry key upd) a).1.loftAt (key i) = (upd i (a.1.loftAt (key i))).1) ∧
      ((l.foldl (updateEntry key upd) a).2 = true ↔ a.2 = true ∨ ∃ i ∈ l, (upd i (a.1.loftAt (key i))).2 = true) := by
  induction l generalizing a with
  | nil => simp
  | cons i r ih =>
    obtain ⟨hi, hr⟩ := List.nodup_cons.1 hl
    have hne : ∀ j ∈ r, key j ≠ key i := fun j hj h => hi (h ▸ List.mem_map_of_mem hj)
    have hold : ∀ j ∈ r, (updateEntry key upd a i).1.loftAt (key j) = a.1.loftAt (key j) := fun j hj =>
      State.loftAt_setLoft_other _ _ (hne j hj)
    obtain ⟨hset, hflag⟩ := ih hr (updateEntry key upd a i)
    rw [List.foldl_cons]
    refine ⟨List.forall_mem_cons.2 ⟨?head, fun j hj => by rw [hset j hj, hold j hj]⟩, hflag.trans ?flag⟩
    case head =>
      rw [loftAt_updateEntries_other _ _ _ _ fun j hj => (hne j hj).symm]
      exact State.loftAt_setLoft_same _ _ _
    case flag =>
      have htail : (∃ j ∈ r, (upd j ((updateEntry key upd a i).1.loftAt (key j))).2 = true) ↔
          ∃ j ∈ r, (upd j (a.1.loftAt (key j))).2 = true :=
        exists_congr fun j => and_congr_right fun hj => by rw [hold j hj]
      rw [htail, List.exists_mem_cons_iff, ← or_assoc]
      exact or_congr_left (Bool.or_eq_true _ _ ▸ Iff.rfl)

end

/-! ## The pairs of a TILE (R61, R163) -/

/-- An entry that pairs reach: its engine, its vector with its row, its column. -/
abbrev Cell := Nat × (Vec × Nat) × Nat

/-- The entries of some engines and vectors, as they are written. -/
def cells (engines : List Nat) (vecs : List Vec) : List Cell := engines.product (vecs.zipIdx.product (List.range 32))

def Cell.key (c : CoreId) (u cnt slot : Nat) (x : Cell) : Nat := loftKey c u x.1 (loftIndex u cnt slot x.2.1.2 x.2.2)

theorem mem_cells (engines : List Nat) (vecs : List Vec) (e m q : Nat) (v : Vec) :
    (e, (v, m), q) ∈ cells engines vecs ↔ e ∈ engines ∧ vecs[m]? = some v ∧ q < 32 := by
  rw [cells, List.pair_mem_product, List.pair_mem_product, List.mk_mem_zipIdx_iff_getElem?, List.mem_range]

theorem deliverPairs_eq_foldl (s : State) (c : CoreId) (u cnt slot : Nat) (engines : List Nat) (vecs : List Vec) (ovr : Bool)
    (pairs : Nat → Vec → Nat → List Pair) :
    s.deliverPairs c u cnt slot engines vecs ovr pairs =
      (cells engines vecs).foldl
        (updateEntry (Cell.key c u cnt slot) fun x y => Entry.takeAll ovr y false (pairs x.1 x.2.1.1 x.2.2)) (s, false) := by
  unfold State.deliverPairs cells
  simp only [List.product, List.foldl_flatMap, List.foldl_map]
  rfl

theorem deliverPairs_frame (s : State) (c : CoreId) (u cnt slot : Nat) (engines : List Nat) (vecs : List Vec) (ovr : Bool)
    (pairs : Nat → Vec → Nat → List Pair) : (s.deliverPairs c u cnt slot engines vecs ovr pairs).1 =
      { s with loft := (s.deliverPairs c u cnt slot engines vecs ovr pairs).1.loft } := by
  rw [deliverPairs_eq_foldl]
  exact updateEntries_frame ..

/-- What pairs do not reach stays. -/
theorem loftAt_deliverPairs_other (s : State) (c : CoreId) (u cnt slot : Nat) (engines : List Nat) (vecs : List Vec) (ovr : Bool)
    (pairs : Nat → Vec → Nat → List Pair) {k : Nat}
    (h : ∀ e m q : Nat, e ∈ engines → m < vecs.length → q < 32 → k ≠ loftKey c u e (loftIndex u cnt slot m q)) :
    (s.deliverPairs c u cnt slot engines vecs ovr pairs).1.loftAt k = s.loftAt k := by
  rw [deliverPairs_eq_foldl]
  refine loftAt_updateEntries_other _ _ _ _ fun ⟨e, (v, m), q⟩ hx => ?_
  obtain ⟨he, hv, hq⟩ := (mem_cells ..).1 hx
  exact h e m q he (List.getElem?_eq_some_iff.1 hv).1 hq

/-- Each entry of a TILE is reached once. -/
theorem cells_keys_nodup {c : CoreId} {u cnt slot n : Nat} {vecs : List Vec} (hu : u < 9) (hslot : slot < 1 <<< slotLog cnt)
    (hm : vecs.length ≤ maxM u cnt) : ((cells (activeEngines n) vecs).map (Cell.key c u cnt slot)).Nodup := by
  refine List.Nodup.map_on ?_ ?_
  · rintro ⟨e, ⟨v, m⟩, q⟩ hx ⟨e', ⟨v', m'⟩, q'⟩ hx' hkey
    obtain ⟨he, hv, hq⟩ := (mem_cells ..).1 hx
    obtain ⟨he', hv', hq'⟩ := (mem_cells ..).1 hx'
    have hlt := fun {m v} (h : vecs[m]? = some v) => (List.getElem?_eq_some_iff.1 h).1.trans_le hm
    obtain ⟨-, -, rfl, hidx⟩ := (loftKey_inj hu hu (lt_of_mem_activeEngines he) (lt_of_mem_activeEngines he')
      (loftIndex_lt hslot (hlt hv) hq) (loftIndex_lt hslot (hlt hv') hq')).1 hkey
    obtain ⟨rfl, rfl⟩ := (loftIndex_inj hq hq').1 hidx
    cases hv.symm.trans hv'
    rfl
  · have hrows : vecs.zipIdx.Nodup := List.Nodup.of_map Prod.snd (by rw [List.zipIdx_map_snd]; exact List.nodup_range')
    exact (List.nodup_range.filter _).product (hrows.product List.nodup_range)

/-- Settles O26: each entry of the slot is reached once, in the order of its pairs. -/
theorem pairsReachTheLoft : Obligations.PairsReachTheLoft := by
  intro s c u cnt slot n vecs ovr pairs hu hslot hm
  have hspec := updateEntries_spec (Cell.key c u cnt slot) (fun x y => Entry.takeAll ovr y false (pairs x.1 x.2.1.1 x.2.2)) _
    (cells_keys_nodup (c := c) (n := n) hu hslot hm) (s, false)
  rw [← deliverPairs_eq_foldl] at hspec
  obtain ⟨hset, hflag⟩ := hspec
  refine ⟨fun e m q v he hv hq => hset (e, (v, m), q) ((mem_cells ..).2 ⟨he, hv, hq⟩),
    fun k => loftAt_deliverPairs_other s c u cnt slot _ vecs ovr pairs, deliverPairs_frame .., hflag.trans ⟨?told, ?tells⟩⟩
  case told =>
    rintro (h | ⟨⟨e, ⟨v, m⟩, q⟩, hx, h⟩)
    · cases h
    · obtain ⟨he, hv, hq⟩ := (mem_cells ..).1 hx
      exact ⟨e, m, q, v, he, hv, hq, h⟩
  case tells =>
    rintro ⟨e, m, q, v, he, hv, hq, h⟩
    exact .inr ⟨(e, (v, m), q), (mem_cells ..).2 ⟨he, hv, hq⟩, h⟩

end Sys2Proof.Machine
end

section
/-! What the shared operations of a completion leave: the lofts, and the core resets under way (R426). The end of a core's reset alone
clears a loft. -/

namespace Sys2Proof.Machine
open Sys2Proof

/-- t has the lofts of s, and a core is under reset in t as it is in s. -/
structure SameLofts (s t : State) : Prop where
  loft : t.loft = s.loft
  resetting : ∀ d, (t.core d).resetting = (s.core d).resetting

namespace SameLofts
variable {s t : State}

theorem refl (s : State) : SameLofts s s := ⟨rfl, fun _ => rfl⟩

theorem trans {u : State} (h : SameLofts s t) (k : SameLofts t u) : SameLofts s u :=
  ⟨k.loft.trans h.loft, fun d => (k.resetting d).trans (h.resetting d)⟩

/-- A change of other fields than lofts and cores. -/
theorem set {u : State} (h : SameLofts s t) (hl : u.loft = t.loft) (hc : u.cores = t.cores) : SameLofts s u :=
  h.trans ⟨hl, fun d => by rw [State.core, hc]; rfl⟩

theorem setFree (h : SameLofts s t) (n : Nat) : SameLofts s { t with free := n } := h.set rfl rfl

theorem foldl {β : Type} {f : State → β → State} (hf : ∀ t b, SameLofts s t → SameLofts s (f t b)) (l : List β)
    (h : SameLofts s t) : SameLofts s (l.foldl f t) := foldl_keeps (SameLofts s) f hf l t h

/-! ## Registers, cores, memory -/

theorem modCore (h : SameLofts s t) (c : CoreId) (f : Core → Core)
    (hf : ∀ k, (f k).resetting = k.resetting := by intro k; rfl) : SameLofts s (t.modCore c f) :=
  h.trans ⟨rfl, fun d => by
    by_cases hd : d = c
    · rw [hd, State.core_modCore, hf]
    · rw [State.core_modCore_other _ _ _ _ hd]⟩

theorem modCtx (h : SameLofts s t) (c : CoreId) (x : CtxId) (f : Ctx → Ctx) : SameLofts s (t.modCtx c x f) := h.modCore c _

theorem setPg (h : SameLofts s t) (p : Page) (o : Nat) (v : W32) : SameLofts s (t.setPg p o v) := h.set rfl rfl

theorem setPg64 (h : SameLofts s t) (p : Page) (o v : Nat) : SameLofts s (t.setPg64 p o v) := h.set rfl rfl

theorem bump (h : SameLofts s t) (p : Page) (i n : Nat) : SameLofts s (t.bump p i n) := by
  rw [t.bump_frame]
  exact h.set rfl rfl

theorem modMem (h : SameLofts s t) (f : Mem → Mem) : SameLofts s (t.modMem f) := h.set rfl rfl

theorem event (h : SameLofts s t) (p : Page) (b : Nat) : SameLofts s (t.event p b) := by
  rw [(Delivered.event t p b).frame]
  exact h.set rfl rfl

theorem record (h : SameLofts s t) (p : Page) (r : Rec) : SameLofts s (t.record p r) := event (t := t.putCode p r) (h.set rfl rfl) p _

theorem recordFault (h : SameLofts s t) (p : Page) (r : Rec) : SameLofts s (t.recordFault p r) :=
  event (t := t.putCode p r) (h.set rfl rfl) p _

theorem stoPut (h : SameLofts s t) (c : CoreId) (off : Nat) (l : List Byte) : SameLofts s (t.stoPut c off l) := h.set rfl rfl

theorem countAccess (h : SameLofts s t) (a n i : Nat) : SameLofts s (t.countAccess a n i) := by
  unfold State.countAccess
  split
  · exact h.bump _ _ _
  · exact h.bump _ _ _
  · exact h

theorem countMerge (h : SameLofts s t) (a n : Nat) : SameLofts s (t.countMerge a n) := by
  unfold State.countMerge
  split
  · exact h.bump _ _ _
  · exact h

theorem pkgWrite (h : SameLofts s t) (k a : Nat) (l : List (Byte × Bool)) : SameLofts s (t.pkgWrite k a l) :=
  ((h.countMerge _ _).modMem _).countAccess _ _ _

theorem coreWrite (h : SameLofts s t) (c : CoreId) (k a : Nat) (l : List (Byte × Bool)) : SameLofts s (t.coreWrite c k a l) := by
  have hw := h.pkgWrite k a l
  unfold State.coreWrite
  split
  · split
    · exact hw
    · exact hw.modCore _ _
  · exact hw

theorem writeSegs (h : SameLofts s t) (c : CoreId) (segs : List OutSeg) : SameLofts s (t.writeSegs c segs) := by
  refine foldl (fun t g ht => foldl (fun t p ht => ?_) _ ht) _ h
  split
  · exact ht.coreWrite _ _ _ _
  · exact ht

/-! ## Sync units and lines -/

theorem putSync (h : SameLofts s t) (c : CoreId) (word : Nat) (w : SyncWord) : SameLofts s (t.putSync c word w) := h.set rfl rfl

theorem retire (h : SameLofts s t) (c : CoreId) (uid : Nat) : SameLofts s (t.retire c uid) := h.modCore _ _

theorem postRemote (h : SameLofts s t) (c : CoreId) (x : CtxId) (g : SigTarget) (n : Nat) (dec : Bool) (job : Option Job) :
    SameLofts s (t.postRemote c x g n dec job).1 :=
  (h.modCore c (fun k => { k with nextPost := (t.core c).nextPost + 1,
                                  posts := k.posts ++ [{ ctx := x, num := (t.core c).nextPost, job := job }] })).set rfl rfl

theorem released {post : State → CtxId → SigTarget → State} (hp : ∀ u x g, SameLofts s u → SameLofts s (post u x g))
    (h : SameLofts s t) (c : CoreId) (w : Wait) : SameLofts s (State.released post t c w) := by
  have hctx : SameLofts s (t.modCtx c w.ctx fun x => { x with hold := .released, pre := x.pre || w.kind == .preWait }) := h.modCtx _ _ _
  unfold State.released
  dsimp only
  split
  · have hret := hctx.retire c w.job.uid
    split
    · split
      · exact hret
      · exact hp _ _ _ hret
    · exact hret
  · exact hctx

theorem releaseLoop (h : SameLofts s t) (c : CoreId) (word n : Nat) : SameLofts s (t.releaseLoop c word n).1 := by
  unfold State.releaseLoop
  split
  · exact h
  · exact h.modCore _ _

theorem syncSignal (f : Nat) (h : SameLofts s t) (c : CoreId) (word n : Nat) (g : W16) : SameLofts s (State.syncSignal f t c word n g) := by
  induction f generalizing t word n g with
  | zero => exact h
  | succ f ih =>
    unfold State.syncSignal
    split
    · exact h
    · refine foldl (fun u w hu => released (fun v x g hv => ?_) hu c w) _ ((((h.releaseLoop _ _ _).putSync _ _ _).bump _ _ _).bump _ _ _)
      split
      · exact ih hv _ _ _
      · exact hv.postRemote _ _ _ _ _ _

theorem signal (h : SameLofts s t) (c : CoreId) (x : CtxId) (g : SigTarget) (n : Nat) (job : Option Job) :
    SameLofts s (t.signal c x g n job) := by
  unfold State.signal
  split
  · exact h.syncSignal _ _ _ _ _
  · exact h.postRemote _ _ _ _ _ _

theorem enqueueWait (h : SameLofts s t) (c : CoreId) (w : Wait) : SameLofts s (t.enqueueWait c w) :=
  ((h.modCore c (fun k => { k with waits := k.waits ++ [w] })).modCtx _ _ _).bump _ _ _

theorem arrive (h : SameLofts s t) (l : LineId) (c : CoreId) (on : Bool) : SameLofts s (t.arrive l c on) := by
  unfold State.arrive
  dsimp only
  split
  · exact h
  · split <;> exact h.setPg64 _ _ _

/-! ## Faults and completions -/

theorem present (h : SameLofts s t) (c : CoreId) : SameLofts s (t.present c) := by
  unfold State.present
  exact (h.writeSegs c _).setFree _

theorem stopCore (h : SameLofts s t) (c : CoreId) (u : Nat) (r : Rec) : SameLofts s (t.stopCore c u r) := by
  unfold State.stopCore
  exact (h.modCore c _).recordFault _ _

theorem retellFault (h : SameLofts s t) (c : CoreId) (u : Nat) (r : Rec) : SameLofts s (t.retellFault c u r) := by
  unfold State.retellFault
  extract_lets p old new v
  have hv : SameLofts s v := (h.modCore c fun k => { k with acFault := some u }).set rfl rfl
  exact (((hv.setPg _ _ _).setPg _ _ _).setPg _ _ _).setPg _ _ _

theorem coreFault (h : SameLofts s t) (c : CoreId) (u : Nat) (r : Rec) : SameLofts s (t.coreFault c u r) := by
  unfold State.coreFault
  split
  · split
    · exact h.retellFault c u r
    · exact h
  · exact (h.present c).stopCore c u r

theorem foundFault (h : SameLofts s t) (c : CoreId) (x : CtxId) (r : Rec) (off : Nat) (w : Option Cmd) :
    SameLofts s (t.foundFault c x r off w) := h.modCtx _ _ _

theorem setPc (h : SameLofts s t) (c : CoreId) (x : CtxId) (v : Nat) : SameLofts s (t.setPc c x v) := h.setPg _ _ _

theorem stepPc (h : SameLofts s t) (c : CoreId) (x : CtxId) (off : Nat) : SameLofts s (t.stepPc c x off) := (h.modCtx _ _ _).setPc _ _ _

theorem complete (h : SameLofts s t) (c : CoreId) (j : Job) : SameLofts s (t.complete c j) := by
  have hret := h.retire c j.uid
  unfold State.complete
  dsimp only
  split
  · split
    · exact hret
    · exact hret.signal _ _ _ _ _
  · exact hret

theorem unholdCtx (h : SameLofts s t) (c : CoreId) (x : CtxId) : SameLofts s (t.unholdCtx c x) := h.modCtx _ _ _

theorem setRerun (h : SameLofts s t) (c : CoreId) (j : Job) (pooled taken fault : Bool) (value : Nat) :
    SameLofts s (t.setRerun c j pooled taken fault value) := (h.setPg _ _ _).setPg _ _ _

theorem rerunSnap (h : SameLofts s t) (c : CoreId) (j : Job) : SameLofts s (t.rerunSnap c j) := by
  unfold State.rerunSnap
  dsimp only
  split
  · exact (h.setPg _ _ _).setPg _ _ _
  · exact h.setPg _ _ _

theorem rerunOutcome {go : State → State} (hgo : ∀ u, SameLofts s u → SameLofts s (go u)) (h : SameLofts s t) (c : CoreId) (j : Job)
    (value : Nat) (pooled : Bool) : SameLofts s (t.rerunOutcome c j value pooled go) := by
  unfold State.rerunOutcome
  dsimp only
  split
  · exact (hgo _ ((h.setRerun _ _ _ _ _ _).stepPc _ _ _)).complete _ _
  · split
    · exact ((h.setRerun _ _ _ _ _ _).retire _ _).foundFault _ _ _ _ _
    · exact (hgo _ ((h.setRerun _ _ _ _ _ _).setPc _ _ _)).complete _ _

theorem rerunRun (h : SameLofts s t) (c : CoreId) (j : Job) : SameLofts s (t.rerunRun c j) := by
  have hsnap := h.rerunSnap c j
  have hgo : ∀ u, SameLofts s u → SameLofts s (u.unholdCtx c j.ctx) := fun u hu => hu.unholdCtx c j.ctx
  unfold State.rerunRun
  dsimp only
  split
  · split
    · exact (hsnap.enqueueWait _ _).arrive _ _ _
    · exact rerunOutcome hgo (hsnap.bump _ _ _) _ _ _ _
  · exact rerunOutcome hgo hsnap _ _ _ _

/-! ## Settling -/

theorem haltDone (h : SameLofts s t) (c : CoreId) (j : Job) (code : W16) : SameLofts s (t.haltDone c j code) :=
  (((h.modCtx c j.ctx fun t => { (t.go .halted) with hold := .free }).setPg _ _ _).event _ _).complete _ _

theorem resetDone (h : SameLofts s t) (c : CoreId) (x : CtxId) : SameLofts s (t.resetDone c x) := (h.modCtx _ _ _).setPg _ _ _

theorem settleCtx (h : SameLofts s t) (c : CoreId) (x : CtxId) : SameLofts s (t.settleCtx c x).1 := by
  have hdrop : SameLofts s (if (t.ctx c x).resetting then t.dropHalted c x else t) := by
    split
    · exact h.modCore _ _
    · exact h
  unfold State.settleCtx
  generalize (if (t.ctx c x).resetting then t.dropHalted c x else t) = u at hdrop ⊢
  dsimp only
  split
  · split
    · exact hdrop
    · exact (hdrop.unholdCtx _ _).complete _ _
  · split
    · exact hdrop.rerunRun _ _
    · exact hdrop
  · split
    · exact hdrop.haltDone _ _ _
    · exact hdrop
  · split
    · exact hdrop.resetDone _ _
    · exact hdrop

theorem startFin (h : SameLofts s t) (c : CoreId) : SameLofts s (t.startFin c).1 := by
  unfold State.startFin
  dsimp only
  split
  · split
    · exact h.modCore _ _
    · exact h
  · exact h

theorem settleOnce (h : SameLofts s t) (c : CoreId) : SameLofts s (t.settleOnce c).1 := by
  unfold State.settleOnce
  refine foldl_keeps (fun a : State × Bool => SameLofts s a.1) _ (fun a x ha => ?_) _ _ (h.startFin c)
  have hctx := ha.settleCtx c x
  generalize a.1.settleCtx c x = p at hctx ⊢
  exact hctx

theorem settleN (f : Nat) (h : SameLofts s t) (c : CoreId) : SameLofts s (State.settleN f t c) := by
  induction f generalizing t with
  | zero => exact h
  | succ f ih =>
    unfold State.settleN
    split
    · exact h
    · have honce := h.settleOnce c
      generalize t.settleOnce c = p at honce ⊢
      dsimp only
      split
      · exact ih honce
      · exact honce

end SameLofts

/-! ## The end of a core reset (R426) -/

@[simp] theorem State.core_modPower (s : State) (f : Power → Power) (c : CoreId) : (s.modPower f).core c = s.core c := rfl

theorem Core.reset_resetting : Core.reset.resetting = false := rfl

theorem coreResetDone_resetting (s : State) (c : CoreId) : ((s.coreResetDone c).core c).resetting = false := by
  have hlines (s : State) : ((((List.finRange 16).foldl (fun s l => s.arrive l c false) s).core c).resetting) = (s.core c).resetting :=
    ((SameLofts.refl s).foldl (fun _ l h => h.arrive l c false) (List.finRange 16)).resetting c
  unfold State.coreResetDone
  dsimp only
  rw [State.core_modPower, hlines, State.core_modCore]
  exact Core.reset_resetting

/-- The lofts stay as they are, or the core's reset ends. -/
def LoftsUntilReset (c : CoreId) (s t : State) : Prop :=
  SameLofts s t ∨ ((s.core c).resetting = true ∧ (t.core c).resetting = false)

theorem LoftsUntilReset.settle (s : State) (c : CoreId) : LoftsUntilReset c s (s.settle c) := by
  unfold State.settle
  split
  next hr =>
    split
    · exact .inr ⟨hr, coreResetDone_resetting s c⟩
    · exact .inl (.refl s)
  next => exact .inl ((SameLofts.refl s).settleN 8 c)

end Sys2Proof.Machine
end

section
/-! The passes of a TILE or STILE (R47, R61, R144, R162): what a pass leaves, what a step of a unit can do. -/

namespace Sys2Proof.Machine
open Sys2Proof

/-! ## A unit's command -/

theorem unitAct_of_up {s : State} {c : CoreId} (hup : s.unitUp c = true) (u : Nat) (f : State → State) : s.unitAct c u f = .next (f s) :=
  congrArg Host.Outcome.next (if_pos hup)

/-! ## The updates of a unit -/

@[simp] theorem Core.unit_modUnit (k : Core) (u : Nat) (f : EngUnit → EngUnit) : (k.modUnit u f).unit u = f (k.unit u) := vmod_same ..

theorem unitUp_modCore (s : State) (c : CoreId) (f : Core → Core) (hf : (f (s.core c)).fault = (s.core c).fault) :
    (s.modCore c f).unitUp c = s.unitUp c := by
  rw [State.unitUp, State.core_modCore, hf]
  rfl

@[simp] theorem unitUp_replaceJob (s : State) (c : CoreId) (u : Nat) (j : Job) : (s.replaceJob c u j).unitUp c = s.unitUp c :=
  unitUp_modCore s c _ rfl

/-- A job in execution as a replacement leaves it. -/
def replacedBy (j t : Job) : Job := if t.uid = j.uid then j else t

theorem exec_replaceJob (s : State) (c : CoreId) (u : Nat) (j : Job) :
    (((s.replaceJob c u j).core c).unit u).exec = ((s.core c).unit u).exec.map (replacedBy j) := by
  rw [State.replaceJob, State.core_modCore, Core.unit_modUnit]
  rfl

theorem unitUp_of_fault {s : State} {c : CoreId} (h : (s.core c).fault = true) : s.unitUp c = false := by
  rw [State.unitUp, h]
  exact Bool.and_false _

theorem core_stopCore_fault (s : State) (c : CoreId) (u : Nat) (r : Rec) : ((s.stopCore c u r).core c).fault = true := by
  unfold State.stopCore State.recordFault
  rw [State.core, State.event_cores, State.putCode_cores]
  exact congrArg Core.fault (State.core_modCore ..)

theorem core_retellFault_fault (s : State) (c : CoreId) (u : Nat) (r : Rec) :
    ((s.retellFault c u r).core c).fault = (s.core c).fault := 
  (congrArg Core.fault (State.core_modCore s c fun k => { k with acFault := some u }) :)

/-- After a core fault a core's units stand still (R220). -/
theorem unitUp_coreFault (s : State) (c : CoreId) (u : Nat) (r : Rec) : (s.coreFault c u r).unitUp c = false := by
  refine unitUp_of_fault ?_
  unfold State.coreFault
  split
  next hf =>
    split
    · rw [core_retellFault_fault, hf]
    · exact hf
  next => exact core_stopCore_fault ..

/-! ## The work of a pass -/

/-- t is s with other slot saturation bits and counters, and other entries of the loft at the keys K. -/
structure Worked (K : Nat → Prop) (s t : State) : Prop where
  frame : t = { s with loft := t.loft, regs := t.regs }
  stat : t.pg .pkg PKG_STAT = s.pg .pkg PKG_STAT
  loftAt : ∀ k, ¬K k → t.loftAt k = s.loftAt k

theorem unitPage_ne_pkg (c : CoreId) (u : Nat) : Page.pkg ≠ unitPage c u := by
  unfold unitPage
  split <;> exact Page.noConfusion

namespace Worked
variable {K : Nat → Prop} {s t : State}

theorem refl (s : State) : Worked K s s := ⟨rfl, rfl, fun _ _ => rfl⟩

theorem trans {v : State} (h : Worked K s t) (k : Worked K t v) : Worked K s v where
  frame := by
    have e := k.frame
    rw [h.frame] at e
    exact e
  stat := k.stat.trans h.stat
  loftAt i hi := (k.loftAt i hi).trans (h.loftAt i hi)

theorem core (h : Worked K s t) (c : CoreId) : t.core c = s.core c := by
  rw [h.frame]
  rfl

theorem unitUp (h : Worked K s t) (c : CoreId) : t.unitUp c = s.unitUp c := by
  have halive : t.alive = s.alive := by rw [h.frame]; rfl
  have hen : t.enabled c = s.enabled c := by rw [h.frame]; rfl
  rw [State.unitUp, State.unitUp, State.coreUp, State.coreUp, State.devReady, State.devReady, State.recovery, State.recovery,
    h.stat, h.core, halive, hen]

theorem setLoft (h : Worked K s t) {k : Nat} (hk : K k) (x : Entry) : Worked K s (t.setLoft k x) :=
  h.trans ⟨rfl, rfl, fun _ hi => State.loftAt_setLoft_other _ _ fun e => hi (e ▸ hk)⟩

theorem setSlotSat (h : Worked K s t) (c : CoreId) (u slot : Nat) (on : Bool) : Worked K s (t.setSlotSat c u slot on) :=
  h.trans ⟨rfl, State.pg_setField_other _ _ _ _ _ _ _ _ (by decide) (by decide) (.inl (unitPage_ne_pkg c u)), fun _ _ => rfl⟩

theorem bump (h : Worked K s t) (c : CoreId) (u : Nat) {i : Nat} (n : Nat) (hi : i < 24) : Worked K s (t.bump (unitPage c u) i n) :=
  h.trans ⟨by rw [t.bump_frame], State.pg_bump _ _ _ _ _ _ hi (by decide) (.inl (unitPage_ne_pkg c u)),
    fun _ _ => by rw [t.bump_frame]; rfl⟩

theorem deliverPairs (h : Worked K s t) {c : CoreId} {u cnt slot : Nat} {engines : List Nat} {vecs : List Vec} {ovr : Bool}
    {pairs : Nat → Vec → Nat → List Pair}
    (hK : ∀ e ∈ engines, ∀ m < vecs.length, ∀ q < 32, K (loftKey c u e (loftIndex u cnt slot m q))) :
    Worked K s (t.deliverPairs c u cnt slot engines vecs ovr pairs).1 :=
  h.trans ⟨by rw [deliverPairs_frame], by rw [deliverPairs_frame]; rfl, fun _ hi =>
    loftAt_deliverPairs_other _ _ _ _ _ _ _ _ _ fun e m q he hm hq hk => hi (hk ▸ hK e he m hm q hq)⟩

theorem fillEntries (h : Worked K s t) {c : CoreId} {u cnt slot : Nat} {engines : List Nat} {m : Nat} {x : Entry}
    (hK : ∀ e ∈ engines, ∀ v < m, ∀ q < 32, K (loftKey c u e (loftIndex u cnt slot v q))) :
    Worked K s (t.fillEntries c u cnt slot engines m x) :=
  List.foldlRecOn _ _ h fun _ h e he => List.foldlRecOn _ _ h fun _ h v hv => List.foldlRecOn _ _ h fun _ h q hq =>
    h.setLoft (hK e he v (List.mem_range.1 hv) q (List.mem_range.1 hq)) _

end Worked

/-- The keys of the entries of a TILE's or STILE's slot. -/
def SlotKey (c : CoreId) (u : Nat) (j : Job) (k : Nat) : Prop :=
  ∃ e < 8, ∃ m < j.m, ∃ q < 32, k = loftKey c u e (loftIndex u j.slots (slotOf j.cmd) m q)

section
variable (s : State) (c : CoreId) (u : Nat) (j : Job)

theorem slotKey_of_active {e m q : Nat} (he : e ∈ activeEngines j.n) (hm : m < j.m) (hq : q < 32) :
    SlotKey c u j (loftKey c u e (loftIndex u j.slots (slotOf j.cmd) m q)) := ⟨e, lt_of_mem_activeEngines he, m, hm, q, hq, rfl⟩

theorem worked_runPass (p : Nat) : Worked (SlotKey c u j) s (s.runPass c u j p).1 := by
  have hK {engines : List Nat} (he : engines ⊆ activeEngines j.n) {n : Nat} (hn : n = j.m) : ∀ e ∈ engines, ∀ m < n, ∀ q < 32,
      SlotKey c u j (loftKey c u e (loftIndex u j.slots (slotOf j.cmd) m q)) :=
    fun e h m hm q hq => slotKey_of_active c u j (he h) (hn ▸ hm) hq
  unfold State.runPass
  extract_lets o b tab vecs act run skip slot ovr gated
  have hpairs := (Worked.refl s).deliverPairs (ovr := ovr) (pairs := fun e v n => tablePairs tab o.fmt o.g p v e n)
    (hK (engines := run) (List.filter_subset_self _) (n := vecs.length) (by simp [vecs]))
  generalize s.deliverPairs c u j.slots slot run vecs ovr _ = d at hpairs ⊢
  have hfill : Worked (SlotKey c u j) s (if ovr then d.1.fillEntries c u j.slots slot skip j.m skipEntry else d.1) := by
    split
    · exact hpairs.fillEntries (hK (List.filter_subset_self _) rfl)
    · exact hpairs
  dsimp only
  generalize (if ovr then d.1.fillEntries c u j.slots slot skip j.m skipEntry else d.1) = t at hfill ⊢
  refine Worked.bump ?_ c u _ (by decide)
  split
  · exact hfill.setSlotSat _ _ _ _
  · exact hfill

theorem worked_runStile : Worked (SlotKey c 8 j) s (s.runStile c j).1 := by
  unfold State.runStile
  extract_lets o n t vecs slot pairs
  have hpairs := (Worked.refl (K := SlotKey c 8 j) s).deliverPairs (u := 8) (cnt := j.slots) (slot := slot) (engines := activeEngines j.n)
    (vecs := vecs) (ovr := !tileAcc j.cmd) (pairs := pairs)
    fun e he m hm q hq => slotKey_of_active c 8 j he (by simpa [vecs] using hm) hq
  generalize s.deliverPairs c 8 j.slots slot _ vecs _ pairs = d at hpairs ⊢
  dsimp only
  split
  · exact hpairs.setSlotSat _ _ _ _
  · exact hpairs

theorem worked_passWork : Worked (SlotKey c u j) s (s.passWork c u j).1 := by
  unfold State.passWork
  split
  · exact .refl s
  · split
    · dsimp only
      split
      · exact .refl s
      · exact (Worked.refl s).fillEntries fun e he m hm q hq => slotKey_of_active c u j he hm hq
    · split
      next hu => exact hu ▸ worked_runStile s c j
      next => exact worked_runPass s c u j j.stage

end

/-! ## A pass ends -/

/-- A TILE or STILE as its next pass leaves it. -/
def State.passedJob (s : State) (c : CoreId) (u : Nat) (j : Job) : Job :=
  { j with stage := j.stage + 1, sat := j.sat || (s.passWork c u j).2,
           packing := if u = 8 ∧ tileRuns j then some (lastStile ((s.core c).stileSet j)) else j.packing }

section
variable {s : State} {c : CoreId} {u : Nat} {j : Job}

theorem consume_of_poison {unit port w : Nat} (hw : s.jobPoison c j = some w) (f : State) :
    s.consume c unit port j f = s.coreFault c unit (poisonRec (opcode j.cmd) j.ctx unit port w false) := by
  rw [State.consume, hw]

theorem consume_of_clean {unit port : Nat} (hw : s.jobPoison c j = none) (f : State) : s.consume c unit port j f = f := by
  rw [State.consume, hw]

theorem stepPass_of_idle (h : ((s.core c).unit u).exec.find? reading = none) : s.stepPass c u = s := by
  simp only [State.stepPass, h]

theorem stepPass_of_down (h : s.unitUp c = false) : s.stepPass c u = s := by
  unfold State.stepPass
  dsimp only
  split
  · rw [if_neg (by simp [h])]
  · rfl

theorem stepPass_of_notReady (h : ((s.core c).unit u).exec.find? reading = some j) (hr : ((s.core c).unit u).passReady j = false) :
    s.stepPass c u = s := by
  simp [State.stepPass, h, hr]

/-- The pass of a job that may run ends: in a core fault, or in its work. -/
theorem stepPass_of_ready (hup : s.unitUp c = true) (h : ((s.core c).unit u).exec.find? reading = some j)
    (hr : ((s.core c).unit u).passReady j = true) :
    (∀ w, s.jobPoison c j = some w → s.stepPass c u = s.coreFault c u (poisonRec (opcode j.cmd) j.ctx u 0 w false)) ∧
      (s.jobPoison c j = none → s.stepPass c u = (s.passWork c u j).1.replaceJob c u (s.passedJob c u j)) := by
  have hend : s.stepPass c u = s.endPass c u j := by simp [State.stepPass, h, hr, hup]
  exact ⟨fun w hw => by rw [hend, State.endPass, consume_of_poison hw], fun hw => by rw [hend, State.endPass, consume_of_clean hw]; rfl⟩

/-- What a step of a unit's passes can do. -/
theorem stepPass_cases (s : State) (c : CoreId) (u : Nat) :
    s.stepPass c u = s ∨ (∃ r, s.stepPass c u = s.coreFault c u r) ∨
      ∃ j ∈ ((s.core c).unit u).exec, s.stepPass c u = (s.passWork c u j).1.replaceJob c u (s.passedJob c u j) := by
  cases h : ((s.core c).unit u).exec.find? reading with
  | none => exact .inl (stepPass_of_idle h)
  | some j =>
    cases hup : s.unitUp c with
    | false => exact .inl (stepPass_of_down hup)
    | true =>
      cases hr : ((s.core c).unit u).passReady j with
      | false => exact .inl (stepPass_of_notReady h hr)
      | true =>
        obtain ⟨hfault, hwork⟩ := stepPass_of_ready hup h hr
        cases hw : s.jobPoison c j with
        | some w => exact .inr (.inl ⟨_, hfault w hw⟩)
        | none => exact .inr (.inr ⟨j, List.mem_of_find?_eq_some h, hwork hw⟩)

end

end Sys2Proof.Machine
end

section
/-! Sweeps, TILEs, STILEs and DRAINs start (R45, R47, R122, R143, R258). -/

namespace Sys2Proof.Machine
open Sys2Proof

section
variable {s : State} {c : CoreId} {u : Nat} {j : Job} {r : List Job}

/-! ## Buffers give way (R47) -/

theorem freeBuf_of_free {b : Nat} (h : ((s.core c).unit u).bufFree j b = true) : s.freeBuf c u j b = s := by
  simp only [State.freeBuf, h, if_true]

theorem freeBuf_of_released {b : Nat} (h : ((s.core c).unit u).bufFree j b = false)
    (hnext : (((s.stepPass c u).core c).unit u).bufFree j b = true) : s.freeBuf c u j b = s.stepPass c u := by
  simp only [State.freeBuf, h, hnext, if_true, Bool.false_eq_true, if_false]

/-! ## Sweeps (R45) -/

theorem sweepStart_of_queued (hexec : ((s.core c).unit u).exec.find? isBuild = none) (hq : ((s.core c).unit u).queue = j :: r)
    (hb : isBuild j = true) : s.sweepStart c u = s.firstSweep c u j := by
  simp only [State.sweepStart, hexec, hq, hb, if_true]

theorem firstSweep_of_free {e : State} (hfree : s.freeBuf c u j (buildBuf j.cmd) = e) (hup : e.unitUp c = true)
    (h : ((e.core c).unit u).bufFree j (buildBuf j.cmd) = true) :
    s.firstSweep c u j = e.startHead c u { j with stage := if twoSweeps j then 1 else 3 } := by
  simp only [State.firstSweep, hfree, hup, h, Bool.and_self, if_true]

theorem sweepStart_of_running (hexec : ((s.core c).unit u).exec.find? isBuild = some j) :
    s.sweepStart c u = if j.stage = 1 then s.consume c u 1 j ((s.setTable c u (buildBuf j.cmd) (s.sweepTable c j .low)).highSweep c u j)
      else if j.stage = 2 then s.highSweep c u j else s := by
  simp only [State.sweepStart, hexec]

theorem highSweep_of_free (hup : s.unitUp c = true) (h : ((s.core c).unit u).bufFree j (1 - buildBuf j.cmd) = true) :
    s.highSweep c u j = s.replaceJob c u { j with stage := 3 } := by
  simp only [State.highSweep, freeBuf_of_free h, hup, h, Bool.not_true, Bool.false_eq_true, if_false, if_true]

theorem highSweep_eq (s : State) (c : CoreId) (u : Nat) (j : Job) : s.highSweep c u j =
    if (s.freeBuf c u j (1 - buildBuf j.cmd)).unitUp c then (s.freeBuf c u j (1 - buildBuf j.cmd)).replaceJob c u
        { j with stage := if (((s.freeBuf c u j (1 - buildBuf j.cmd)).core c).unit u).bufFree j (1 - buildBuf j.cmd) then 3 else 2 }
      else s.freeBuf c u j (1 - buildBuf j.cmd) := by
  unfold State.highSweep
  generalize s.freeBuf c u j (1 - buildBuf j.cmd) = e
  dsimp only
  cases e.unitUp c <;> rfl

/-! ## TILEs and STILEs (R64, R122, R143) -/

/-- What may start has nothing in its way. -/
theorem clearWay_of_canStart (h : (s.core c).canStart u j = true) : s.clearWay c u j = s := by
  simp only [Core.canStart, Core.slotFree, Bool.and_eq_true, Bool.or_eq_true, Bool.not_eq_true', List.any_append, Bool.or_eq_false_iff] at h
  obtain ⟨⟨⟨-, hslot⟩, hread⟩, -⟩ := h
  have hidle : s.stepPass c u = s := stepPass_of_idle (List.find?_eq_none.2 fun x hx => by simpa using List.any_eq_false.1 hread x hx)
  unfold State.clearWay
  dsimp only
  rw [hidle, hidle, if_neg]
  rintro hheld
  simp only [Bool.and_eq_true, Bool.not_eq_true'] at hheld
  obtain ⟨⟨-, hnoop⟩, hdrain⟩ := hheld
  obtain hno | ⟨-, hno⟩ := hslot
  · rw [hno] at hnoop; cases hnoop
  · rw [hno] at hdrain; cases hdrain

theorem isTile_guardOf (s : State) (c : CoreId) (j : Job) : isTile (s.guardOf c j) = isTile j := by
  unfold State.guardOf
  split <;> rfl

theorem tileBegin_of_held (hq : ((s.core c).unit u).queue = j :: r)
    (h : (s.guardOf c j).guard = .waiting ∨ ((s.core c).unit u).setReady (s.guardOf c j) = false) : s.tileBegin c u = s := by
  simp only [State.tileBegin, hq]
  rw [if_neg]
  obtain h | h := h <;> simp [h]

theorem tileBegin_of_set (hq : ((s.core c).unit u).queue = j :: r) (hj : isTile j = true) (hg : (s.guardOf c j).guard ≠ .waiting)
    (hset : ((s.core c).unit u).setReady (s.guardOf c j) = true) :
    s.tileBegin c u =
      if (s.clearWay c u (s.guardOf c j)).unitUp c && ((s.clearWay c u (s.guardOf c j)).core c).canStart u (s.guardOf c j) then
        (s.clearWay c u (s.guardOf c j)).startHead c u (s.guardOf c j)
      else s.clearWay c u (s.guardOf c j) := by
  simp only [State.tileBegin, hq]
  rw [if_pos]
  simp [isTile_guardOf, hj, hg, hset]

theorem tileBegin_of_canStart (hup : s.unitUp c = true) (hq : ((s.core c).unit u).queue = j :: r) (hj : isTile j = true)
    (h : (s.core c).canStart u (s.guardOf c j) = true) : s.tileBegin c u = s.startHead c u (s.guardOf c j) := by
  have hway := clearWay_of_canStart h
  have hstart := h
  simp only [Core.canStart, Bool.and_eq_true, bne_iff_ne] at h
  obtain ⟨⟨⟨hset, -⟩, -⟩, hg⟩ := h
  rw [tileBegin_of_set hq hj hg hset, hway, hup, hstart]
  rfl

/-! ## DRAINs (R122, R125) -/

theorem drainBegin_of_queued (hexec : ((s.core c).unit 9).exec = []) (hq : ((s.core c).unit 9).queue = j :: r) (hj : isDrain j = true) :
    s.drainBegin c = if (s.core c).drainReady j then
        (if drainNoop j ∨ cf j.cmd 1 9 2 = 2 then s.startHead c 9 j
         else if s.slotSat c (engUnit j.cmd) (slotOf j.cmd) then
          ((s.startHead c 9 j).setSlotSat c (engUnit j.cmd) (slotOf j.cmd) false).event (.ctx c j.ctx) EVT_ACCSAT
         else s.startHead c 9 j)
      else s := by
  simp only [State.drainBegin, hexec, hq, hj, Bool.true_and]
  rfl

end

/-- The rows that start a unit's TILE or STILE. -/
theorem exec_tileStarts {c : CoreId} {e : Nat × Instr}
    (he : e ∈ (8, Instr.stileStart c) :: (List.finRange 8).map fun (g : GrpId) => (g.val, Instr.tileStart c g)) {s : State}
    (hup : s.unitUp c = true) : exec e.2 s = .next (s.tileBegin c e.1) := by
  rcases List.mem_cons.1 he with rfl | he
  · exact unitAct_of_up hup 8 fun s => s.tileBegin c 8
  · obtain ⟨g, -, rfl⟩ := List.mem_map.1 he
    exact unitAct_of_up hup g.val fun s => s.tileBegin c g.val

/-- Settles O24: each start by the interlock that lets it. -/
theorem unitStarts : Obligations.UnitStarts := by
  intro c s hup
  have hsweep (u : UnitId) : exec (.tbuildSweepStart c u) s = .next (s.sweepStart c u.val) :=
    unitAct_of_up hup u.val fun s => s.sweepStart c u.val
  have hdrain : exec (.drainStart c) s = .next (s.drainBegin c) := unitAct_of_up hup 9 fun s => s.drainBegin c
  refine ⟨fun u j r hexec hq hb => ⟨fun hfree => ?first, fun hheld heup hfree => ?released⟩,
    fun u j hexec => ⟨fun hst w hw => ?poison, fun hst hw => ?low, fun hst => ?high, fun hfree => ?free⟩,
    fun e he j r hq hj => ⟨fun hheld => ?held, fun hcan => ?tile, fun hg hset => ?way⟩,
    fun j r hexec hq hj => ⟨fun hready => ?early, fun hready hnoop hform hsat => ?sat, fun hready hplain => ?plain⟩⟩
  case first => rw [hsweep, sweepStart_of_queued hexec hq hb, firstSweep_of_free (freeBuf_of_free hfree) hup hfree]
  case released => rw [hsweep, sweepStart_of_queued hexec hq hb, firstSweep_of_free (freeBuf_of_released hheld hfree) heup hfree]
  case poison => rw [hsweep, sweepStart_of_running hexec, if_pos hst, consume_of_poison hw]
  case low => rw [hsweep, sweepStart_of_running hexec, if_pos hst, consume_of_clean hw, highSweep_eq]
  case high => rw [hsweep, sweepStart_of_running hexec, hst, if_neg (by decide), if_pos rfl, highSweep_eq]
  case free => exact (highSweep_eq s c u.val j).symm.trans (highSweep_of_free hup hfree)
  case held => rw [exec_tileStarts he hup, tileBegin_of_held hq hheld]
  case tile => rw [exec_tileStarts he hup, tileBegin_of_canStart hup hq hj hcan]; rfl
  case way => rw [exec_tileStarts he hup, tileBegin_of_set hq hj hg hset]; rfl
  case early => rw [hdrain, drainBegin_of_queued hexec hq hj, hready]; rfl
  case sat =>
    rw [hdrain, drainBegin_of_queued hexec hq hj, if_pos hready, if_neg (by simp [hnoop, hform]), if_pos hsat]
  case plain =>
    rw [hdrain, drainBegin_of_queued hexec hq hj, if_pos hready]
    obtain h | h | h := hplain <;> simp [h]

end Sys2Proof.Machine
end

section
/-! TBUILD, TILE and STILE complete (R45, R47, R61, R142, R144, R162). -/

namespace Sys2Proof.Machine
open Sys2Proof

section
variable {s : State} {c : CoreId} {u : Nat} {j : Job}

/-! ## TBUILD -/

theorem buildDone_of_last (hexec : ((s.core c).unit u).exec.find? isBuild = some j) (hst : j.stage = 3) :
    s.buildDone c u = s.consume c u 1 j
      (if u = 8 then
        (s.modCore c fun k =>
          { k with slotSets := k.slotSets.set (Fin.ofNat 2 (buildBuf j.cmd))
                     (buildSlotSet s.mem c (cf j.cmd 1 0 21) (cf j.cmd 2 0 16) (buildW j.cmd)) }).finishJob c u j
      else
        (((if twoSweeps j then s.setTable c u (1 - buildBuf j.cmd) (s.sweepTable c j .high)
          else s.setTable c u (buildBuf j.cmd) (s.sweepTable c j .whole)).captureSummaries c u j).bump
            (unitPage c u) 1 1).finishJob c u j) := by
  simp only [State.buildDone, hexec, hst, if_true]

/-! ## Which job steps -/

theorem isTile_of_reading (h : reading j = true) : isTile j = true := (Bool.and_eq_true_iff.1 h).1

/-- The oldest TILE or STILE, as long as it reads, is the one whose pass ends next. -/
theorem find?_reading_of_oldest {l : List Job} (h : l.find? isTile = some j) (hr : reading j = true) : l.find? reading = some j := by
  obtain ⟨-, as, bs, rfl, has⟩ := List.find?_eq_some_iff_append.1 h
  refine List.find?_eq_some_iff_append.2 ⟨hr, as, bs, rfl, fun a ha => ?_⟩
  have hnot := has a ha
  rw [Bool.not_eq_true'] at hnot ⊢
  exact Bool.eq_false_iff.2 fun hra => by rw [isTile_of_reading hra] at hnot; cases hnot

/-- A replaced TILE or STILE is the oldest where the one it replaces was. -/
theorem find?_isTile_replaced {l : List Job} {k : Job} (h : l.find? isTile = some j) (huid : k.uid = j.uid) (hk : isTile k = true) :
    (l.map (replacedBy k)).find? isTile = some k := by
  induction l with
  | nil => cases h
  | cons a r ih =>
    rw [List.map_cons, List.find?_cons]
    by_cases hu : a.uid = k.uid
    · rw [replacedBy, if_pos hu, hk]
    · rw [replacedBy, if_neg hu]
      rw [List.find?_cons] at h
      cases ha : isTile a with
      | true =>
        rw [ha] at h
        cases h
        exact absurd huid.symm hu
      | false =>
        rw [ha] at h
        exact ih h

theorem stepOldest_of_reading (h : ((s.core c).unit u).exec.find? isTile = some j) (hr : reading j = true) :
    s.stepOldest c u = s.stepPass c u := by
  simp only [State.stepOldest, h, Option.any_some, hr, if_true]

theorem stepOldest_of_over (h : ((s.core c).unit u).exec.find? isTile = some j) (hr : reading j = false) : s.stepOldest c u = s := by
  simp only [State.stepOldest, h, Option.any_some, hr, Bool.false_eq_true, if_false]

theorem stepOldest_of_fixed (h : s.stepPass c u = s) : s.stepOldest c u = s := by
  rw [State.stepOldest, h, ite_self]

/-! ## Completion -/

/-- The oldest TILE or STILE completes if its passes are over. -/
def State.completeOldest (s : State) (c : CoreId) (u : Nat) : State :=
  match ((s.core c).unit u).exec.find? isTile with
  | some j => if s.unitUp c && !reading j then s.tileOver c u j else s
  | none => s

theorem tileDone_eq (s : State) (c : CoreId) (u : Nat) : s.tileDone c u = ((s.stepOldest c u).stepOldest c u).completeOldest c u := by
  unfold State.tileDone
  generalize (s.stepOldest c u).stepOldest c u = t
  rfl

theorem completeOldest_of_down (h : s.unitUp c = false) : s.completeOldest c u = s := by
  unfold State.completeOldest
  split
  · rw [if_neg (by simp [h])]
  · rfl

theorem completeOldest_of_reading (h : ((s.core c).unit u).exec.find? isTile = some j) (hr : reading j = true) :
    s.completeOldest c u = s := by
  simp [State.completeOldest, h, hr]

theorem completeOldest_of_over (hup : s.unitUp c = true) (h : ((s.core c).unit u).exec.find? isTile = some j) (hr : reading j = false) :
    s.completeOldest c u = s.tileOver c u j := by
  simp [State.completeOldest, h, hr, hup]

/-- Once no pass is left the oldest TILE or STILE completes. -/
theorem tileDone_of_over (hup : s.unitUp c = true) (h : ((s.core c).unit u).exec.find? isTile = some j) (hr : reading j = false) :
    s.tileDone c u = s.tileOver c u j := by
  rw [tileDone_eq, stepOldest_of_over h hr, stepOldest_of_over h hr, completeOldest_of_over hup h hr]

/-- Nothing completes while a pass is left that may not run. -/
theorem tileDone_of_notReady (h : ((s.core c).unit u).exec.find? isTile = some j) (hr : reading j = true)
    (hpass : ((s.core c).unit u).passReady j = false) : s.tileDone c u = s := by
  have hstep : s.stepOldest c u = s := stepOldest_of_fixed (stepPass_of_notReady (find?_reading_of_oldest h hr) hpass)
  rw [tileDone_eq, hstep, hstep, completeOldest_of_reading h hr]

/-- A core fault of the pass is the end (R220). -/
theorem tileDone_of_fault (h : ((s.core c).unit u).exec.find? isTile = some j) (hr : reading j = true)
    (hdown : (s.stepPass c u).unitUp c = false) : s.tileDone c u = s.stepPass c u := by
  rw [tileDone_eq, stepOldest_of_reading h hr, stepOldest_of_fixed (stepPass_of_down hdown), completeOldest_of_down hdown]

/-! ## After a pass -/

theorem reading_passedJob (hr : reading j = true) : reading (s.passedJob c u j) = decide (j.stage + 1 < passes j) :=
  congrArg (· && decide (j.stage + 1 < passes j)) (isTile_of_reading hr)

/-- After its pass the oldest TILE or STILE is still the oldest, and its unit still acts. -/
theorem stepPass_of_clean (hup : s.unitUp c = true) (h : ((s.core c).unit u).exec.find? isTile = some j) (hr : reading j = true)
    (hpass : ((s.core c).unit u).passReady j = true) (hw : s.jobPoison c j = none) :
    s.stepPass c u = (s.passWork c u j).1.replaceJob c u (s.passedJob c u j) ∧ (s.stepPass c u).unitUp c = true ∧
      (((s.stepPass c u).core c).unit u).exec.find? isTile = some (s.passedJob c u j) := by
  have hstep := (stepPass_of_ready hup (find?_reading_of_oldest h hr) hpass).2 hw
  have hwork := worked_passWork s c u j
  refine ⟨hstep, ?_, ?_⟩
  · rw [hstep, unitUp_replaceJob, hwork.unitUp, hup]
  · rw [hstep, exec_replaceJob, hwork.core]
    exact find?_isTile_replaced (k := s.passedJob c u j) h rfl (isTile_of_reading (j := j) hr)

/-- The last pass of a TILE or STILE ends and it completes. -/
theorem tileDone_of_lastPass (hup : s.unitUp c = true) (h : ((s.core c).unit u).exec.find? isTile = some j) (hr : reading j = true)
    (hpass : ((s.core c).unit u).passReady j = true) (hw : s.jobPoison c j = none) (hlast : j.stage + 1 = passes j) :
    s.tileDone c u = (s.stepPass c u).tileOver c u (s.passedJob c u j) := by
  obtain ⟨-, htup, ht⟩ := stepPass_of_clean hup h hr hpass hw
  have hover : reading (s.passedJob c u j) = false := by rw [reading_passedJob hr, hlast]; simp
  rw [tileDone_eq, stepOldest_of_reading h hr, stepOldest_of_over ht hover, completeOldest_of_over htup ht hover]

/-- Before its last pass a third step would change nothing. -/
theorem stepOldest_idem_of_lastPass (hup : s.unitUp c = true) (h : ((s.core c).unit u).exec.find? isTile = some j) (hr : reading j = true)
    (hlast : j.stage + 1 = passes j) : (s.stepOldest c u).stepOldest c u = s.stepOldest c u := by
  rw [stepOldest_of_reading h hr]
  cases hpass : ((s.core c).unit u).passReady j with
  | false =>
    rw [stepPass_of_notReady (find?_reading_of_oldest h hr) hpass]
    exact stepOldest_of_fixed (stepPass_of_notReady (find?_reading_of_oldest h hr) hpass)
  | true =>
    cases hw : s.jobPoison c j with
    | some w =>
      rw [(stepPass_of_ready hup (find?_reading_of_oldest h hr) hpass).1 w hw]
      exact stepOldest_of_fixed (stepPass_of_down (unitUp_coreFault ..))
    | none =>
      obtain ⟨-, -, ht⟩ := stepPass_of_clean hup h hr hpass hw
      exact stepOldest_of_over ht (by rw [reading_passedJob hr, hlast]; simp)

/-- With two passes left the first ends, and the rest is a completion of its own. -/
theorem tileDone_of_firstPass (hup : s.unitUp c = true) (h : ((s.core c).unit u).exec.find? isTile = some j) (hr : reading j = true)
    (hpass : ((s.core c).unit u).passReady j = true) (hw : s.jobPoison c j = none) (hlast : j.stage + 2 = passes j) :
    s.tileDone c u = (s.stepPass c u).tileDone c u := by
  obtain ⟨-, htup, ht⟩ := stepPass_of_clean hup h hr hpass hw
  have hreads : reading (s.passedJob c u j) = true := by
    rw [reading_passedJob hr]
    exact decide_eq_true (by omega)
  rw [tileDone_eq, tileDone_eq, stepOldest_of_reading h hr, stepOldest_idem_of_lastPass htup ht hreads hlast]

end

/-- The rows that complete a unit's TILE or STILE. -/
theorem exec_tileCompletes {c : CoreId} {e : Nat × Instr}
    (he : e ∈ (8, Instr.stileComplete c) :: (List.finRange 8).map fun (g : GrpId) => (g.val, Instr.tileComplete c g)) {s : State}
    (hup : s.unitUp c = true) : exec e.2 s = .next (s.tileDone c e.1) := by
  rcases List.mem_cons.1 he with rfl | he
  · exact unitAct_of_up hup 8 fun s => s.tileDone c 8
  · obtain ⟨g, -, rfl⟩ := List.mem_map.1 he
    exact unitAct_of_up hup g.val fun s => s.tileDone c g.val

theorem tileRuns_iff (j : Job) : tileRuns j = true ↔ tileNoop j = false ∧ j.k ≠ 0 := by simp [tileRuns]

/-- Settles O25: TBUILDs by what they build, passes by whether they may run, completions by the passes left. -/
theorem engineCompletes : Obligations.EngineCompletes := by
  refine ⟨fun c u j s hup hexec hst => ?build, fun c u j s hup hexec => ?pass, fun c s hup e he j hj => ?complete⟩
  case build =>
    have hrow : exec (.tbuildComplete c u) s = .next (s.buildDone c u.val) := unitAct_of_up hup u.val fun s => s.buildDone c u.val
    refine ⟨fun w hw => ?_, fun hw hu => ?_, fun hw hu => ?_⟩ <;> rw [hrow, buildDone_of_last hexec hst]
    · rw [consume_of_poison hw]
    · rw [consume_of_clean hw, if_pos hu, hu]
    · rw [consume_of_clean hw, if_neg hu]
  case pass =>
    refine ⟨stepPass_of_notReady hexec, fun hr => ?_⟩
    obtain ⟨hfault, hwork⟩ := stepPass_of_ready hup hexec hr
    refine ⟨hfault, fun hw => (hwork hw).trans ?_⟩
    simp only [State.passedJob, tileRuns_iff]
    rfl
  case complete =>
    rw [exec_tileCompletes he hup]
    refine ⟨fun hr => ?_, fun hr hpass => ?_, fun hr hpass => ⟨fun w hw => ?_, fun hw hlast => ?_, fun hw hlast => ?_⟩⟩
    · rw [tileDone_of_over hup hj hr]; rfl
    · rw [tileDone_of_notReady hj hr hpass]
    · refine congrArg _ (tileDone_of_fault hj hr ?_)
      rw [(stepPass_of_ready hup (find?_reading_of_oldest hj hr) hpass).1 w hw]
      exact unitUp_coreFault ..
    · rw [tileDone_of_lastPass hup hj hr hpass hw hlast]
      simp only [State.passedJob, tileRuns_iff]
      rfl
    · rw [tileDone_of_firstPass hup hj hr hpass hw hlast, exec_tileCompletes he (stepPass_of_clean hup hj hr hpass hw).2.1]

end Sys2Proof.Machine
end

section
/-! Completions and the loft (R61, R120, R125): only TILEs, STILEs and restoring DRAINs change entries, and only of their own unit. -/

namespace Sys2Proof.Machine
open Sys2Proof

/-! ## The end of a core reset -/

namespace LoftsUntilReset
variable {c : CoreId} {s t u : State}

theorem of_same (h : SameLofts s t) : LoftsUntilReset c s t := .inl h

theorem after (h : SameLofts s t) (k : LoftsUntilReset c t u) : LoftsUntilReset c s u := by
  obtain k | ⟨hon, hoff⟩ := k
  · exact .inl (h.trans k)
  · exact .inr ⟨h.resetting c ▸ hon, hoff⟩

/-- Unless the core's reset ended, the lofts are the same. -/
theorem loft (h : LoftsUntilReset c s t) (hr : (t.core c).resetting = (s.core c).resetting) : t.loft = s.loft := by
  obtain h | ⟨hon, hoff⟩ := h
  · exact h.loft
  · rw [hr, hon] at hoff
    cases hoff

theorem finishJob (h : SameLofts s t) (c : CoreId) (u : Nat) (j : Job) : LoftsUntilReset c s (t.finishJob c u j) :=
  .after ((h.modCore c (fun k => k.modUnit u fun t => { t with exec := t.exec.filter fun e => e.uid != j.uid })).complete c j)
    (.settle ..)

theorem finDone (h : SameLofts s t) (c : CoreId) (j : Job) : LoftsUntilReset c s (t.finDone c j) := finishJob (h.bump _ _ _) c 9 j

theorem consume (h : SameLofts s t) (unit port : Nat) (j : Job) {f : State} (hf : LoftsUntilReset c s f) :
    LoftsUntilReset c s (t.consume c unit port j f) := by
  unfold State.consume
  split
  · exact .inl (h.coreFault ..)
  · exact hf

end LoftsUntilReset

/-! ## TBUILD and the finishing unit -/

namespace SameLofts
variable {s t : State}

theorem setTable (h : SameLofts s t) (c : CoreId) (g b : Nat) (x : TableSet) : SameLofts s (t.setTable c g b x) :=
  h.modCore _ _

theorem captureSummaries (h : SameLofts s t) (c : CoreId) (u : Nat) (j : Job) : SameLofts s (t.captureSummaries c u j) := by
  unfold State.captureSummaries
  split
  · exact h.stoPut _ _ _
  · exact h

theorem replaceJob (h : SameLofts s t) (c : CoreId) (u : Nat) (j : Job) : SameLofts s (t.replaceJob c u j) := h.modCore _ _

theorem writeOut (h : SameLofts s t) (c : CoreId) (j : Job) (o : OutSet) : SameLofts s (t.writeOut c j o) := by
  have hclips : SameLofts s ((t.writeSegs c o.segs).countClips c j.desc.tag o.clips) := by
    unfold State.countClips
    split
    · exact h.writeSegs _ _
    · exact (h.writeSegs _ _).setPg _ _ _
  unfold State.writeOut State.crateFull
  split
  · exact hclips.record _ _
  · exact hclips

theorem optMonitor (h : SameLofts s t) (c : CoreId) (j : Job) (p : OptPar) (outs : List OptOut) :
    SameLofts s (t.optMonitor c j p outs) := by
  unfold State.optMonitor
  extract_lets n old us ws usq wsq skip clip ratio out t1 t2 t3 t4 t5
  have hmon : SameLofts s t5 := ((((h.modCore _ _).setPg _ _ _).setPg _ _ _).setPg _ _ _).setPg _ _ _
  split
  · exact hmon.record _ _
  · exact hmon

end SameLofts

theorem loftsUntilReset_buildDone (s : State) (c : CoreId) (u : Nat) : LoftsUntilReset c s (s.buildDone c u) := by
  have hs := SameLofts.refl s
  unfold State.buildDone
  dsimp only
  split
  next j _ =>
    split
    · refine .consume hs _ _ _ ?_
      split
      · exact .finishJob (hs.modCore _ _) _ _ _
      · refine .finishJob (SameLofts.bump (SameLofts.captureSummaries ?_ _ _ _) _ _ _) _ _ _
        split <;> exact hs.setTable _ _ _ _
    · exact .of_same hs
  next => exact .of_same hs

theorem loftsUntilReset_finEnd (s : State) (c : CoreId) : LoftsUntilReset c s (s.finEnd c) := by
  have hs := SameLofts.refl s
  unfold State.finEnd
  split
  · split
    · refine .consume hs _ _ _ ?_
      split
      · exact .finDone hs _ _
      · exact .finDone ((hs.writeOut _ _ _).writeSegs _ _) _ _
    · exact .of_same hs
  · exact .of_same hs

theorem loftsUntilReset_optEnd (s : State) (c : CoreId) : LoftsUntilReset c s (s.optEnd c) := by
  have hs := SameLofts.refl s
  unfold State.optEnd
  split
  · split
    · refine .consume hs _ _ _ ?_
      split
      · exact .finDone hs _ _
      · exact .finDone (((hs.writeSegs _ _).optMonitor _ _ _ _).writeOut _ _ _) _ _
    · exact .of_same hs
  · exact .of_same hs

/-- A DRAIN that does not restore reads its slot (R125). -/
theorem sameLofts_drainRead {s : State} {c : CoreId} (h : ∀ j ∈ ((s.core c).unit 9).exec, cf j.cmd 1 9 2 ≠ 2) :
    SameLofts s (s.drainRead c) := by
  have hs := SameLofts.refl s
  unfold State.drainRead
  split
  next j r hexec =>
    split
    · have hform : cf j.cmd 1 9 2 ≠ 2 := h j (hexec ▸ List.mem_cons_self)
      dsimp only
      split
      · exact hs.replaceJob _ _ _
      · exact (hs.modCore _ _).replaceJob _ _ _
    · exact hs
  next => exact hs

theorem loftsUntilReset_drainEnd {s : State} {c : CoreId} (h : ∀ j ∈ ((s.core c).unit 9).exec, cf j.cmd 1 9 2 ≠ 2) :
    LoftsUntilReset c s (s.drainEnd c) := by
  have hread := sameLofts_drainRead h
  unfold State.drainEnd
  generalize s.drainRead c = t at hread ⊢
  dsimp only
  split
  next j r _ =>
    split
    · have hends := LoftsUntilReset.finDone ((hread.writeOut c j (t.drainOut c j)).modCore c (fun k => { k with drained := [] })) c j
      split
      · exact hends
      · exact .consume hread _ _ _ hends
    · exact .of_same hread
  next => exact .of_same hread

/-! ## TILE and STILE -/

/-- The slot of a job lies within the loft of its unit (R115, R117). -/
def SlotFits (u : Nat) (j : Job) : Prop := slotOf j.cmd < 1 <<< slotLog j.slots ∧ j.m ≤ maxM u j.slots

/-- No entry of another unit lies in the slot. -/
theorem not_slotKey {c d : CoreId} {u v e i : Nat} {j : Job} (hu : u < 9) (hv : v < 9) (he : e < 8) (hi : i < 8192) (hj : SlotFits u j)
    (hne : d ≠ c ∨ v ≠ u) : ¬SlotKey c u j (loftKey d v e i) := by
  rintro ⟨f, hf, m, hm, q, hq, hkey⟩
  obtain ⟨hslot, hmax⟩ := hj
  obtain ⟨hd, hv, -, -⟩ := (loftKey_inj hv hu he hf hi (loftIndex_lt hslot (hm.trans_le hmax) hq)).1 hkey
  obtain h | h := hne
  · exact h hd
  · exact h hv

section
variable {s : State} {c : CoreId} {u k : Nat}

/-- What the passes of unit u that fit leave: entry k, the core resets, and that the passes fit. -/
structure PassKept (c : CoreId) (u k : Nat) (s t : State) : Prop where
  loftAt : t.loftAt k = s.loftAt k
  resetting : (t.core c).resetting = (s.core c).resetting
  down_or_fits : t.unitUp c = false ∨ ∀ j ∈ ((t.core c).unit u).exec, ¬SlotKey c u j k

theorem SameLofts.loftAt_eq {s t : State} (h : SameLofts s t) (k : Nat) : t.loftAt k = s.loftAt k := by
  rw [State.loftAt, h.loft]
  rfl

theorem passKept_stepPass (h : ∀ j ∈ ((s.core c).unit u).exec, ¬SlotKey c u j k) : PassKept c u k s (s.stepPass c u) := by
  obtain hstep | ⟨r, hstep⟩ | ⟨j, hj, hstep⟩ := stepPass_cases s c u <;> rw [hstep]
  · exact ⟨rfl, rfl, .inr h⟩
  · have hs := (SameLofts.refl s).coreFault c u r
    exact ⟨hs.loftAt_eq k, hs.resetting c, .inl (unitUp_coreFault ..)⟩
  · have hwork := worked_passWork s c u j
    have hs := (SameLofts.refl (s.passWork c u j).1).replaceJob c u (s.passedJob c u j)
    refine ⟨(hs.loftAt_eq k).trans (hwork.loftAt k (h j hj)), (hs.resetting c).trans (by rw [hwork.core]), .inr ?_⟩
    rw [exec_replaceJob, hwork.core]
    rintro t ht
    obtain ⟨i, hi, rfl⟩ := List.mem_map.1 ht
    unfold replacedBy
    split
    · exact h j hj
    · exact h i hi

theorem passKept_stepOldest (h : s.unitUp c = false ∨ ∀ j ∈ ((s.core c).unit u).exec, ¬SlotKey c u j k) :
    PassKept c u k s (s.stepOldest c u) := by
  unfold State.stepOldest
  split
  · obtain h | h := h
    · rw [stepPass_of_down h]
      exact ⟨rfl, rfl, .inl h⟩
    · exact passKept_stepPass h
  · exact ⟨rfl, rfl, h⟩

theorem loftsUntilReset_tileOver (s : State) (c : CoreId) (u : Nat) (j : Job) : LoftsUntilReset c s (s.tileOver c u j) := by
  have hs := SameLofts.refl s
  have hshow : SameLofts s (s.showPacking c j) := by
    unfold State.showPacking
    split
    · exact (hs.bump _ _ _).setPg _ _ _
    · exact hs
  exact .finishJob ((hshow.bump _ _ _).bump _ _ _) c u j

theorem loftsUntilReset_completeOldest (s : State) (c : CoreId) (u : Nat) : LoftsUntilReset c s (s.completeOldest c u) := by
  unfold State.completeOldest
  split
  · split
    · exact loftsUntilReset_tileOver ..
    · exact .of_same (.refl s)
  · exact .of_same (.refl s)

/-- A completion leaves the entries outside the slots of the TILEs in execution, unless it ends the core's reset. -/
theorem loftAt_tileDone (h : ∀ j ∈ ((s.core c).unit u).exec, ¬SlotKey c u j k)
    (hr : ((s.tileDone c u).core c).resetting = (s.core c).resetting) : (s.tileDone c u).loftAt k = s.loftAt k := by
  obtain ⟨hloft1, hres1, h1⟩ := passKept_stepOldest (s := s) (.inr h)
  obtain ⟨hloft2, hres2, -⟩ := passKept_stepOldest h1
  rw [tileDone_eq] at hr ⊢
  have hlofts := (loftsUntilReset_completeOldest _ c u).loft (hr.trans (hres2.trans hres1).symm)
  calc _ = ((s.stepOldest c u).stepOldest c u).loftAt k := by rw [State.loftAt, hlofts]; rfl
    _ = s.loftAt k := hloft2.trans hloft1

end

/-- What a unit's row does: its function, or, while the unit stands still, nothing to the lofts (R428). -/
theorem unitAct_cases {s t : State} {c : CoreId} {u : Nat} {f : State → State} (h : s.unitAct c u f = .next t) :
    t = f s ∨ SameLofts s t := by
  have hs := SameLofts.refl s
  unfold State.unitAct at h
  obtain rfl := Host.Outcome.next.inj h
  split
  · exact .inl rfl
  · right
    split
    · dsimp only
      split
      · exact hs.coreFault ..
      · exact hs
    · exact hs

theorem loft_of_unitAct {s t : State} {c : CoreId} {u : Nat} {f : State → State} (hf : LoftsUntilReset c s (f s))
    (hr : (t.core c).resetting = (s.core c).resetting) (h : s.unitAct c u f = .next t) : t.loft = s.loft := by
  obtain ht | hs := unitAct_cases h
  · rw [ht] at hr ⊢
    exact hf.loft hr
  · exact hs.loft

theorem loftAt_of_tileComplete {s t : State} {c d : CoreId} {u v e i : Nat} (hu : u < 9) (hne : d ≠ c ∨ v ≠ u) (hv : v < 9)
    (he : e < 8) (hi : i < 8192) (hfits : ∀ j ∈ ((s.core c).unit u).exec, SlotFits u j)
    (hr : (t.core c).resetting = (s.core c).resetting) (h : s.unitAct c u (fun s => s.tileDone c u) = .next t) : t.loftAt (loftKey d v e i) = s.loftAt (loftKey d v e i) := by
  obtain ht | hs := unitAct_cases h
  · rw [ht] at hr ⊢
    exact loftAt_tileDone (fun j hj => not_slotKey hu hv he hi (hfits j hj) hne) hr
  · exact hs.loftAt_eq _

/-- Settles O29: every operation of these completions keeps the lofts but the passes of TILEs and the end of a core reset. -/
theorem loftChangesOnlyByTiles : Obligations.LoftChangesOnlyByTiles := by
  intro c s t hr
  refine ⟨fun u h => ?tbuild, fun h => ?fin, fun h => ?opt, fun hform h => ?drain, fun g d v e i hne hv he hi hfits h => ?tile,
    fun d v e i hne hv he hi hfits h => ?stile⟩
  case tbuild => exact loft_of_unitAct (f := fun s => s.buildDone c u.val) (loftsUntilReset_buildDone s c u.val) hr h
  case fin => exact loft_of_unitAct (f := fun s => s.finEnd c) (loftsUntilReset_finEnd s c) hr h
  case opt => exact loft_of_unitAct (f := fun s => s.optEnd c) (loftsUntilReset_optEnd s c) hr h
  case drain => exact loft_of_unitAct (f := fun s => s.drainEnd c) (loftsUntilReset_drainEnd hform) hr h
  case tile => exact loftAt_of_tileComplete (u := g.val) (by omega) hne hv he hi hfits hr h
  case stile => exact loftAt_of_tileComplete (u := 8) (by decide) hne hv he hi hfits hr h

end Sys2Proof.Machine
end

section
/-! Sequencer commands that pass their checks (R218): a command with its opcode set, and the one path by which it issues. -/

namespace Sys2Proof.Machine
open Sys2Proof

/-! ## A command with its opcode set -/

theorem opcode_withOpcode (w : Cmd) (op : Nat) (h : op < 2 ^ 8) : opcode (withOpcode w op) = op := by
  have hw : (withOpcode w op)[(0 : Fin 8)] = putBits w[0] 0 8 op := by simp [withOpcode]
  rw [opcode, cf, hw, bits_putBits_same _ _ _ _ (by omega), Nat.mod_eq_of_lt h]

/-- The opcode stands in the first word alone. -/
theorem get_withOpcode (w : Cmd) (op : Nat) (i : Fin 8) (h : i ≠ 0) : (withOpcode w op)[i] = w[i] := by
  have hi : 0 ≠ i.val := fun e => h (Fin.ext e.symm)
  simp [withOpcode, hi]

theorem cf_withOpcode (w : Cmd) (op : Nat) (i : Fin 8) (lo len : Nat) (h : i ≠ 0) :
    cf (withOpcode w op) i lo len = cf w i lo len := by rw [cf, get_withOpcode w op i h, cf]

theorem threshold_withOpcode (w : Cmd) (op : Nat) : (withOpcode w op)[2] = w[2] := get_withOpcode w op 2 (by decide)

/-- The opcodes of the commands that go to the queue of a unit (R186). -/
def unitOpcodes : List Nat :=
  [OP_TBUILD, OP_TILE, OP_STILE, OP_DRAIN, OP_FIN, OP_OPT, OP_MOVE, OP_FILL, OP_COPY, OP_XPOSE, OP_RSIGNAL]

theorem unitOf_eq_none {w : Cmd} {op : Nat} (hop : opcode w = op) (h : op ∉ unitOpcodes) : unitOf w = none := by
  subst hop
  simp only [unitOpcodes, List.mem_cons, List.not_mem_nil, or_false, not_or] at h
  simp [unitOf, h]

/-! ## Issue (R218) -/

/-- The head command comes to the issue slot: room and order, the early checks, the pre-wait, the late checks. -/
theorem State.issueHead_eq (s : State) (c : CoreId) (x : CtxId) (w : Cmd) (bad : Option Nat) :
    s.issueHead c x w bad =
      let h := s.atHead c x w
      let d := s.headDesc c x w
      let off := s.headOff c x
      if (h.core c).holdsHead x w then h.holdCtx c x .head
      else (match if (s.keptDesc c x w).isSome then h.headFault c x w d else h.earlyFault c x w d bad with
        | some r => h.foundFault c x r off (some w)
        | none => if flagPw w && !(h.ctx c x).pre then h.preWait c x w d off else h.issueLate c x w d off).settle c := rfl

section
variable {s : State} {c : CoreId} {x : CtxId} {w : Cmd}

/-- What clearing says, condition by condition. -/
theorem State.clears_iff : s.clears c x w = true ↔
    s.mayIssue c x = true ∧ ((s.atHead c x w).core c).holdsHead x w = false ∧
      (if (s.keptDesc c x w).isSome then (s.atHead c x w).headFault c x w (s.headDesc c x w)
        else (s.atHead c x w).earlyFault c x w (s.headDesc c x w) none) = none ∧
      (flagPw w && !((s.atHead c x w).ctx c x).pre) = false ∧
      (s.atHead c x w).lateFault c x w (s.headDesc c x w) (s.headOff c x) = none := by
  simp only [State.clears, Bool.and_eq_true, Bool.not_eq_true', Option.isNone_iff_eq_none, Bool.or_eq_true, Bool.and_eq_false_iff,
    Bool.not_eq_false', and_assoc]

theorem State.mayIssue_of_clears (h : s.clears c x w = true) : s.mayIssue c x = true := (clears_iff.1 h).1

theorem State.issueHead_of_clears (h : s.clears c x w = true) :
    s.issueHead c x w none = ((s.atHead c x w).issueNow c x w (s.headDesc c x w) (s.headOff c x)).settle c := by
  obtain ⟨-, hroom, hearly, hpre, hlate⟩ := clears_iff.1 h
  simp [State.issueHead_eq, hroom, hearly, hpre, State.issueLate, hlate]

end

/-- A row of the sequencer whose command clears. -/
theorem State.command_of_clears {s : State} {c : CoreId} {x : CtxId} {w : Cmd} {op : Nat} (h : s.clears c x (withOpcode w op) = true) :
    s.command c x w op = .next (((s.atHead c x (withOpcode w op)).issueNow c x (withOpcode w op) (s.headDesc c x (withOpcode w op))
      (s.headOff c x)).settle c) := by
  rw [State.command, if_pos (mayIssue_of_clears h), issueHead_of_clears h]

/-! ## Commands of the sequencer without a unit at issue (R108, R112, R167, R168, R198, R211) -/

section
variable {s : State} {c : CoreId} {x : CtxId} {w : Cmd}

/-- NOP, a RERUN with threshold 0 and a PHASE outside context 0 issue and complete at once. -/
theorem State.issueNow_of_noOp (h : opcode w = OP_NOP ∨ (opcode w = OP_RERUN ∧ w[2] = 0) ∨ (opcode w = OP_PHASE ∧ x ≠ 0)) :
    (s.atHead c x w).issueNow c x w (s.headDesc c x w) (s.headOff c x) = (s.seqIssued c x w).complete c (s.headJob c x w) := by
  rcases h with hop | ⟨hop, hthr⟩ | ⟨hop, hx⟩
  case inl =>
    simp only [State.issueNow, unitOf_eq_none hop (by decide), hop]
    rfl
  case inr.inl =>
    simp only [State.issueNow, unitOf_eq_none hop (by decide), hop, hthr]
    rfl
  case inr.inr =>
    simp only [State.issueNow, unitOf_eq_none hop (by decide), hop, hx]
    rfl

theorem State.issueNow_halt (hop : opcode w = OP_HALT) :
    (s.atHead c x w).issueNow c x w (s.headDesc c x w) (s.headOff c x) =
      (s.seqIssued c x w).holdCtx c x (.halt (s.headJob c x w) (BitVec.ofNat 16 (cf w 1 0 16))) := by
  simp only [State.issueNow, unitOf_eq_none hop (by decide), hop]
  rfl

theorem State.issueNow_rerun (hop : opcode w = OP_RERUN) (hthr : w[2] ≠ 0) :
    (s.atHead c x w).issueNow c x w (s.headDesc c x w) (s.headOff c x) =
      ((s.atHead c x w).countIssue c x U_SEQ).holdCtx c x (.rerun (s.headJob c x w)) := by
  simp only [State.issueNow, unitOf_eq_none hop (by decide), hop, hthr]
  rfl

theorem State.issueNow_phase (hop : opcode w = OP_PHASE) :
    (s.atHead c 0 w).issueNow c 0 w (s.headDesc c 0 w) (s.headOff c 0) =
      (((s.atHead c 0 w).countIssue c 0 U_SEQ).holdCtx c 0 (.phase (s.headJob c 0 w) (cf w 1 0 16) none)).carry (bayOf c) mgtBay false := by
  simp only [State.issueNow, unitOf_eq_none hop (by decide), hop]
  rfl

end

/-- Settles O16: each clears, and its issue is its completion. -/
theorem noOpCommands : Obligations.NoOpCommands := by
  intro c x w s
  refine ⟨fun h => ?nop, fun hthr h => ?rerun, fun hx h => ?phase⟩
  case nop => exact (State.command_of_clears h).trans (by rw [State.issueNow_of_noOp (.inl (opcode_withOpcode _ _ (by decide)))])
  case rerun =>
    have hword : (withOpcode w OP_RERUN)[2] = 0 := (threshold_withOpcode w OP_RERUN).trans hthr
    exact (State.command_of_clears h).trans (by rw [State.issueNow_of_noOp (.inr (.inl ⟨opcode_withOpcode _ _ (by decide), hword⟩))])
  case phase =>
    exact (State.command_of_clears h).trans (by rw [State.issueNow_of_noOp (.inr (.inr ⟨opcode_withOpcode _ _ (by decide), hx⟩))])

end Sys2Proof.Machine
end

section
/-! Commands that hold their context, and what ends the hold: HALT, RERUN, PHASE, the end of a stream, faults (R108 to R111, R168, R181, R211,
R219). -/

namespace Sys2Proof.Machine
open Sys2Proof

/-! ## States of a context -/

theorem Ctx.cur_go (t : Ctx) {st : CtxState} (h : st ≠ .frozen) : (t.go st).cur = st := by
  by_cases hf : t.run = .frozen
  · simp [Ctx.go, Ctx.cur, hf]
  · simp [Ctx.go, Ctx.cur, hf, h]

theorem Ctx.run_go {t : Ctx} (st : CtxState) (h : t.run ≠ .frozen) : (t.go st).run = st := by simp [Ctx.go, h]

@[simp] theorem State.ctx_event (s : State) (p : Page) (b : Nat) (c : CoreId) (x : CtxId) : (s.event p b).ctx c x = s.ctx c x := by
  simp [State.ctx, State.core]

/-- The event's own raw bit is set. -/
theorem State.bit_event (s : State) (c : CoreId) (x : CtxId) (b : Nat) (hb : b < 32) :
    bit ((s.event (.ctx c x) b).pg (.ctx c x) PG_EVT_RAW) b = true := by
  rw [(Delivered.event s (.ctx c x) b).pg (.ctx c x) PG_EVT_RAW (by decide) (.inl nofun), State.pg_setField_same]
  exact bit_putBits_bn _ b true hb

/-! ## A HALT completes (R211) -/

@[simp] theorem State.ctx_retire (s : State) (c : CoreId) (uid : Nat) (x : CtxId) : (s.retire c uid).ctx c x = s.ctx c x := by
  rw [State.retire, State.ctx, State.core_modCore]
  rfl

@[simp] theorem State.pg_retire (s : State) (c : CoreId) (uid : Nat) (p : Page) (o : Nat) : (s.retire c uid).pg p o = s.pg p o := rfl

theorem State.complete_of_no_signal (s : State) (c : CoreId) {j : Job} (h : j.sig = none) : s.complete c j = s.retire c j.uid := by
  rw [State.complete, h]

theorem State.haltDone_spec (s : State) (c : CoreId) (j : Job) (code : W16) (hsig : j.sig = none) (hrun : (s.ctx c j.ctx).run ≠ .frozen) :
    ((s.haltDone c j code).ctx c j.ctx).run = .halted ∧ (s.haltDone c j code).pg (.ctx c j.ctx) CTX_HALT = w32 code.toNat ∧
      bit ((s.haltDone c j code).pg (.ctx c j.ctx) PG_EVT_RAW) EVT_HALT = true := by
  simp only [State.haltDone, State.complete_of_no_signal _ _ hsig, State.ctx_retire, State.pg_retire]
  refine ⟨?run, ?code, ?event⟩
  case run =>
    rw [State.ctx_event, State.ctx_setPg, State.ctx_modCtx]
    exact Ctx.run_go .halted hrun
  case code =>
    rw [State.pg_event _ (.ctx c j.ctx) (.ctx c j.ctx) EVT_HALT CTX_HALT (by decide) (.inr (by decide)) (.inl nofun), State.pg_setPg_same]
  case event => exact State.bit_event _ _ _ _ (by decide)

/-! ## A RERUN whose context's earlier commands have completed (R109 to R111) -/

theorem satTag_lt (w : Cmd) : satTag w < 64 := bits_lt w[1] 0 6

theorem State.pg_rerunSnap_snap (s : State) (c : CoreId) (j : Job) :
    (s.rerunSnap c j).pg (.fu c) (FU_QSAT_SNAP (satTag j.cmd)) = s.pg (.fu c) (FU_QSAT_CNT (satTag j.cmd)) := by
  have htag := satTag_lt j.cmd
  unfold State.rerunSnap
  dsimp only
  split
  · rw [State.pg_setPg_off _ _ _ _ _ _ (by simp only [FU_QSAT_CNT]; omega) (by simp only [FU_QSAT_SNAP]; omega)
      (by simp only [FU_QSAT_CNT, FU_QSAT_SNAP]; omega), State.pg_setPg_same]
  · rw [State.pg_setPg_same]

theorem State.pg_rerunSnap_cnt (s : State) (c : CoreId) (j : Job) :
    (s.rerunSnap c j).pg (.fu c) (FU_QSAT_CNT (satTag j.cmd)) =
      if cb j.cmd 1 6 then 0 else s.pg (.fu c) (FU_QSAT_CNT (satTag j.cmd)) := by
  have htag := satTag_lt j.cmd
  unfold State.rerunSnap
  dsimp only
  split
  · rw [State.pg_setPg_same]
  · rw [State.pg_setPg_off _ _ _ _ _ _ (by simp only [FU_QSAT_SNAP]; omega) (by simp only [FU_QSAT_CNT]; omega)
      (by simp only [FU_QSAT_CNT, FU_QSAT_SNAP]; omega)]

/-- A RERUN that is not pooled compares the count that it snapshots. -/
theorem State.rerunRun_of_not_pooled (s : State) (c : CoreId) {j : Job} (h : rerunPooled j.cmd = false) :
    s.rerunRun c j = (s.rerunSnap c j).rerunOutcome c j (s.pg (.fu c) (FU_QSAT_CNT (satTag j.cmd))).toNat false
      fun s => s.unholdCtx c j.ctx := by
  simp [State.rerunRun, h, State.pg_rerunSnap_snap]

theorem State.settleCtx_rerun {s : State} {c : CoreId} {j : Job} (hhold : (s.ctx c j.ctx).hold = .rerun j)
    (halone : (s.core c).alone j.ctx j.uid = true) (hres : (s.ctx c j.ctx).resetting = false) :
    s.settleCtx c j.ctx = (s.rerunRun c j, true) := by
  have hhold' : ((s.core c).ctx j.ctx).hold = .rerun j := hhold
  simp [State.settleCtx, hres, hhold', halone]

/-! ## Faults (R179, R219) -/

theorem State.foundFault_spec (s : State) (c : CoreId) (x : CtxId) (r : Rec) (off : Nat) (w : Option Cmd) :
    ((s.foundFault c x r off w).ctx c x).hold = .fault r off ∧ ((s.foundFault c x r off w).ctx c x).cur = .hold ∧
      s.foundFault c x r off w = { s with cores := (s.foundFault c x r off w).cores } ∧
      (∀ y : CtxId, y ≠ x → (s.foundFault c x r off w).ctx c y = s.ctx c y) ∧
      ∀ d : CoreId, d ≠ c → (s.foundFault c x r off w).core d = s.core d := by
  refine ⟨?hold, ?cur, rfl, fun y hy => State.ctx_modCtx_other _ _ _ _ _ _ (.inr hy), fun d hd => State.core_modCore_other _ _ _ _ hd⟩
  case hold => rw [State.foundFault, State.ctx_modCtx]
  case cur =>
    rw [State.foundFault, State.ctx_modCtx]
    exact Ctx.cur_go (s.ctx c x) (st := .hold) (by decide)

theorem commandFetchRangeFault_of_outside {s : State} {c : CoreId} {x : CtxId} {a : Nat} (hmay : s.mayIssue c x = true)
    (hf : s.fetch c x = .outside a) : exec (.commandFetchRangeFault c x) s = .next (s.fetchFault c x a) := by
  change execCommandFetchRangeFault c x s = _
  rw [execCommandFetchRangeFault, if_pos hmay, hf]

theorem implicitHalt_of_theEnd {s : State} {c : CoreId} {x : CtxId} (hmay : s.mayIssue c x = true) (hf : s.fetch c x = .theEnd) :
    exec (.implicitHalt c x) s = .next (s.streamEnd c x) := by
  change execImplicitHalt c x s = _
  simp [execImplicitHalt, hmay, hf]

theorem State.recordCtxFault_of_idle {s : State} {c : CoreId} {x : CtxId} {r : Rec} {off : Nat} (hhold : (s.ctx c x).hold = .fault r off)
    (hidle : (s.core c).busy x = false) : s.recordCtxFault c x =
      ((s.modCtx c x fun t => { (t.go .faulted) with hold := .free, pend := false, late := false, pre := false }).setPc c x off).recordFault
        (.ctx c x) r := by
  simp [State.recordCtxFault, hhold, hidle]

/-! ## The clauses -/

/-- Settles O20: the holds by the issue of their commands, what ends them by the rule of each. -/
theorem holdingCommands : Obligations.HoldingCommands := by
  refine ⟨fun c x w s => ⟨fun h => ?halt, fun h hthr => ?rerun, fun h => ?phase, fun hmay hf => ?theEnd,
    fun j code hx hsig hrun => ?halted, fun a hmay hf => ?outside, fun r off hup hres hhold hidle => ?recorded⟩,
    fun s c j hpool hhold halone hres => ?rerunDone⟩
  case halt =>
    refine (State.command_of_clears h).trans ?_
    rw [State.issueNow_halt (opcode_withOpcode _ _ (by decide)), cf_withOpcode _ _ _ _ _ (by decide)]
  case rerun =>
    have hword : (withOpcode w OP_RERUN)[2] ≠ 0 := by rwa [threshold_withOpcode]
    exact (State.command_of_clears h).trans (by rw [State.issueNow_rerun (opcode_withOpcode _ _ (by decide)) hword])
  case phase =>
    refine (State.command_of_clears h).trans ?_
    rw [State.issueNow_phase (opcode_withOpcode _ _ (by decide)), cf_withOpcode _ _ _ _ _ (by decide)]
  case theEnd => exact implicitHalt_of_theEnd hmay hf
  case halted =>
    subst hx
    exact s.haltDone_spec c j code hsig hrun
  case outside => exact ⟨_, commandFetchRangeFault_of_outside hmay hf, s.foundFault_spec c x _ _ none⟩
  case recorded =>
    change execFaultRecord c x s = _
    simp only [execFaultRecord, hup, hres, State.recordCtxFault_of_idle hhold hidle]
    rfl
  case rerunDone =>
    have hset := State.settleCtx_rerun hhold halone hres
    rw [State.rerunRun_of_not_pooled s c hpool, State.rerunOutcome] at hset
    refine ⟨⟨s.pg_rerunSnap_snap c j, s.pg_rerunSnap_cnt c j⟩, fun hv => ?below, fun hv htgt => ?taken, fun hv htgt => ?fault⟩
    case below => rw [hset, if_pos hv]
    case taken => rw [hset, if_neg (Nat.not_lt.2 hv), if_neg htgt]
    case fault =>
      rw [hset, if_neg (Nat.not_lt.2 hv), if_pos htgt]
      simp [hpool]

end Sys2Proof.Machine
end

section
/-! Commands that do not issue, what the checks find, and the fault of a context (R115, R117, R162, R165, R179, R187, R195, R218, R219, R221). -/

namespace Sys2Proof.Machine
open Sys2Proof

/-! ## The rows of the sequencer's commands -/

/-- A row issues its command, with its own opcode set. -/
theorem exec_seqRow (c : CoreId) (x : CtxId) (w : Cmd) (s : State) : ∀ r ∈ seqRows, exec (r.2 c x w) s = s.command c x w r.1 := by
  simp only [seqRows, List.forall_mem_cons]
  exact ⟨rfl, rfl, rfl, rfl, rfl, rfl, rfl, rfl, rfl, rfl, rfl, rfl, rfl, rfl, rfl, rfl, rfl, rfl, rfl, rfl, rfl, nofun⟩

/-! ## The head command does not issue (R187, R195, R218, R219) -/

/-- What the checks before the pre-wait find of the command at the head. -/
def State.headFinding (s : State) (c : CoreId) (x : CtxId) (w : Cmd) : Option Rec :=
  if (s.keptDesc c x w).isSome then (s.atHead c x w).headFault c x w (s.headDesc c x w)
  else (s.atHead c x w).earlyFault c x w (s.headDesc c x w) none

section
variable {s : State} {c : CoreId} {x : CtxId} {w : Cmd}

theorem State.keptDesc_isSome_iff : (s.keptDesc c x w).isSome = true ↔
    ((s.atHead c x w).ctx c x).pre = true ∧ ((s.atHead c x w).ctx c x).desc.isSome = true := by
  rw [State.keptDesc]
  cases ((s.atHead c x w).ctx c x).pre <;> simp

theorem State.headFinding_eq : s.headFinding c x w =
    if ((s.atHead c x w).ctx c x).pre = true ∧ ((s.atHead c x w).ctx c x).desc.isSome = true then
      (s.atHead c x w).headFault c x w (s.headDesc c x w)
    else (s.atHead c x w).earlyFault c x w (s.headDesc c x w) none := by
  rw [State.headFinding]
  exact if_congr State.keptDesc_isSome_iff rfl rfl

theorem State.issueHead_of_held (h : ((s.atHead c x w).core c).holdsHead x w = true) (bad : Option Nat) :
    s.issueHead c x w bad = (s.atHead c x w).holdCtx c x .head := by
  rw [State.issueHead_eq]
  exact if_pos h

section
variable (hroom : ((s.atHead c x w).core c).holdsHead x w = false)
include hroom

theorem State.issueHead_of_room : s.issueHead c x w none = (match s.headFinding c x w with
    | some r => (s.atHead c x w).foundFault c x r (s.headOff c x) (some w)
    | none =>
      if flagPw w && !((s.atHead c x w).ctx c x).pre then (s.atHead c x w).preWait c x w (s.headDesc c x w) (s.headOff c x)
      else (s.atHead c x w).issueLate c x w (s.headDesc c x w) (s.headOff c x)).settle c := by
  rw [State.issueHead_eq]
  exact if_neg (Bool.eq_false_iff.1 hroom)

theorem State.issueHead_of_found {f : Rec} (hf : s.headFinding c x w = some f) :
    s.issueHead c x w none = ((s.atHead c x w).foundFault c x f (s.headOff c x) (some w)).settle c := by
  rw [State.issueHead_of_room hroom, hf]

theorem State.issueHead_of_lateFault {f : Rec} (hfind : s.headFinding c x w = none)
    (hpw : flagPw w = false ∨ ((s.atHead c x w).ctx c x).pre = true)
    (hf : (s.atHead c x w).lateFault c x w (s.headDesc c x w) (s.headOff c x) = some f) :
    s.issueHead c x w none = ((s.atHead c x w).foundFault c x f (s.headOff c x) (some w)).settle c := by
  have hno : (flagPw w && !((s.atHead c x w).ctx c x).pre) = false := by
    obtain h | h := hpw <;> simp [h]
  rw [State.issueHead_of_room hroom, hfind, hno, State.issueLate, hf]
  rfl

theorem State.issueHead_of_preWait (hfind : s.headFinding c x w = none) (hpw : flagPw w = true)
    (hpre : ((s.atHead c x w).ctx c x).pre = false) :
    s.issueHead c x w none = ((s.atHead c x w).preWait c x w (s.headDesc c x w) (s.headOff c x)).settle c := by
  rw [State.issueHead_of_room hroom, hfind, hpw, hpre]
  rfl

end

end

section
variable {s : State} {c : CoreId} {x : CtxId} {w : Cmd} {d : Desc} {off : Nat}

theorem State.preWait_of_waiting (h : (s.waitWord c (s.preWaitOf c x w off)).2 = false) : s.preWait c x w d off =
    (s.waitWord c (s.preWaitOf c x w off)).1.modCtx c x fun t => { t with desc := some d } := by
  simp only [State.preWait, h, Bool.false_eq_true, if_false]

theorem State.preWait_of_passed (h : (s.waitWord c (s.preWaitOf c x w off)).2 = true) : s.preWait c x w d off =
    (s.waitWord c (s.preWaitOf c x w off)).1.issueLate c x w d off := by
  simp only [State.preWait, h, if_true]

/-! ## What the checks find (R115, R117, R162, R165, R218, R221) -/

theorem State.headFault_of_undefined (h : opcodes.contains (opcode w) = false) :
    s.headFault c x w d = some (mkRec 0x0101 0 w[0].toNat 0 0) := by
  simp only [State.headFault, h, Bool.not_false, if_true]

theorem State.earlyFault_of_no_poison (h : s.mem.poison = []) : s.earlyFault c x w d none = s.headFault c x w d := by
  simp [State.earlyFault, State.firstPoison, h]

theorem State.headFault_of_xpose (hop : opcode w = OP_XPOSE) (hpriv : bit (s.pg (.ctx c x) CTX_CFG) 2 = false)
    (hfield : fieldFail { phaseCnt := (s.pg (.seq c) SEQ_PHASE_CNT).toNat, ctxLen := (s.pg (.ctx c x) CTX_LEN).toNat } w d = none) :
    s.headFault c x w d = some (mkRec 0x0105 OP_XPOSE 0 0 0) := by
  have hdefined : OP_XPOSE ∈ opcodes := by decide
  simp [State.headFault, hop, hdefined, hfield, hpriv]

theorem State.lateFault_of_shape {f : Rec} (h : s.shapeFail c x w off = some f) : s.lateFault c x w d off = some f := by
  simp [State.lateFault, h]

theorem State.lateFault_of_loft {f : Rec} (hshape : s.shapeFail c x w off = none) (h : s.loftFail c x w = some f) :
    s.lateFault c x w d off = some f := by
  simp [State.lateFault, hshape, h]

/-- M of a TILE, the first field in the order of R165, above its plan. -/
theorem State.shapeFail_of_tileM (hop : opcode w = OP_TILE) (hsel : 1 ≤ cf w 4 9 4)
    (hover : cf w 4 0 9 < (s.pg (.ctx c x) (CTX_SHAPE (cf w 4 9 4 - 1))).toNat) : s.shapeFail c x w off =
      some (mkRec 0x0103 (OP_TILE + cf w 4 9 4 <<< 12) (s.pg (.ctx c x) (CTX_SHAPE (cf w 4 9 4 - 1))).toNat (cf w 4 0 9) off) := by
  have hval : s.shapeVal c x w ⟨0, cf w 4 9 4, cf w 4 0 9⟩ = (s.pg (.ctx c x) (CTX_SHAPE (cf w 4 9 4 - 1))).toNat := by
    simp [State.shapeVal, Nat.one_le_iff_ne_zero.1 hsel]
  simp [State.shapeFail, shapeFields, hop, hval, hover]

/-- The largest M of a slot (R115, R118). -/
theorem maxM_eq (u n : Nat) : maxM u n = (if u = 8 then 128 else 256) / 2 ^ min n 5 := by
  have hsize : loftSize u / 32 = if u = 8 then 128 else 256 := by unfold loftSize; split <;> rfl
  rw [maxM, Nat.div_right_comm, hsize, slotLog, Nat.one_shiftLeft]

/-- The command w uses slot `slot` of unit u: a TILE of a group, an STILE, a DRAIN. -/
def UsesSlot (w : Cmd) (u slot : Nat) : Prop :=
  (opcode w = OP_TILE ∧ u = cf w 1 21 3 ∧ slot = cf w 1 25 5) ∨ (opcode w = OP_STILE ∧ u = 8 ∧ slot = cf w 1 25 5) ∨
    (opcode w = OP_DRAIN ∧ u = cf w 1 0 4 ∧ slot = cf w 1 4 5)

theorem UsesSlot.opcode {u slot : Nat} (h : UsesSlot w u slot) : opcode w = OP_TILE ∨ opcode w = OP_STILE ∨ opcode w = OP_DRAIN :=
  h.imp And.left (.imp And.left And.left)

theorem UsesSlot.named {u slot : Nat} (h : UsesSlot w u slot) : engUnit w = u ∧ slotOf w = slot := by
  rcases h with ⟨hop, rfl, rfl⟩ | ⟨hop, rfl, rfl⟩ | ⟨hop, rfl, rfl⟩ <;>
    simp [engUnit, slotOf, hop, OP_TILE, OP_STILE, OP_DRAIN, OP_TBUILD]

/-- The loft check of a command that uses a slot: the slot beyond the partition, or M beyond what a slot holds. -/
theorem State.loftFail_of_usesSlot {u slot : Nat} (h : UsesSlot w u slot) : s.loftFail c x w =
    if 2 ^ min (s.loftCfg c u) 5 ≤ slot ∨ (if u = 8 then 128 else 256) / 2 ^ min (s.loftCfg c u) 5 < s.shapeOf c x w 0 then
      some (mkRec 0x0104 (opcode w + u <<< 8 + slot <<< 13 + s.loftCfg c u <<< 18) (s.shapeOf c x w 0) 0 0)
    else none := by
  obtain ⟨rfl, rfl⟩ := h.named
  rw [← maxM_eq, ← Nat.one_shiftLeft]
  exact if_pos h.opcode

theorem State.loftFail_of_no_slot (hop : ¬(opcode w = OP_TILE ∨ opcode w = OP_STILE ∨ opcode w = OP_DRAIN)) : s.loftFail c x w = none :=
  if_neg hop

/-! ## FAULT_RECORD (R219) -/

theorem State.recordCtxFault_of_busy {r : Rec} (hhold : (s.ctx c x).hold = .fault r off) (hbusy : (s.core c).busy x = true) :
    s.recordCtxFault c x = s := by
  simp [State.recordCtxFault, hhold, hbusy]

theorem execFaultRecord_of_up (hup : s.coreUp c = true) (hres : (s.core c).resetting = false) :
    exec (.faultRecord c x) s = .next (s.recordCtxFault c x) := by
  change execFaultRecord c x s = _
  rw [execFaultRecord, hup, hres]
  rfl

end

/-- A recorded fault leaves the cores, the memory and the lofts; its page has its code and its event. -/
theorem State.recordFault_spec (s : State) (c : CoreId) (x : CtxId) (r : Rec) :
    (s.recordFault (.ctx c x) r).cores = s.cores ∧ (s.recordFault (.ctx c x) r).mem = s.mem ∧
      (s.recordFault (.ctx c x) r).loft = s.loft ∧ (s.recordFault (.ctx c x) r).pg (.ctx c x) CTX_PC = s.pg (.ctx c x) CTX_PC ∧
      (s.recordFault (.ctx c x) r).pg (.ctx c x) PG_ERR_CODE = w32 r.code.toNat ∧
      (s.recordFault (.ctx c x) r).pg (.ctx c x) PG_ERR_INFO0 = r.i0 ∧
      bit ((s.recordFault (.ctx c x) r).pg (.ctx c x) PG_EVT_RAW) EVT_FAULT = true := by
  have hframe := (Delivered.event (s.putCode (.ctx c x) r) (.ctx c x) EVT_FAULT).frame
  have hpg (o : Nat) (ho : o < 0x1000) (hne : o ≠ PG_EVT_RAW) :
      (s.recordFault (.ctx c x) r).pg (.ctx c x) o = (s.putCode (.ctx c x) r).pg (.ctx c x) o :=
    State.pg_event _ _ _ EVT_FAULT o ho (.inr hne) (.inl nofun)
  refine ⟨State.event_cores .., ?mem, ?loft, ?pc, ?code, ?info, State.bit_event _ _ _ _ (by decide)⟩
  case mem => rw [State.recordFault, hframe]; rfl
  case loft => rw [State.recordFault, hframe]; rfl
  case pc => rw [hpg _ (by decide) (by decide), State.pg_putCode _ _ _ _ _ (by decide)]; simp [CTX_PC, PG_ERR_INFO0, PG_ERR_CODE]
  case code => rw [hpg _ (by decide) (by decide), State.pg_putCode _ _ _ _ _ (by decide)]; simp [PG_ERR_INFO0, PG_ERR_CODE]
  case info => rw [hpg _ (by decide) (by decide), State.pg_putCode _ _ _ _ _ (by decide)]; simp [PG_ERR_INFO0]

/-- The context of a recorded fault is FAULTED at the command, and the record stands in its page. -/
theorem State.recordCtxFault_spec {s : State} {c : CoreId} {x : CtxId} {r : Rec} {off : Nat} (hhold : (s.ctx c x).hold = .fault r off)
    (hidle : (s.core c).busy x = false) :
    let t := s.recordCtxFault c x
    (t.ctx c x).cur = .faulted ∧ (t.ctx c x).pend = false ∧ t.pg (.ctx c x) CTX_PC = w32 off ∧
      t.pg (.ctx c x) PG_ERR_CODE = w32 r.code.toNat ∧ t.pg (.ctx c x) PG_ERR_INFO0 = r.i0 ∧
      bit (t.pg (.ctx c x) PG_EVT_RAW) EVT_FAULT = true ∧ t.mem = s.mem ∧ t.loft = s.loft ∧
      (∀ y : CtxId, y ≠ x → t.ctx c y = s.ctx c y) ∧ (∀ e : CoreId, e ≠ c → t.core e = s.core e) := by
  dsimp only
  rw [State.recordCtxFault_of_idle hhold hidle]
  obtain ⟨hcores, hmem, hloft, hpc, hcode, hinfo, hevent⟩ := State.recordFault_spec
    ((s.modCtx c x fun t => { (t.go .faulted) with hold := .free, pend := false, late := false, pre := false }).setPc c x off) c x r
  have hctx (d : CoreId) (y : CtxId) : (State.recordFault _ (.ctx c x) r).ctx d y = State.ctx _ d y :=
    congrArg (fun k => (k[d] : Core).ctx y) hcores
  refine ⟨?cur, ?pend, ?pc, hcode, hinfo, hevent, hmem, hloft, fun y hy => ?others, fun e he => ?cores⟩
  case cur =>
    rw [hctx, State.setPc, State.ctx_setPg, State.ctx_modCtx]
    exact Ctx.cur_go (s.ctx c x) (st := .faulted) (by decide)
  case pend => rw [hctx, State.setPc, State.ctx_setPg, State.ctx_modCtx]
  case pc => rw [hpc, State.setPc, State.pg_setPg_same]
  case others => rw [hctx]; exact State.ctx_modCtx_other _ _ _ _ _ _ (.inr hy)
  case cores => rw [State.core, hcores]; exact State.core_modCore_other _ _ _ _ he

/-! ## The clauses -/

/-- Settles O21: a head command by the step of R218 at which it stops, a fault by the check that finds it and by its record. -/
theorem commandsNotIssued : Obligations.CommandsNotIssued := by
  refine ⟨fun r hr c x w s => ?heads, fun s c x w d off => ⟨State.headFault_of_undefined, State.earlyFault_of_no_poison,
      State.headFault_of_xpose, fun hop hsel hover => State.lateFault_of_shape (State.shapeFail_of_tileM hop hsel hover),
      fun u slot huse hshape => ?slots, fun htile hstile hdrain => State.loftFail_of_no_slot (by tauto)⟩,
    fun c x s => ⟨fun a => commandFetchRangeFault_of_outside, fun r off hup hres hhold => ?record⟩⟩
  case heads =>
    have hrow : s.mayIssue c x = true → exec (r.2 c x w) s = .next (s.issueHead c x (withOpcode w r.1) none) := fun hmay =>
      (exec_seqRow c x w s r hr).trans (by rw [State.command, if_pos hmay])
    refine ⟨fun hno => ?idle, fun hmay hheld => ?held, fun hmay hroom => ⟨fun f hf => ?found, fun hfind =>
      ⟨fun f hpw hf => ?late, fun hpw hpre hwait => ?waiting, fun hpw hpre hpass => ?passed⟩⟩⟩
    case idle => rw [exec_seqRow c x w s r hr, State.command, hno]; rfl
    case held => rw [hrow hmay, State.issueHead_of_held hheld]
    case found => rw [hrow hmay, State.issueHead_of_found hroom (State.headFinding_eq.trans hf)]
    case late => rw [hrow hmay, State.issueHead_of_lateFault hroom (State.headFinding_eq.trans hfind) hpw hf]
    case waiting =>
      rw [hrow hmay, State.issueHead_of_preWait hroom (State.headFinding_eq.trans hfind) hpw hpre, State.preWait_of_waiting hwait]
    case passed =>
      rw [hrow hmay, State.issueHead_of_preWait hroom (State.headFinding_eq.trans hfind) hpw hpre, State.preWait_of_passed hpass]
  case slots =>
    have hcheck := State.loftFail_of_usesSlot (s := s) (c := c) (x := x) (huse : UsesSlot w u slot)
    refine ⟨fun hbeyond => State.lateFault_of_loft hshape (hcheck.trans (if_pos hbeyond)), fun hslot hm => hcheck.trans (if_neg ?_)⟩
    rintro (h | h)
    · exact (Nat.not_le.2 hslot) h
    · exact (Nat.not_lt.2 hm) h
  case record =>
    rw [execFaultRecord_of_up hup hres]
    exact ⟨fun hbusy => by rw [State.recordCtxFault_of_busy hhold hbusy], fun hidle => ⟨_, rfl, State.recordCtxFault_spec hhold hidle⟩⟩

end Sys2Proof.Machine
end

section
/-! DRAIN, FIN and OPT complete (R122, R125 to R129, R222 to R243, R421). -/

namespace Sys2Proof.Machine
open Sys2Proof

/-! ## Results -/

/-- The result that writes nothing. -/
def noOut : OutSet := { segs := [], clips := 0, excess := 0, first := none }

@[simp] theorem State.writeOut_noOut (s : State) (c : CoreId) (j : Job) : s.writeOut c j noOut = s := rfl

/-- Bytes alone: no element clips and no crate overflows. -/
def bytesOut (l : List OutSeg) : OutSet := { segs := l, clips := 0, excess := 0, first := none }

@[simp] theorem State.writeOut_bytesOut (s : State) (c : CoreId) (j : Job) (l : List OutSeg) :
    s.writeOut c j (bytesOut l) = s.writeSegs c l := rfl

/-- The poison that a job would consume is a matter of the memory alone. -/
theorem State.jobPoison_of_mem {s t : State} (h : t.mem = s.mem) (c : CoreId) (j : Job) : t.jobPoison c j = s.jobPoison c j := by
  simp only [State.jobPoison, State.firstPoison, State.unitReads, h]

/-- A command of a zero shape reads nothing, so it consumes no poison. -/
theorem State.jobPoison_of_drainNoop (s : State) (c : CoreId) {j : Job} (hop : opcode j.cmd = OP_DRAIN) (h : drainNoop j = true) :
    s.jobPoison c j = none := by
  have hreads : s.unitReads c j.cmd j.desc j.m j.n j.k j.cnt = [] := by
    have hidle : drainIdle j.cmd j.desc j.m j.n = true := h
    simp [State.unitReads, hop, hidle, OP_DRAIN, OP_TBUILD, OP_TILE, OP_STILE]
  simp [State.jobPoison, State.firstPoison, hreads]

/-! ## The entries that a DRAIN reads (R122, R125) -/

/-- The entries of a unit's loft are those with the unit's keys. -/
theorem State.loftAt_unitLoft (s : State) (c : CoreId) (u : Nat) {e i : Nat} (he : e < 8) (hi : i < 8192) :
    ({ s with loft := s.unitLoft c u } : State).loftAt (loftKey c u e i) = s.loftAt (loftKey c u e i) := by
  have hkey : (loftKey c u e i / (8 * 8192) == c.val * 9 + u) = true := by
    unfold loftKey
    rw [beq_iff_eq]
    omega
  refine congrArg Entry.ofWord ((smGet_filter zeroEntry (fun k => k / (8 * 8192) == c.val * 9 + u) s.loft _).trans ?_)
  rw [if_pos hkey]

/-- The rows of a value-form DRAIN come from the entries and the memory alone. -/
theorem drainRows_of_mem {s t : State} (h : t.mem = s.mem) (l : List (Nat × W64)) (o : DrainOp) :
    drainRows { t with loft := l } o = drainRows { s with loft := l } o := by
  simp only [drainRows, h]
  rfl

/-- A DRAIN whose slot has been read. -/
def Job.pastRead (j : Job) : Job := { j with stage := 1 }

@[simp] theorem Job.cmd_pastRead (j : Job) : j.pastRead.cmd = j.cmd := rfl

@[simp] theorem drainNoop_pastRead (j : Job) : drainNoop j.pastRead = drainNoop j := rfl

theorem Job.pastRead_of_read {j : Job} (h : j.stage = 1) : j.pastRead = j := by
  cases j
  cases h
  rfl

/-- A storing DRAIN has read the entries of its unit, now or before. -/
def State.drainTaken (s : State) (c : CoreId) (j : Job) : State :=
  if j.stage = 0 then (s.modCore c fun k => { k with drained := s.unitLoft c (engUnit j.cmd) }).replaceJob c 9 j.pastRead else s

/-- What a storing DRAIN sees: the memory, and the entries it has read. -/
def State.drainSight (s : State) (c : CoreId) (j : Job) : State :=
  { s with loft := if j.stage = 0 then s.unitLoft c (engUnit j.cmd) else (s.core c).drained }

/-- A DRAIN of a zero shape is past its reads, of which it has none. -/
def State.drainSkipped (s : State) (c : CoreId) (j : Job) : State := if j.stage = 0 then s.replaceJob c 9 j.pastRead else s

/-- t is s once the DRAIN j is past the read of its slot. -/
structure SlotRead (c : CoreId) (j : Job) (s t : State) : Prop where
  up : t.unitUp c = s.unitUp c
  mem : t.mem = s.mem
  exec : ∃ r, ((t.core c).unit 9).exec = j.pastRead :: r

section
variable {s t : State} {c : CoreId} {j : Job} {r : List Job}

theorem exec_replaceJob_head (h : ((s.core c).unit 9).exec = j :: r) :
    ∃ r, (((s.replaceJob c 9 j.pastRead).core c).unit 9).exec = j.pastRead :: r := by
  rw [exec_replaceJob, h, List.map_cons]
  exact ⟨_, congrArg (· :: r.map (replacedBy j.pastRead)) (if_pos rfl)⟩

theorem SlotRead.replaceJob (hup : t.unitUp c = s.unitUp c) (hmem : t.mem = s.mem)
    (hexec : ((t.core c).unit 9).exec = j :: r) : SlotRead c j s (t.replaceJob c 9 j.pastRead) :=
  ⟨by rw [unitUp_replaceJob, hup], hmem, exec_replaceJob_head hexec⟩

theorem SlotRead.of_read (hexec : ((s.core c).unit 9).exec = j :: r) (hst : j.stage = 1) : SlotRead c j s s :=
  ⟨rfl, rfl, r, by rw [hexec, Job.pastRead_of_read hst]⟩

theorem slotRead_drainTaken (hexec : ((s.core c).unit 9).exec = j :: r) (hst : j.stage ≤ 1) : SlotRead c j s (s.drainTaken c j) := by
  unfold State.drainTaken
  split
  · exact .replaceJob (unitUp_modCore s c _ rfl) rfl (by rw [State.core_modCore]; exact hexec)
  · exact .of_read hexec (by omega)

theorem slotRead_drainSkipped (hexec : ((s.core c).unit 9).exec = j :: r) (hst : j.stage ≤ 1) : SlotRead c j s (s.drainSkipped c j) := by
  unfold State.drainSkipped
  split
  · exact .replaceJob rfl rfl hexec
  · exact .of_read hexec (by omega)

theorem drained_drainTaken : ((s.drainTaken c j).core c).drained =
    if j.stage = 0 then s.unitLoft c (engUnit j.cmd) else (s.core c).drained := by
  unfold State.drainTaken
  split
  · rw [State.replaceJob, State.core_modCore, State.core_modCore]
    rfl
  · rfl

/-- A restore changes entries of the loft alone (R127). -/
theorem worked_drainRestore (s : State) (o : DrainOp) (add : Bool) : Worked (fun _ => True) s (drainRestore s o add).1 := by
  refine foldl_keeps (fun a : State × Bool => Worked (fun _ => True) s a.1) _ (fun a e ha => ?_) _ _ (Worked.refl s)
  refine foldl_keeps (fun a : State × Bool => Worked (fun _ => True) s a.1) _ (fun a v ha => ?_) _ _ ha
  refine foldl_keeps (fun a : State × Bool => Worked (fun _ => True) s a.1) _ (fun a col ha => ?_) _ _ ha
  dsimp only
  split
  · exact ha.setLoft trivial _
  · exact ha.setLoft trivial _

theorem worked_restoreSlot (s : State) (c : CoreId) (j : Job) : Worked (fun _ => True) s (s.restoreSlot c j) := by
  have hload := worked_drainRestore s (drainOp c j.cmd j.desc j.m j.n j.slots) (cb j.cmd 1 11)
  unfold State.restoreSlot
  dsimp only
  split
  · exact hload.setSlotSat _ _ _ _
  · exact hload

theorem slotRead_restoreSlot (hexec : ((s.core c).unit 9).exec = j :: r) :
    SlotRead c j s ((s.restoreSlot c j).replaceJob c 9 j.pastRead) := by
  have hwork := worked_restoreSlot s c j
  exact .replaceJob (hwork.unitUp c) (by rw [hwork.frame]) (by rw [hwork.core]; exact hexec)

/-! ## The last read of a DRAIN -/

theorem drainRead_of_read (hexec : ((s.core c).unit 9).exec = j :: r) (hst : j.stage = 1) : s.drainRead c = s := by
  simp [State.drainRead, hexec, hst]

theorem drainRead_of_noop (hexec : ((s.core c).unit 9).exec = j :: r) (hop : opcode j.cmd = OP_DRAIN) (hst : j.stage ≤ 1)
    (hn : drainNoop j = true) : s.drainRead c = s.drainSkipped c j := by
  by_cases h0 : j.stage = 0
  · simp [State.drainRead, State.drainSkipped, hexec, isDrain, hop, h0, hn, Job.pastRead]
  · rw [drainRead_of_read hexec (by omega), State.drainSkipped, if_neg h0]

theorem drainRead_of_storing (hexec : ((s.core c).unit 9).exec = j :: r) (hop : opcode j.cmd = OP_DRAIN) (hst : j.stage ≤ 1)
    (hn : drainNoop j = false) (hform : cf j.cmd 1 9 2 ≠ 2) : s.drainRead c = s.drainTaken c j := by
  by_cases h0 : j.stage = 0
  · simp [State.drainRead, State.drainTaken, hexec, isDrain, hop, h0, hn, hform, Job.pastRead]
  · rw [drainRead_of_read hexec (by omega), State.drainTaken, if_neg h0]

theorem drainRead_of_restoring (hexec : ((s.core c).unit 9).exec = j :: r) (hop : opcode j.cmd = OP_DRAIN) (hst : j.stage = 0)
    (hn : drainNoop j = false) (hform : cf j.cmd 1 9 2 = 2) :
    s.drainRead c = s.consume c 9 2 j ((s.restoreSlot c j).replaceJob c 9 j.pastRead) := by
  simp [State.drainRead, hexec, isDrain, hop, hst, hn, hform, Job.pastRead]

/-! ## A DRAIN completes after its last read -/

/-- A DRAIN writes its result, drops the entries it has read, and completes. -/
def State.drainDone (s : State) (c : CoreId) (j : Job) (o : OutSet) : State :=
  ((s.writeOut c j o).modCore c fun k => { k with drained := [] }).finDone c j

/-- What a DRAIN does after its last read: unless it restores, it meets the poison in its other operands (R421). -/
def State.drainOver (s : State) (c : CoreId) : State :=
  match ((s.core c).unit 9).exec with
  | j :: _ =>
    if isDrain j && s.unitUp c then
      if cf j.cmd 1 9 2 = 2 then s.drainDone c j (s.drainOut c j) else s.consume c 9 2 j (s.drainDone c j (s.drainOut c j))
    else s
  | [] => s

theorem drainEnd_eq (s : State) (c : CoreId) : s.drainEnd c = (s.drainRead c).drainOver c := rfl

/-- After a core fault nothing completes (R220). -/
theorem drainOver_of_down (h : s.unitUp c = false) : s.drainOver c = s := by
  unfold State.drainOver
  split
  · rw [if_neg (by simp [h])]
  · rfl

theorem drainOver_of_slotRead (h : SlotRead c j s t) (hup : s.unitUp c = true) (hop : opcode j.cmd = OP_DRAIN) :
    t.drainOver c = if cf j.cmd 1 9 2 = 2 then t.drainDone c j.pastRead (t.drainOut c j.pastRead)
      else t.consume c 9 2 j (t.drainDone c j.pastRead (t.drainOut c j.pastRead)) := by
  obtain ⟨htup, -, r, hexec⟩ := h
  have hd : isDrain j.pastRead = true := beq_iff_eq.2 hop
  simp only [State.drainOver, hexec, hd, htup, hup, Bool.and_self, if_true]
  rfl

/-- Past its read, with no poison in what it reads, a DRAIN writes its result and completes. -/
theorem drainOver_of_clean (h : SlotRead c j s t) (hup : s.unitUp c = true) (hop : opcode j.cmd = OP_DRAIN)
    (hw : cf j.cmd 1 9 2 = 2 ∨ s.jobPoison c j = none) :
    t.drainOver c = t.drainDone c j.pastRead (t.drainOut c j.pastRead) := by
  rw [drainOver_of_slotRead h hup hop]
  split
  · rfl
  next hform => rw [consume_of_clean ((State.jobPoison_of_mem h.mem c j).trans (hw.resolve_left hform))]

theorem drainOver_of_poison (h : SlotRead c j s t) (hup : s.unitUp c = true) (hop : opcode j.cmd = OP_DRAIN)
    (hform : cf j.cmd 1 9 2 ≠ 2) {w : Nat} (hw : s.jobPoison c j = some w) :
    t.drainOver c = t.coreFault c 9 (poisonRec OP_DRAIN j.ctx 9 2 w false) := by
  rw [drainOver_of_slotRead h hup hop, if_neg hform, consume_of_poison ((State.jobPoison_of_mem h.mem c j).trans hw), hop]

/-! ## What a DRAIN writes -/

theorem drainOut_of_nothing (h : drainNoop j = true ∨ cf j.cmd 1 9 2 = 2) : s.drainOut c j.pastRead = noOut := by
  simp only [State.drainOut, drainNoop_pastRead, Job.cmd_pastRead, h, if_true]
  rfl

theorem drainOut_of_pairs (hn : drainNoop j = false) (hform : cf j.cmd 1 9 2 = 1) :
    s.drainOut c j.pastRead =
      bytesOut (drainPairs { s with loft := (s.core c).drained } (drainOp c j.cmd j.desc j.m j.n j.slots)) := by
  simp only [State.drainOut, drainNoop_pastRead, Job.cmd_pastRead, hn, hform]
  rfl

theorem drainOut_of_values (hn : drainNoop j = false) (hres : cf j.cmd 1 9 2 ≠ 2) (hpair : cf j.cmd 1 9 2 ≠ 1) :
    s.drainOut c j.pastRead =
      outRows j.desc false (drainRows { s with loft := (s.core c).drained } (drainOp c j.cmd j.desc j.m j.n j.slots)) := by
  simp only [State.drainOut, drainNoop_pastRead, Job.cmd_pastRead, hn, hres, hpair, Bool.false_eq_true, or_self, if_false]
  rfl

/-! ## A DRAIN completes -/

theorem drainEnd_of_bad_restore (hexec : ((s.core c).unit 9).exec = j :: r) (hop : opcode j.cmd = OP_DRAIN) (hst : j.stage = 0)
    (hn : drainNoop j = false) (hform : cf j.cmd 1 9 2 = 2) {w : Nat} (hw : s.jobPoison c j = some w) :
    s.drainEnd c = s.coreFault c 9 (poisonRec OP_DRAIN j.ctx 9 2 w false) := by
  rw [drainEnd_eq, drainRead_of_restoring hexec hop hst hn hform, consume_of_poison hw, drainOver_of_down (unitUp_coreFault ..), hop]

section
variable (hup : s.unitUp c = true) (hexec : ((s.core c).unit 9).exec = j :: r) (hop : opcode j.cmd = OP_DRAIN)
include hup hexec hop

theorem drainEnd_of_noop (hst : j.stage ≤ 1) (hn : drainNoop j = true) :
    s.drainEnd c = (s.drainSkipped c j).drainDone c j.pastRead noOut := by
  rw [drainEnd_eq, drainRead_of_noop hexec hop hst hn,
    drainOver_of_clean (slotRead_drainSkipped hexec hst) hup hop (.inr (State.jobPoison_of_drainNoop s c hop hn)), drainOut_of_nothing (.inl hn)]

theorem drainEnd_of_poison (hst : j.stage ≤ 1) (hn : drainNoop j = false) (hform : cf j.cmd 1 9 2 ≠ 2) {w : Nat}
    (hw : s.jobPoison c j = some w) : s.drainEnd c = (s.drainTaken c j).coreFault c 9 (poisonRec OP_DRAIN j.ctx 9 2 w false) := by
  rw [drainEnd_eq, drainRead_of_storing hexec hop hst hn hform, drainOver_of_poison (slotRead_drainTaken hexec hst) hup hop hform hw]

theorem drainEnd_of_storing (hst : j.stage ≤ 1) (hn : drainNoop j = false) (hform : cf j.cmd 1 9 2 ≠ 2) (hw : s.jobPoison c j = none) :
    s.drainEnd c = (s.drainTaken c j).drainDone c j.pastRead ((s.drainTaken c j).drainOut c j.pastRead) := by
  rw [drainEnd_eq, drainRead_of_storing hexec hop hst hn hform, drainOver_of_clean (slotRead_drainTaken hexec hst) hup hop (.inr hw)]

theorem drainEnd_of_values (hst : j.stage ≤ 1) (hn : drainNoop j = false) (hres : cf j.cmd 1 9 2 ≠ 2) (hpair : cf j.cmd 1 9 2 ≠ 1)
    (hw : s.jobPoison c j = none) : s.drainEnd c = (s.drainTaken c j).drainDone c j.pastRead (outRows j.desc false
      (drainRows (s.drainSight c j) (drainOp c j.cmd j.desc j.m j.n j.slots))) := by
  rw [drainEnd_of_storing hup hexec hop hst hn hres hw, drainOut_of_values hn hres hpair, drained_drainTaken,
    drainRows_of_mem (slotRead_drainTaken hexec hst).mem]
  rfl

theorem drainEnd_of_pairs (hst : j.stage ≤ 1) (hn : drainNoop j = false) (hform : cf j.cmd 1 9 2 = 1) (hw : s.jobPoison c j = none) :
    s.drainEnd c = (s.drainTaken c j).drainDone c j.pastRead (bytesOut
      (drainPairs (s.drainSight c j) (drainOp c j.cmd j.desc j.m j.n j.slots))) := by
  rw [drainEnd_of_storing hup hexec hop hst hn (by omega) hw, drainOut_of_pairs hn hform, drained_drainTaken]
  rfl

theorem drainEnd_of_restore (hst : j.stage = 0) (hn : drainNoop j = false) (hform : cf j.cmd 1 9 2 = 2) (hw : s.jobPoison c j = none) :
    s.drainEnd c = ((s.restoreSlot c j).replaceJob c 9 j.pastRead).drainDone c j.pastRead noOut := by
  rw [drainEnd_eq, drainRead_of_restoring hexec hop hst hn hform, consume_of_clean hw,
    drainOver_of_clean (slotRead_restoreSlot hexec) hup hop (.inl hform), drainOut_of_nothing (.inr hform)]

theorem drainEnd_of_restored (hst : j.stage = 1) (hform : cf j.cmd 1 9 2 = 2) : s.drainEnd c = s.drainDone c j.pastRead noOut := by
  rw [drainEnd_eq, drainRead_of_read hexec hst, drainOver_of_clean (.of_read hexec hst) hup hop (.inl hform),
    drainOut_of_nothing (.inr hform)]

end

/-! ## FIN and OPT -/

theorem finEnd_of_fin (hexec : ((s.core c).unit 9).exec = j :: r) (hop : opcode j.cmd = OP_FIN) :
    s.finEnd c = s.consume c 9 2 j (if j.cnt = 0 ∨ j.desc.len = 0 then s.finDone c j
      else ((s.writeOut c j (finOut s.mem c j)).writeSegs c (finRecs s.mem c j)).finDone c j) := by
  simp only [State.finEnd, hexec, hop, if_true]

theorem optEnd_of_opt (hexec : ((s.core c).unit 9).exec = j :: r) (hop : opcode j.cmd = OP_OPT) :
    s.optEnd c = s.consume c 9 2 j (if j.cnt = 0 then s.finDone c j
      else (((s.writeSegs c (optSegs s.mem c j)).optMonitor c j (optPar s.mem c j) (optRun s.mem c j)).writeOut c j
        (optCopy s.mem c j)).finDone c j) := by
  simp only [State.optEnd, hexec, hop, if_true]

theorem optCopy_of_none {mem : Mem} (h : cb j.cmd 7 21 = false) : optCopy mem c j = noOut := by
  simp only [optCopy, h]
  rfl

theorem optCopy_of_some {mem : Mem} (h : cb j.cmd 7 21 = true) : optCopy mem c j =
    outRows j.desc false [{ row := 0, col := 0, vals := (optRun mem c j).map (·.copy), pad := 0, bad := [] }] := by
  simp only [optCopy, h, if_true]

end

/-- Settles O28: a DRAIN by its read and then its form, FIN and OPT by their poison and then their shape. -/
theorem finishingUnitCompletes : Obligations.FinishingUnitCompletes := by
  intro c j r s hup hexec
  have hdrain : exec (.drainComplete c) s = .next (s.drainEnd c) := unitAct_of_up hup 9 fun s => s.drainEnd c
  have hfin : exec (.finComplete c) s = .next (s.finEnd c) := unitAct_of_up hup 9 fun s => s.finEnd c
  have hopt : exec (.optComplete c) s = .next (s.optEnd c) := unitAct_of_up hup 9 fun s => s.optEnd c
  refine ⟨fun hop hst => ⟨fun e i he hi h0 => ?entries, fun hn => ?noop, fun hn hform w hw => ?poison,
      fun hn hres hpair hw => ?values, fun hform hn hw => ?pairs, fun hform hn h0 => ⟨fun w hw => ?badRestore, fun hw => ?restore⟩,
      fun hform hn h1 => ?restored⟩,
    fun hop => ⟨fun w hw => ?finPoison, fun hw => ⟨fun hz => ?finZero, fun hcnt hlen => ?finRuns⟩⟩,
    fun hop => ⟨fun w hw => ?optPoison, fun hw => ⟨fun hz => ?optZero, fun hcnt hcopy => ?optPlain, fun hcnt hcopy => ?optCopies⟩⟩⟩
  case entries =>
    rw [if_pos h0]
    exact s.loftAt_unitLoft c (engUnit j.cmd) he hi
  case noop => exact hdrain.trans (congrArg _ (drainEnd_of_noop hup hexec hop hst hn))
  case poison => exact hdrain.trans (congrArg _ (drainEnd_of_poison hup hexec hop hst hn hform hw))
  case values => exact hdrain.trans (congrArg _ (drainEnd_of_values hup hexec hop hst hn hres hpair hw))
  case pairs => exact hdrain.trans (congrArg _ (drainEnd_of_pairs hup hexec hop hst hn hform hw))
  case badRestore => exact hdrain.trans (congrArg _ (drainEnd_of_bad_restore hexec hop h0 hn hform hw))
  case restore => exact hdrain.trans (congrArg _ (drainEnd_of_restore hup hexec hop h0 hn hform hw))
  case restored => exact hdrain.trans (congrArg _ (drainEnd_of_restored hup hexec hop h1 hform))
  case finPoison => rw [hfin, finEnd_of_fin hexec hop, consume_of_poison hw, hop]
  case finZero => rw [hfin, finEnd_of_fin hexec hop, consume_of_clean hw, if_pos hz]
  case finRuns =>
    rw [hfin, finEnd_of_fin hexec hop, consume_of_clean hw, if_neg (not_or.2 ⟨hcnt, hlen⟩)]
    rfl
  case optPoison => rw [hopt, optEnd_of_opt hexec hop, consume_of_poison hw, hop]
  case optZero => rw [hopt, optEnd_of_opt hexec hop, consume_of_clean hw, if_pos hz]
  case optPlain =>
    rw [hopt, optEnd_of_opt hexec hop, consume_of_clean hw, if_neg hcnt, optCopy_of_none hcopy, State.writeOut_noOut]
    rfl
  case optCopies =>
    rw [hopt, optEnd_of_opt hexec hop, consume_of_clean hw, if_neg hcnt, optCopy_of_some hcopy]
    rfl

end Sys2Proof.Machine
end

section
/-! What a completion leaves of the power manager (R386, R426): settling a core changes no recorded decision. -/

namespace Sys2Proof.Machine
open Sys2Proof

/-! ## Registers and memory -/

theorem foldl_power {β : Type} {f : State → β → State} (hf : ∀ t b, (f t b).power = t.power) (l : List β) (s : State) :
    (l.foldl f s).power = s.power := foldl_keeps (fun t => t.power = s.power) f (fun t b ht => (hf t b).trans ht) l s rfl

theorem foldl_fst_power {α β : Type} {f : State × α → β → State × α} (hf : ∀ a b, (f a b).1.power = a.1.power) (l : List β)
    (a : State × α) : (l.foldl f a).1.power = a.1.power :=
  foldl_keeps (fun b => b.1.power = a.1.power) f (fun b x hb => (hf b x).trans hb) l a rfl

@[simp] theorem State.bump_power (s : State) (p : Page) (i n : Nat) : (s.bump p i n).power = s.power := by rw [s.bump_frame]

@[simp] theorem State.recordBehind_power (s : State) (p : Page) (r : Rec) : (s.recordBehind p r).power = s.power :=
  State.event_power ..

/-- Changes of registers only, one after the other. -/
theorem regsOnly_trans {s t u : State} (h : t = { s with regs := t.regs }) (k : u = { t with regs := u.regs }) :
    u = { s with regs := u.regs } := by
  rw [h] at k
  exact k

/-- Counting what an access moves changes registers only. -/
theorem State.countAccess_frame (s : State) (a n i : Nat) : s.countAccess a n i = { s with regs := (s.countAccess a n i).regs } := by
  unfold State.countAccess
  split
  · exact s.bump_frame _ _ _
  · exact s.bump_frame _ _ _
  · rfl

theorem State.countPoison_frame (s : State) (a n : Nat) : s.countPoison a n = { s with regs := (s.countPoison a n).regs } := by
  unfold State.countPoison
  split
  · split
    · rfl
    · exact s.bump_frame _ _ _
  · rfl

theorem State.countRead_frame (s : State) (a n : Nat) : s.countRead a n = { s with regs := (s.countRead a n).regs } :=
  forRange_keeps (fun t : State => t = { s with regs := t.regs }) _ _
    (fun _ _ ht => regsOnly_trans ht (regsOnly_trans (State.countAccess_frame ..) (State.countPoison_frame ..))) _ rfl

@[simp] theorem State.countAccess_power (s : State) (a n i : Nat) : (s.countAccess a n i).power = s.power := by
  rw [s.countAccess_frame]

@[simp] theorem State.countRead_power (s : State) (a n : Nat) : (s.countRead a n).power = s.power := by rw [s.countRead_frame]

@[simp] theorem State.pkgWrite_power (s : State) (k a : Nat) (l : List (Byte × Bool)) : (s.pkgWrite k a l).power = s.power := by
  have hmerge : (s.countMerge a l.length).power = s.power := by
    unfold State.countMerge
    split
    · exact s.bump_power _ _ _
    · rfl
  simp [State.pkgWrite, hmerge]

@[simp] theorem State.coreWrite_power (s : State) (c : CoreId) (k a : Nat) (l : List (Byte × Bool)) :
    (s.coreWrite c k a l).power = s.power := by
  unfold State.coreWrite
  split
  · split
    · exact s.pkgWrite_power _ _ _
    · exact s.pkgWrite_power _ _ _
  · exact s.pkgWrite_power _ _ _

@[simp] theorem State.writeSegs_power (s : State) (c : CoreId) (l : List OutSeg) : (s.writeSegs c l).power = s.power := by
  refine foldl_power (fun t g => foldl_power (fun t p => ?_) _ t) _ s
  split
  · exact t.coreWrite_power _ _ _ _
  · rfl

/-! ## Signals and waits -/

@[simp] theorem State.postRemote_power (s : State) (c : CoreId) (x : CtxId) (g : SigTarget) (n : Nat) (dec : Bool) (job : Option Job) :
    (s.postRemote c x g n dec job).1.power = s.power := rfl

@[simp] theorem State.putSync_power (s : State) (c : CoreId) (word : Nat) (w : SyncWord) : (s.putSync c word w).power = s.power := rfl

@[simp] theorem State.retire_power (s : State) (c : CoreId) (uid : Nat) : (s.retire c uid).power = s.power := rfl

theorem State.released_power {post : State → CtxId → SigTarget → State} (hpost : ∀ u x g, (post u x g).power = u.power) (s : State)
    (c : CoreId) (w : Wait) : (State.released post s c w).power = s.power := by
  unfold State.released
  dsimp only
  split
  · split
    · split
      · rfl
      · exact hpost _ _ _
    · rfl
  · rfl

@[simp] theorem State.releaseLoop_power (s : State) (c : CoreId) (word n : Nat) : (s.releaseLoop c word n).1.power = s.power := by
  unfold State.releaseLoop
  split <;> rfl

theorem State.syncSignal_power (f : Nat) (s : State) (c : CoreId) (word n : Nat) (g : W16) :
    (State.syncSignal f s c word n g).power = s.power := by
  induction f generalizing s word n g with
  | zero => rfl
  | succ f ih =>
    unfold State.syncSignal
    split
    · rfl
    · have hpost (v : State) (x : CtxId) (t : SigTarget) :
          (if t.core = c then State.syncSignal f v c t.word 1 (gcidOf c x) else (v.postRemote c x t 1 false none).1).power = v.power := by
        split
        · exact ih _ _ _ _
        · exact v.postRemote_power _ _ _ _ _ _
      dsimp only
      rw [foldl_power fun u w => State.released_power hpost u c w, State.bump_power, State.countSync, State.bump_power,
        State.putSync_power, State.releaseLoop_power]

@[simp] theorem State.signal_power (s : State) (c : CoreId) (x : CtxId) (g : SigTarget) (n : Nat) (job : Option Job) :
    (s.signal c x g n job).power = s.power := by
  unfold State.signal
  split
  · exact State.syncSignal_power _ _ _ _ _ _
  · exact s.postRemote_power _ _ _ _ _ _

@[simp] theorem State.enqueueWait_power (s : State) (c : CoreId) (w : Wait) : (s.enqueueWait c w).power = s.power := by
  simp [State.enqueueWait]

@[simp] theorem State.arrive_power (s : State) (l : LineId) (c : CoreId) (on : Bool) : (s.arrive l c on).power = s.power := by
  unfold State.arrive
  dsimp only
  split
  · rfl
  · split <;> exact State.setPg64_power ..

/-! ## Completions and RERUN -/

@[simp] theorem State.setPc_power (s : State) (c : CoreId) (x : CtxId) (v : Nat) : (s.setPc c x v).power = s.power := rfl

@[simp] theorem State.stepPc_power (s : State) (c : CoreId) (x : CtxId) (off : Nat) : (s.stepPc c x off).power = s.power := rfl

@[simp] theorem State.complete_power (s : State) (c : CoreId) (j : Job) : (s.complete c j).power = s.power := by
  unfold State.complete
  dsimp only
  split
  · split
    · rfl
    · exact State.signal_power ..
  · rfl

@[simp] theorem State.unholdCtx_power (s : State) (c : CoreId) (x : CtxId) : (s.unholdCtx c x).power = s.power := rfl

@[simp] theorem State.foundFault_power (s : State) (c : CoreId) (x : CtxId) (r : Rec) (off : Nat) (w : Option Cmd) :
    (s.foundFault c x r off w).power = s.power := rfl

@[simp] theorem State.setRerun_power (s : State) (c : CoreId) (j : Job) (pooled taken fault : Bool) (value : Nat) :
    (s.setRerun c j pooled taken fault value).power = s.power := (State.setPg_power ..).trans (State.setPg_power ..)

@[simp] theorem State.rerunSnap_power (s : State) (c : CoreId) (j : Job) : (s.rerunSnap c j).power = s.power := by
  unfold State.rerunSnap
  dsimp only
  split <;> rfl

theorem State.rerunOutcome_power {go : State → State} (hgo : ∀ u, (go u).power = u.power) (s : State) (c : CoreId) (j : Job) (value : Nat)
    (pooled : Bool) : (s.rerunOutcome c j value pooled go).power = s.power := by
  unfold State.rerunOutcome
  dsimp only
  split
  · rw [State.complete_power, hgo, State.stepPc_power, State.setRerun_power]
  · split
    · rw [State.foundFault_power, State.retire_power, State.setRerun_power]
    · rw [State.complete_power, hgo, State.setPc_power, State.setRerun_power]

@[simp] theorem State.rerunRun_power (s : State) (c : CoreId) (j : Job) : (s.rerunRun c j).power = s.power := by
  have hgo (u : State) : (u.unholdCtx c j.ctx).power = u.power := rfl
  unfold State.rerunRun
  dsimp only
  split
  · split
    · simp
    · rw [State.rerunOutcome_power hgo, State.bump_power, State.rerunSnap_power]
  · rw [State.rerunOutcome_power hgo, State.rerunSnap_power]

/-! ## Settling -/

@[simp] theorem State.haltDone_power (s : State) (c : CoreId) (j : Job) (code : W16) : (s.haltDone c j code).power = s.power := by
  simp [State.haltDone]

@[simp] theorem State.resetDone_power (s : State) (c : CoreId) (x : CtxId) : (s.resetDone c x).power = s.power := rfl

@[simp] theorem State.settleCtx_power (s : State) (c : CoreId) (x : CtxId) : (s.settleCtx c x).1.power = s.power := by
  have hdrop : (if (s.ctx c x).resetting then s.dropHalted c x else s).power = s.power := by split <;> rfl
  unfold State.settleCtx
  generalize (if (s.ctx c x).resetting then s.dropHalted c x else s) = u at hdrop ⊢
  rw [← hdrop]
  dsimp only
  split
  · split
    · rfl
    · exact State.complete_power ..
  · split
    · exact u.rerunRun_power _ _
    · rfl
  · split
    · exact u.haltDone_power _ _ _
    · rfl
  · split <;> rfl

@[simp] theorem State.startFin_power (s : State) (c : CoreId) : (s.startFin c).1.power = s.power := by
  unfold State.startFin
  dsimp only
  split
  · split <;> rfl
  · rfl

@[simp] theorem State.settleOnce_power (s : State) (c : CoreId) : (s.settleOnce c).1.power = s.power := by
  unfold State.settleOnce
  dsimp only
  refine (foldl_fst_power (fun a x => ?_) _ _).trans (s.startFin_power c)
  exact a.1.settleCtx_power c x

@[simp] theorem State.settleN_power (f : Nat) (s : State) (c : CoreId) : (State.settleN f s c).power = s.power := by
  induction f generalizing s with
  | zero => rfl
  | succ f ih =>
    unfold State.settleN
    split
    · rfl
    · have honce := s.settleOnce_power c
      generalize s.settleOnce c = p at honce ⊢
      dsimp only
      split
      · exact (ih _).trans honce
      · exact honce

@[simp] theorem State.present_power (s : State) (c : CoreId) : (s.present c).power = s.power := s.writeSegs_power c _

@[simp] theorem State.restoreVar_power (s : State) (c : CoreId) : (s.restoreVar c).power = s.power := by
  unfold State.restoreVar
  split <;> rfl

/-- The end of a core reset takes arrivals from the power manager, and no decision (R426). -/
theorem State.coreResetDone_decisions (s : State) (c : CoreId) : (s.coreResetDone c).power.decisions = s.power.decisions := by
  have hpresent : (if (s.core c).fault then s else s.present c).power = s.power := by split <;> simp
  unfold State.coreResetDone
  dsimp only
  rw [State.modPower_power, foldl_power fun t l => t.arrive_power l c false]
  dsimp only
  rw [State.modCore_power, State.setPg_power]
  exact congrArg Power.decisions ((State.restoreVar_power _ c).trans hpresent)

@[simp] theorem State.settle_decisions (s : State) (c : CoreId) : (s.settle c).power.decisions = s.power.decisions := by
  unfold State.settle
  split
  · split
    · exact s.coreResetDone_decisions c
    · rfl
  · rw [State.settleN_power]

end Sys2Proof.Machine
end

section
/-! PHASE_DECISION and POOL_DECISION (R168, R384, R386, R388): what the power manager does with the PHASE that holds a core's context 0. -/

namespace Sys2Proof.Machine
open Sys2Proof

section
variable {s : State} {c : CoreId} {j : Job} {x : Nat} {e : PhaseEntry} {pool : Bool}

theorem exec_phaseDecision (hup : s.seqUp c = true) : exec (.phaseDecision c) s = .next (s.phaseDecide c false) :=
  congrArg Host.Outcome.next (if_pos hup)

theorem exec_poolDecision (hup : s.seqUp c = true) : exec (.poolDecision c) s = .next (s.phaseDecide c true) :=
  congrArg Host.Outcome.next (if_pos hup)

/-! ## A decision followed -/

/-- A core goes on by a decision that it has taken: behind its pool's exit, at the member decided, or with the phase itself. -/
def State.follow (s : State) (c : CoreId) (j : Job) (x : Nat) (e : PhaseEntry) (d : Decision) : State :=
  if d.exit then (s.restoreVar c).phaseEnd c j (j.off + 9)
  else
    match d.member with
    | some k => s.takeVariant c j x (((s.power.pools[e.pool.toNat]?).map fun q => q.member[Fin.ofNat 8 k]).getD x) d.var d.cause (j.off + 1 + k)
    | none => s.takeVariant c j x x d.var d.cause 0

theorem State.follow_of_exit {d : Decision} (h : d.exit = true) : s.follow c j x e d = (s.restoreVar c).phaseEnd c j (j.off + 9) := if_pos h

theorem State.follow_of_member {d : Decision} {k : Nat} (h : d.exit = false) (hk : d.member = some k) : s.follow c j x e d =
    s.takeVariant c j x (((s.power.pools[e.pool.toNat]?).map fun q => q.member[Fin.ofNat 8 k]).getD x) d.var d.cause (j.off + 1 + k) := by
  simp only [State.follow, h, hk, Bool.false_eq_true, if_false]

theorem State.follow_of_phase {d : Decision} (h : d.exit = false) (hk : d.member = none) :
    s.follow c j x e d = s.takeVariant c j x x d.var d.cause 0 := by
  simp only [State.follow, h, hk, Bool.false_eq_true, if_false]

/-! ## The PHASE that holds context 0 -/

theorem State.phaseDecide_of_not_held (h : ∀ j x, (s.ctx c 0).hold ≠ .phase j x none) (pool : Bool) : s.phaseDecide c pool = s := by
  unfold State.phaseDecide
  split
  next j x hx => exact absurd hx (h j x)
  next => rfl

/-- While the table is loaded the PHASE stays held (R384). -/
theorem State.phaseDecide_of_loading (hhold : (s.ctx c 0).hold = .phase j x none) (hload : bit (s.pg .pwr PWR_PT_CTL) 0 = true) (pool : Bool) :
    s.phaseDecide c pool = s := by
  simp only [State.phaseDecide, hhold, hload, if_true]

section
variable (hhold : (s.ctx c 0).hold = .phase j x none) (hload : bit (s.pg .pwr PWR_PT_CTL) 0 = false)
include hhold hload

/-- An entry that was not copied is decided as an ordinary phase of the core alone (R384). -/
theorem State.phaseDecide_of_beyond (he : s.phase? x = none) : s.phaseDecide c false = s.phaseBeyond c j x := by
  simp only [State.phaseDecide, hhold, hload, he, Bool.false_eq_true, if_false]

theorem State.phaseDecide_pool_of_beyond (he : s.phase? x = none) : s.phaseDecide c true = s := by
  simp only [State.phaseDecide, hhold, hload, he, Bool.false_eq_true, if_false, if_true]

variable (he : s.phase? x = some e)
include he

/-- A row decides the entries of its own kind alone. -/
theorem State.phaseDecide_of_other (hkind : (e.pool != 0xFFFF) ≠ pool) : s.phaseDecide c pool = s := by
  have hother : ((e.pool != 0xFFFF) != pool) = true := bne_iff_ne.2 hkind
  simp only [State.phaseDecide, hhold, hload, he, hother, Bool.false_eq_true, if_false, if_true]

theorem State.phaseDecide_of_kind (hkind : (e.pool != 0xFFFF) = pool) : s.phaseDecide c pool =
    if !maskHas e.mask c then (s.restoreVar c).phaseEnd c j (if pool then j.off + 9 else 0)
    else if s.windowFull x (s.instOf c x) e.mask then s
    else
      let p := s.decide? x (s.instOf c x) e pool
      ((p.1.take c p.2).countArrival c x).follow c j x e p.2 := by
  simp only [State.phaseDecide, hhold, hload, he, hkind, bne_self_eq_false, Bool.false_eq_true, if_false]
  rfl

/-- A core outside the mask goes on, at a pool behind its exit. -/
theorem State.phaseDecide_of_outside (hkind : (e.pool != 0xFFFF) = pool) (hmask : maskHas e.mask c = false) :
    s.phaseDecide c pool = (s.restoreVar c).phaseEnd c j (if pool then j.off + 9 else 0) := by
  simp only [phaseDecide_of_kind hhold hload he hkind, hmask, Bool.not_false, if_true]

variable (hmask : maskHas e.mask c = true)
include hmask

/-- A core whose window is full stays held (R386). -/
theorem State.phaseDecide_of_full (hfull : s.windowFull x (s.instOf c x) e.mask = true) (pool : Bool) : s.phaseDecide c pool = s := by
  by_cases hkind : (e.pool != 0xFFFF) = pool
  · simp only [phaseDecide_of_kind hhold hload he hkind, hmask, hfull, Bool.not_true, Bool.false_eq_true, if_false, if_true]
  · exact phaseDecide_of_other hhold hload he hkind

/-- A core whose window is open takes the decision of its arrival, recorded or made now, and follows it. -/
theorem State.phaseDecide_of_open (hkind : (e.pool != 0xFFFF) = pool) (hopen : s.windowFull x (s.instOf c x) e.mask = false) :
    s.phaseDecide c pool =
      let p := s.decide? x (s.instOf c x) e pool
      ((p.1.take c p.2).countArrival c x).follow c j x e p.2 := by
  simp only [phaseDecide_of_kind hhold hload he hkind, hmask, hopen, Bool.not_true, Bool.false_eq_true, if_false]

end
end

/-- All that the power manager can do with a core: leave it, decide a PHASE beyond the table, let a core outside the mask go on, or have
it take a decision and follow it. -/
theorem State.phaseDecide_cases (s : State) (c : CoreId) (pool : Bool) :
    s.phaseDecide c pool = s ∨ (∃ j x, s.phaseDecide c pool = s.phaseBeyond c j x) ∨
      (∃ j next, s.phaseDecide c pool = (s.restoreVar c).phaseEnd c j next) ∨
      ∃ j x e, s.phaseDecide c pool =
        let p := s.decide? x (s.instOf c x) e pool
        ((p.1.take c p.2).countArrival c x).follow c j x e p.2 := by
  by_cases hheld : ∃ j x, (s.ctx c 0).hold = .phase j x none
  case neg => exact .inl (State.phaseDecide_of_not_held (fun j x hx => hheld ⟨j, x, hx⟩) pool)
  obtain ⟨j, x, hhold⟩ := hheld
  cases hload : bit (s.pg .pwr PWR_PT_CTL) 0 with
  | true => exact .inl (State.phaseDecide_of_loading hhold hload pool)
  | false =>
    cases he : s.phase? x with
    | none =>
      cases pool with
      | true => exact .inl (State.phaseDecide_pool_of_beyond hhold hload he)
      | false => exact .inr (.inl ⟨j, x, State.phaseDecide_of_beyond hhold hload he⟩)
    | some e =>
      by_cases hkind : (e.pool != 0xFFFF) = pool
      case neg => exact .inl (State.phaseDecide_of_other hhold hload he hkind)
      cases hmask : maskHas e.mask c with
      | false => exact .inr (.inr (.inl ⟨j, _, State.phaseDecide_of_outside hhold hload he hkind hmask⟩))
      | true =>
        cases hfull : s.windowFull x (s.instOf c x) e.mask with
        | true => exact .inl (State.phaseDecide_of_full hhold hload he hmask hfull pool)
        | false => exact .inr (.inr (.inr ⟨j, x, e, State.phaseDecide_of_open hhold hload he hmask hkind hfull⟩))

end Sys2Proof.Machine
end

section
/-! Recorded decisions (R168, R386, R388): what PHASE_DECISION, POOL_DECISION and VARIANT_CHANGE do to them. -/

namespace Sys2Proof.Machine
open Sys2Proof

/-! ## The records themselves (R386) -/

theorem State.decision?_congr {s t : State} (h : t.power.decisions = s.power.decisions) (x n : Nat) : t.decision? x n = s.decision? x n := by
  rw [State.decision?, State.decision?, h]

/-- A core's mark on a decision that it takes; what was decided stays. -/
def markTaken (c : CoreId) (d e : Decision) : Decision :=
  if e.entry = d.entry ∧ e.inst = d.inst then { e with taken := e.taken ||| (1 : W64) <<< c.val } else e

theorem markTaken_eq (c : CoreId) (d e : Decision) : markTaken c d e = { e with taken := (markTaken c d e).taken } := by
  unfold markTaken
  split <;> rfl

/-- Taking a decision finds every decision as before, marked. -/
theorem State.decision?_take (s : State) (c : CoreId) (d : Decision) (x n : Nat) :
    (s.take c d).decision? x n = (s.decision? x n).map (markTaken c d) := by
  have hkey : ((fun e : Decision => e.entry == x && e.inst == n) ∘ markTaken c d) = fun e => e.entry == x && e.inst == n := by
    funext e
    rw [Function.comp_apply, markTaken_eq]
  change (s.power.decisions.map (markTaken c d)).find? _ = _
  rw [List.find?_map, hkey, State.decision?]

theorem State.keepDecision_decisions (s : State) (d : Decision) : (s.keepDecision d).power.decisions =
    d :: s.power.decisions.filter fun e => !(e.entry == d.entry && decide (e.inst + 16 ≤ d.inst)) := by
  rw [State.keepDecision, State.bump_power, State.modPower_power]

/-- A decision kept is found by its entry and number; of the others of its entry those 16 or more back are gone (R386). -/
theorem State.decision?_keepDecision (s : State) (d : Decision) (x n : Nat) :
    (s.keepDecision d).decision? x n =
      if d.entry = x ∧ d.inst = n then some d else if x = d.entry ∧ n + 16 ≤ d.inst then none else s.decision? x n := by
  rw [State.decision?, State.keepDecision_decisions, List.find?_cons, List.find?_filter]
  by_cases hnew : d.entry = x ∧ d.inst = n
  · simp [hnew]
  · have hkey : (d.entry == x && d.inst == n) = false := by simpa using hnew
    simp only [hkey, if_neg hnew]
    by_cases hold : x = d.entry ∧ n + 16 ≤ d.inst
    · rw [if_pos hold, List.find?_eq_none]
      intro e _ he
      obtain ⟨hleft, hfound⟩ := of_decide_eq_true he
      simp only [Bool.and_eq_true, beq_iff_eq] at hfound
      obtain ⟨rfl, rfl⟩ := hfound
      simp [hold] at hleft
    · rw [if_neg hold, State.decision?]
      congr 1
      funext e
      rw [Bool.eq_iff_iff, decide_eq_true_iff]
      refine and_iff_right_of_imp fun hfound => ?_
      simp only [Bool.and_eq_true, beq_iff_eq] at hfound
      obtain ⟨rfl, rfl⟩ := hfound
      simpa using not_and_or.1 hold

/-- A decision carries the entry and the number that it is made for. -/
theorem State.decidePhase_key (s : State) (x n : Nat) (e : PhaseEntry) : (s.decidePhase x n e).entry = x ∧ (s.decidePhase x n e).inst = n :=
  ⟨rfl, rfl⟩

theorem State.decidePool_key (s : State) (x n : Nat) (e : PhaseEntry) : (s.decidePool x n e).entry = x ∧ (s.decidePool x n e).inst = n := by
  unfold State.decidePool
  dsimp only
  split <;> exact ⟨rfl, rfl⟩

/-! ## Recorded, or made now -/

theorem State.decide?_of_recorded {s : State} {x n : Nat} {d : Decision} (h : s.decision? x n = some d) (e : PhaseEntry) (pool : Bool) :
    s.decide? x n e pool = (s, d) := by
  rw [State.decide?, h]

/-- The decision made where none is recorded. -/
def State.newDecision (s : State) (x n : Nat) (e : PhaseEntry) (pool : Bool) : Decision :=
  if pool then s.decidePool x n e else s.decidePhase x n e

theorem State.newDecision_key (s : State) (x n : Nat) (e : PhaseEntry) (pool : Bool) :
    (s.newDecision x n e pool).entry = x ∧ (s.newDecision x n e pool).inst = n := by
  cases pool
  · exact s.decidePhase_key x n e
  · exact s.decidePool_key x n e

/-- Where none is recorded one is made and kept. -/
theorem State.decide?_of_none {s : State} {x n : Nat} (h : s.decision? x n = none) (e : PhaseEntry) (pool : Bool) :
    (s.decide? x n e pool).2 = s.newDecision x n e pool ∧
      (s.decide? x n e pool).1.power.decisions = (s.keepDecision (s.newDecision x n e pool)).power.decisions := by
  rw [State.decide?, h]
  cases pool <;> exact ⟨rfl, rfl⟩

/-! ## Decisions that stand -/

/-- Two decisions give the same variant, member and exit for the same cause. -/
def Decision.Agrees (d d' : Decision) : Prop := d'.var = d.var ∧ d'.member = d.member ∧ d'.exit = d.exit ∧ d'.cause = d.cause

theorem Decision.Agrees.refl (d : Decision) : d.Agrees d := ⟨rfl, rfl, rfl, rfl⟩

theorem Decision.Agrees.markTaken {d e : Decision} (h : d.Agrees e) (c : CoreId) (f : Decision) : d.Agrees (markTaken c f e) := by
  rw [markTaken_eq]
  exact h

/-- Every decision that t keeps of those recorded in s is the same. -/
def DecisionsKept (s t : State) : Prop := ∀ (x n : Nat) (d d' : Decision), s.decision? x n = some d → t.decision? x n = some d' → d.Agrees d'

theorem DecisionsKept.of_eq {s t : State} (h : t.power.decisions = s.power.decisions) : DecisionsKept s t := by
  intro x n d d' hd hd'
  rw [State.decision?_congr h, hd] at hd'
  cases hd'
  exact .refl d

theorem DecisionsKept.congr {s t u : State} (h : DecisionsKept s t) (hu : u.power.decisions = t.power.decisions) : DecisionsKept s u := by
  intro x n d d' hd hd'
  exact h x n d d' hd ((State.decision?_congr hu x n).symm.trans hd')

theorem DecisionsKept.take {s t : State} (h : DecisionsKept s t) (c : CoreId) (f : Decision) : DecisionsKept s (t.take c f) := by
  intro x n d d' hd hd'
  rw [State.decision?_take, Option.map_eq_some_iff] at hd'
  obtain ⟨e, he, rfl⟩ := hd'
  exact (h x n d e hd he).markTaken c f

/-- A new decision meets no other of its entry and number. -/
theorem DecisionsKept.keepDecision {s : State} {f : Decision} (h : s.decision? f.entry f.inst = none) : DecisionsKept s (s.keepDecision f) := by
  intro x n d d' hd hd'
  rw [State.decision?_keepDecision] at hd'
  split at hd'
  case isTrue hkey =>
    obtain ⟨rfl, rfl⟩ := hkey
    rw [h] at hd
    cases hd
  case isFalse =>
    split at hd'
    · cases hd'
    · rw [hd] at hd'
      cases hd'
      exact .refl d

theorem DecisionsKept.decide? (s : State) (x n : Nat) (e : PhaseEntry) (pool : Bool) : DecisionsKept s (s.decide? x n e pool).1 := by
  cases h : s.decision? x n with
  | some d => rw [State.decide?_of_recorded h]; exact .of_eq rfl
  | none =>
    obtain ⟨hentry, hinst⟩ := s.newDecision_key x n e pool
    refine (DecisionsKept.keepDecision ?_).congr (State.decide?_of_none h e pool).2
    rw [hentry, hinst, h]

/-! ## What a PHASE that ends and a variant that changes leave of them -/

@[simp] theorem State.countArrival_decisions (s : State) (c : CoreId) (x : Nat) :
    (s.countArrival c x).power.decisions = s.power.decisions := rfl

@[simp] theorem State.phaseEnd_decisions (s : State) (c : CoreId) (j : Job) (next : Nat) :
    (s.phaseEnd c j next).power.decisions = s.power.decisions := by
  unfold State.phaseEnd
  dsimp only
  rw [State.settle_decisions, State.complete_power, State.unholdCtx_power]
  split <;> rfl

@[simp] theorem State.recordForced_power (s : State) (c : CoreId) (v : Fin 4) (cause : Nat) :
    (s.recordForced c v cause).power = s.power := by
  unfold State.recordForced
  split
  · rfl
  · split
    · rfl
    · dsimp only
      split
      · rw [State.recordBehind_power, State.bump_power]
      · rw [State.record_power, State.bump_power]

@[simp] theorem State.runAt_decisions (s : State) (c : CoreId) (v : Fin 4) (cause : Nat) :
    (s.runAt c v cause).power.decisions = s.power.decisions := by
  rw [State.runAt, State.modIsland, State.modCore_power, State.recordForced_power]
  rfl

@[simp] theorem State.takeVariant_decisions (s : State) (c : CoreId) (j : Job) (x ent : Nat) (d : Fin 4) (cause next : Nat) :
    (s.takeVariant c j x ent d cause next).power.decisions = s.power.decisions := by
  unfold State.takeVariant
  generalize (if s.forced c then (s.forceVar, 0) else (d, cause)) = p
  dsimp only
  split
  · rw [State.phaseEnd_decisions, State.recordForced_power]
    rfl
  · rfl

theorem State.follow_decisions (s : State) (c : CoreId) (j : Job) (x : Nat) (e : PhaseEntry) (d : Decision) :
    (s.follow c j x e d).power.decisions = s.power.decisions := by
  unfold State.follow
  split
  · rw [State.phaseEnd_decisions, State.restoreVar_power]
  · split <;> exact State.takeVariant_decisions ..

theorem State.changeVariant_decisions (s : State) (c : CoreId) : (s.changeVariant c).power.decisions = s.power.decisions := by
  cases hgoal : (s.island c).goal with
  | none =>
    simp only [State.changeVariant, hgoal]
    split
    · exact State.phaseEnd_decisions ..
    · rfl
  | some g =>
    simp only [State.changeVariant, hgoal]
    split
    · exact (State.phaseEnd_decisions ..).trans (s.runAt_decisions ..)
    · exact s.runAt_decisions ..

theorem State.phaseBeyond_decisions (s : State) (c : CoreId) (j : Job) (x : Nat) :
    (s.phaseBeyond c j x).power.decisions = s.power.decisions := by
  unfold State.phaseBeyond
  dsimp only
  rw [State.takeVariant_decisions, State.bump_power, State.countArrival_decisions]

/-! ## The clause -/

theorem DecisionsKept.phaseDecide (s : State) (c : CoreId) (pool : Bool) : DecisionsKept s (s.phaseDecide c pool) := by
  obtain h | ⟨j, x, h⟩ | ⟨j, next, h⟩ | ⟨j, x, e, h⟩ := s.phaseDecide_cases c pool
  case inl => exact .of_eq (by rw [h])
  case inr.inl => exact .of_eq (by rw [h, State.phaseBeyond_decisions])
  case inr.inr.inl => exact .of_eq (by rw [h, State.phaseEnd_decisions, State.restoreVar_power])
  case inr.inr.inr =>
    refine ((DecisionsKept.decide? s x (s.instOf c x) e pool).take c (s.decide? x (s.instOf c x) e pool).2).congr ?_
    rw [h, State.follow_decisions, State.countArrival_decisions]

/-- A row that acts only where its unit is up leaves the decisions that its act leaves. -/
theorem DecisionsKept.ite {s t : State} (b : Bool) (h : DecisionsKept s t) : DecisionsKept s (if b then t else s) := by
  split
  · exact h
  · exact .of_eq rfl

/-- Settles O56: a decision is made only where none is recorded, a core that takes one marks it alone, and what follows touches none. -/
theorem decisionsStand : Obligations.DecisionsStand := by
  intro c i s t hi ht
  suffices h : DecisionsKept s t from h
  rcases hi with rfl | rfl | rfl
  · cases ht
    exact (DecisionsKept.phaseDecide s c false).ite (s.seqUp c)
  · cases ht
    exact (DecisionsKept.phaseDecide s c true).ite (s.seqUp c)
  · cases ht
    exact (DecisionsKept.of_eq (s.changeVariant_decisions c)).ite (s.coreUp c)

end Sys2Proof.Machine
end

section
/-! Islands and the phase table (R381, R384, R390, R392, R393): an island returns or changes, the table is copied. -/

namespace Sys2Proof.Machine
open Sys2Proof

/-! ## An island returns to its decided variant (R392, R393) -/

theorem State.restoreVar_frame (s : State) (c : CoreId) : s.restoreVar c = { s with cores := (s.restoreVar c).cores } := by
  unfold State.restoreVar
  split <;> rfl

theorem State.island_restoreVar_of_stays {s : State} {c : CoreId}
    (h : s.capped = true ∨ (s.island c).goal.isSome = true ∨ (s.island c).var = (s.island c).decided) :
    (s.restoreVar c).island c = s.island c := by
  unfold State.restoreVar
  split
  · rfl
  next hcap =>
    rw [State.island_modIsland, if_pos rfl, if_neg]
    rintro ⟨hgoal, hvar⟩
    rcases h with h | h | h
    · exact hcap h
    · simp [Option.isNone_iff_eq_none.1 hgoal] at h
    · exact hvar h

theorem State.island_restoreVar_of_away {s : State} {c : CoreId} (hcap : s.capped = false) (hgoal : (s.island c).goal = none)
    (hvar : (s.island c).var ≠ (s.island c).decided) :
    (s.restoreVar c).island c = { s.island c with goal := some (s.island c).decided, onset := false } := by
  rw [State.restoreVar, if_neg (by simp [hcap]), State.island_modIsland, if_pos rfl, if_pos ⟨by simp [hgoal], hvar⟩]

/-! ## An island changes its variant (R381) -/

theorem capVar_capped (g : Fin 4) : 2 ≤ (capVar true g).val := by
  revert g
  decide

@[simp] theorem State.bump_cores (s : State) (p : Page) (i n : Nat) : (s.bump p i n).cores = s.cores := by rw [s.bump_frame]

@[simp] theorem State.recordBehind_cores (s : State) (p : Page) (r : Rec) : (s.recordBehind p r).cores = s.cores := State.event_cores ..

@[simp] theorem State.recordForced_cores (s : State) (c : CoreId) (v : Fin 4) (cause : Nat) :
    (s.recordForced c v cause).cores = s.cores := by
  unfold State.recordForced
  split
  · rfl
  · split
    · rfl
    · dsimp only
      split
      · rw [State.recordBehind_cores, State.bump_cores]
      · rw [State.record_cores, State.bump_cores]

theorem State.core_runAt (s : State) (c : CoreId) (v : Fin 4) (cause : Nat) : (s.runAt c v cause).core c =
    { s.core c with island := { s.island c with var := v, goal := none, onset := false } } := by
  have hforced (t : State) : (t.recordForced c v cause).core c = t.core c := by rw [State.core, State.recordForced_cores]; rfl
  rw [State.runAt, State.modIsland, State.core_modCore, hforced, State.setRail, State.core_modPower, State.modIsland, State.core_modCore]
  rfl

theorem State.ctx_runAt (s : State) (c : CoreId) (v : Fin 4) (cause : Nat) (x : CtxId) : (s.runAt c v cause).ctx c x = s.ctx c x := by
  rw [State.ctx, State.core_runAt]
  rfl

theorem exec_variantChange {c : CoreId} {s : State} (hup : s.coreUp c = true) : exec (.variantChange c) s = .next (s.changeVariant c) :=
  congrArg Host.Outcome.next (if_pos hup)

/-- The package after an island has changed to the variant that it was to run at. -/
def State.changed (s : State) (c : CoreId) (g : Fin 4) : State :=
  s.runAt c (capVar s.capped g) (s.capCause (s.island c).decided (capVar s.capped g) (s.island c).cause)

theorem State.changeVariant_of_phase {s : State} {c : CoreId} {g : Fin 4} (hg : (s.island c).goal = some g) {j : Job} {x next : Nat}
    (hhold : (s.ctx c 0).hold = .phase j x (some next)) : s.changeVariant c = (s.changed c g).phaseEnd c j next := by
  have hhold' : ((s.changed c g).ctx c 0).hold = .phase j x (some next) := by rw [State.changed, State.ctx_runAt, hhold]
  rw [State.changed] at hhold'
  simp only [State.changeVariant, hg, hhold', State.changed]

theorem State.changeVariant_of_free {s : State} {c : CoreId} {g : Fin 4} (hg : (s.island c).goal = some g)
    (hhold : ∀ j x next, (s.ctx c 0).hold ≠ .phase j x (some next)) : s.changeVariant c = s.changed c g := by
  simp only [State.changeVariant, hg]
  split
  next j x next h =>
    rw [State.ctx_runAt] at h
    exact absurd h (hhold j x next)
  next => rfl

/-! ## The phase table (R384) -/

theorem exec_phaseTableLoad {s : State} (hup : s.pkgUp = true) (hhost : s.hostUp 0 = true) :
    exec (.phaseTableLoad 0) s = .next (s.setField .pwr PWR_PT_CTL 0 1 1) :=
  congrArg Host.Outcome.next (if_pos (by simp [hup, hhost]))

theorem exec_phaseTableLoadDone_of_idle {s : State} (h : bit (s.pg .pwr PWR_PT_CTL) 0 = false) : exec .phaseTableLoadDone s = .next s :=
  congrArg Host.Outcome.next (if_neg (by simp [h]))

theorem exec_phaseTableLoadDone {s : State} (hup : s.pkgUp = true) (h : bit (s.pg .pwr PWR_PT_CTL) 0 = true) :
    exec .phaseTableLoadDone s = .next s.loadTables :=
  congrArg Host.Outcome.next (if_pos (by simp [hup, h]))

/-- The power manager with its tables copied anew: no decisions, no arrivals, no pool under way. -/
def State.copiedTables (s : State) : Power :=
  { s.power with
    phases := (List.range (min 8192 (bits (s.pg .pwr PWR_PT_CNT) 0 14))).map fun i =>
      s.phaseAt (p42 (s.pg .pwr PWR_PT_BASE_LO) (s.pg .pwr PWR_PT_BASE_HI) + 48 * i)
    pools := (List.range (min 256 (bits (s.pg .pwr PWR_POOL_CNT) 0 9))).map fun i =>
      s.poolAt (p42 (s.pg .pwr PWR_POOL_BASE_LO) (s.pg .pwr PWR_POOL_BASE_HI) + 32 * i)
    decisions := [], counts := [], poolRun := [] }

theorem State.loadTables_power (s : State) : s.loadTables.power = s.copiedTables := by
  unfold State.loadTables
  dsimp only
  rw [State.event_power, State.modPower_power, State.setField, State.setPg_power, State.countRead_power, State.countRead_power]
  rfl

theorem State.countRead_mem (s : State) (a n : Nat) : (s.countRead a n).mem = s.mem := by rw [s.countRead_frame]

theorem State.loadTables_mem (s : State) : s.loadTables.mem = s.mem := by
  unfold State.loadTables
  dsimp only
  rw [(Delivered.event _ .pwr EVT_DONE).frame]
  exact (State.countRead_mem _ _ _).trans (State.countRead_mem s _ _)

/-- PWR_PT_CTL.load is clear again. -/
theorem State.loadTables_load (s : State) : bit (s.loadTables.pg .pwr PWR_PT_CTL) 0 = false := by
  unfold State.loadTables
  dsimp only
  rw [State.pg_event _ .pwr .pwr EVT_DONE PWR_PT_CTL (by decide) (.inr (by decide)) (.inl nofun), State.pg_modPower, State.pg_setField_same]
  exact bit_putBits_bn _ 0 false (by decide)

theorem State.bit_event_pwr (s : State) (b : Nat) (hb : b < 32) : bit ((s.event .pwr b).pg .pwr PG_EVT_RAW) b = true := by
  rw [(Delivered.event s .pwr b).pg .pwr PG_EVT_RAW (by decide) (.inl nofun), State.pg_setField_same]
  exact bit_putBits_bn _ b true hb

theorem State.loadTables_done (s : State) : bit (s.loadTables.pg .pwr PG_EVT_RAW) EVT_DONE = true := State.bit_event_pwr _ _ (by decide)

theorem State.phase?_loadTables (s : State) {i : Nat} (hi : i < s.loadTables.power.phases.length) :
    s.loadTables.phase? i = some (s.phaseAt (p42 (s.pg .pwr PWR_PT_BASE_LO) (s.pg .pwr PWR_PT_BASE_HI) + 48 * i)) := by
  rw [State.phase?, List.getElem?_eq_getElem hi]
  simp [State.loadTables_power, State.copiedTables]

/-! ## The clauses -/

/-- Settles O57: a held PHASE by its entry, its mask, its window and its decision; an island by its goal; the table by its copy. -/
theorem phaseDecisions : Obligations.PhaseDecisions := by
  refine ⟨fun c j x s hup hhold => ⟨fun hload => ⟨?phaseLoading, ?poolLoading⟩, fun hload => ⟨fun he => ?beyond,
      fun e he => ⟨fun hkind hmask => ?phaseOutside, fun hkind hmask => ?poolOutside, fun hmask hfull => ⟨?phaseFull, ?poolFull⟩,
        fun hkind hmask hopen => ⟨fun hnone => ?decided, fun hexit hmember => ?phase⟩,
        fun hkind hmask hopen => ⟨fun hexit => ?exit, fun k hexit hmember => ?member⟩⟩⟩⟩,
    fun c s => ⟨s.restoreVar_frame c, State.island_restoreVar_of_stays, State.island_restoreVar_of_away⟩,
    fun c g s hup hg => ⟨?var, fun hcap => ?capped, fun j x next hhold => ?phaseEnds, fun hhold => ?free⟩,
    fun s hup => ⟨exec_phaseTableLoad hup, exec_phaseTableLoadDone_of_idle, fun h => ?loaded⟩⟩
  case phaseLoading => rw [exec_phaseDecision hup, State.phaseDecide_of_loading hhold hload]
  case poolLoading => rw [exec_poolDecision hup, State.phaseDecide_of_loading hhold hload]
  case beyond => rw [exec_phaseDecision hup, State.phaseDecide_of_beyond hhold hload he]
  case phaseOutside =>
    rw [exec_phaseDecision hup, State.phaseDecide_of_outside hhold hload he (bne_eq_false_iff_eq.2 hkind) hmask]
    rfl
  case poolOutside =>
    rw [exec_poolDecision hup, State.phaseDecide_of_outside hhold hload he (bne_iff_ne.2 hkind) hmask]
    rfl
  case phaseFull => rw [exec_phaseDecision hup, State.phaseDecide_of_full hhold hload he hmask hfull]
  case poolFull => rw [exec_poolDecision hup, State.phaseDecide_of_full hhold hload he hmask hfull]
  case decided => exact (State.decide?_of_none hnone e false).1
  case phase =>
    rw [exec_phaseDecision hup, State.phaseDecide_of_open hhold hload he hmask (bne_eq_false_iff_eq.2 hkind) hopen]
    exact congrArg _ (State.follow_of_phase hexit hmember)
  case exit =>
    rw [exec_poolDecision hup, State.phaseDecide_of_open hhold hload he hmask (bne_iff_ne.2 hkind) hopen]
    exact congrArg _ (State.follow_of_exit hexit)
  case member =>
    rw [exec_poolDecision hup, State.phaseDecide_of_open hhold hload he hmask (bne_iff_ne.2 hkind) hopen]
    exact congrArg _ (State.follow_of_member hexit hmember)
  case var => rw [State.island, State.core_runAt]
  case capped =>
    rw [hcap]
    exact capVar_capped g
  case phaseEnds => rw [exec_variantChange hup, State.changeVariant_of_phase hg hhold]; rfl
  case free => rw [exec_variantChange hup, State.changeVariant_of_free hg hhold]; rfl
  case loaded =>
    refine ⟨_, exec_phaseTableLoadDone hup h, s.loadTables_load, ?_, ?_, ?_, fun i hi => s.phase?_loadTables hi, s.loadTables_done,
      s.loadTables_mem⟩
    all_goals simp [State.loadTables_power, State.copiedTables]

end Sys2Proof.Machine
end

section
/-! LOOP and JUMP, and the levels that end at an offset (R213). -/

namespace Sys2Proof.Machine
open Sys2Proof

/-! ## The levels that end at an offset -/

section
variable {y : Nat} {l : Loop} {ls : List Loop}

theorem loopScan_of_elsewhere (h : l.stop ≠ y) : loopScan y (l :: ls) = (l :: (loopScan y ls).1, (loopScan y ls).2) := if_neg h

theorem loopScan_of_lastPass (h : l.stop = y) (hc : l.count ≤ 1) : loopScan y (l :: ls) = loopScan y ls :=
  (if_pos h).trans (if_neg (Nat.not_lt.2 hc))

theorem loopScan_of_more (h : l.stop = y) (hc : 1 < l.count) :
    loopScan y (l :: ls) = ({ l with count := l.count - 1 } :: ls, some l.start) := (if_pos h).trans (if_pos hc)

/-- Levels that end elsewhere stay and those in their last pass go, and the scan goes on with what is behind them. -/
theorem loopScan_append (a : List Loop) (h : ∀ k ∈ a, k.stop = y → k.count ≤ 1) :
    loopScan y (a ++ ls) = (a.filter (fun k => k.stop != y) ++ (loopScan y ls).1, (loopScan y ls).2) := by
  induction a with
  | nil => rfl
  | cons k a ih =>
    obtain ⟨hk, ha⟩ := List.forall_mem_cons.1 h
    by_cases hy : k.stop = y
    · rw [List.cons_append, loopScan_of_lastPass hy (hk hy), ih ha, List.filter_cons_of_neg (by simp [hy])]
    · rw [List.cons_append, loopScan_of_elsewhere hy, ih ha, List.filter_cons_of_pos (by simp [hy]), List.cons_append]

end

/-- Settles O19: the scan passes over the levels before the first that has more passes. -/
theorem loopEnds : Obligations.LoopEnds := by
  refine fun y ls => ⟨fun h => ?allEnd, fun a b l hls ha hl hmore => ?firstMore⟩
  case allEnd =>
    have hscan := loopScan_append (ls := []) ls h
    rwa [List.append_nil, loopScan, List.append_nil] at hscan
  case firstMore => rw [hls, loopScan_append a ha, loopScan_of_more hl hmore]

/-! ## LOOP and JUMP -/

section
variable {s : State} {c : CoreId} {x : CtxId} {w : Cmd}

theorem State.issueNow_loop (hop : opcode w = OP_LOOP) :
    (s.atHead c x w).issueNow c x w (s.headDesc c x w) (s.headOff c x) =
      ((s.atHead c x w).countIssue c x U_SEQ).issueLoop c (s.headJob c x w) ((s.atHead c x w).shapeOf c x w 4) := by
  simp only [State.issueNow, unitOf_eq_none hop (by decide), hop]
  rfl

theorem State.issueNow_jump (hop : opcode w = OP_JUMP) :
    (s.atHead c x w).issueNow c x w (s.headDesc c x w) (s.headOff c x) =
      ((s.atHead c x w).countIssue c x U_SEQ).issueJump c (s.headJob c x w) := by
  simp only [State.issueNow, unitOf_eq_none hop (by decide), hop]
  rfl

end

section
variable {s : State} {c : CoreId} {j : Job} {v : Nat}

theorem State.issueLoop_of_empty (h : v = 0 ∨ cf j.cmd 3 0 24 = 0) :
    s.issueLoop c j v = (s.setPc c j.ctx (j.off + cf j.cmd 3 0 24 + 1)).complete c j := if_pos h

theorem State.issueLoop_of_body (hv : v ≠ 0) (hlen : cf j.cmd 3 0 24 ≠ 0) :
    s.issueLoop c j v = ((s.modCtx c j.ctx fun t =>
      { t with loops := { lvl := cf j.cmd 2 8 3, start := j.off + 1, stop := j.off + cf j.cmd 3 0 24, count := v } ::
          t.loops.filter fun l => l.lvl != cf j.cmd 2 8 3 }).setPc c j.ctx (j.off + 1)).complete c j := if_neg (not_or.2 ⟨hv, hlen⟩)

end

/-- A field of the command of a job beyond its first word is the field of the command as given. -/
theorem cf_headJob (s : State) (c : CoreId) (x : CtxId) (w : Cmd) (op : Nat) {i : Fin 8} (lo len : Nat) (h : i ≠ 0) :
    cf (s.headJob c x (withOpcode w op)).cmd i lo len = cf w i lo len := cf_withOpcode w op i lo len h

/-- Settles O18: each clears, and a LOOP enters its body where it has one and a count. -/
theorem loopsAndJumps : Obligations.LoopsAndJumps := by
  refine fun c x w s => ⟨fun h => ?loop, fun h => ?jump⟩
  case loop =>
    have hexec := State.command_of_clears h
    have hlen := cf_headJob s c x w OP_LOOP (i := 3) 0 24 (by decide)
    have hlvl := cf_headJob s c x w OP_LOOP (i := 2) 8 3 (by decide)
    rw [State.issueNow_loop (opcode_withOpcode _ _ (by decide))] at hexec
    refine ⟨fun hskip => hexec.trans ?_, fun hv hbody => hexec.trans ?_⟩
    · rw [State.issueLoop_of_empty (by rwa [hlen]), hlen]
      rfl
    · rw [State.issueLoop_of_body hv (by rwa [hlen]), hlen, hlvl]
      rfl
  case jump =>
    have htgt := cf_headJob s c x w OP_JUMP (i := 1) 0 24 (by decide)
    refine (State.command_of_clears h).trans ?_
    rw [State.issueNow_jump (opcode_withOpcode _ _ (by decide)), State.issueJump, htgt]
    rfl

end Sys2Proof.Machine
end

section
/-! The grant of the issue slot (R188): who is eligible, the oldest of the aged contexts, the turns of a priority class. -/

namespace Sys2Proof.Machine
open Sys2Proof

/-! ## The oldest of the aged contexts -/

/-- The contexts that have been eligible for SEQ_AGE_LIMIT ac. -/
def State.agedCtxs (s : State) (c : CoreId) : List CtxId :=
  (List.finRange 4).filter fun x => (s.pg (.seq c) SEQ_AGE_LIMIT).toNat != 0 &&
    decide ((s.pg (.seq c) SEQ_AGE_LIMIT).toNat + 1 ≤ (s.core c).arb.age[x])

theorem State.mem_agedCtxs {s : State} {c : CoreId} {x : CtxId} : x ∈ s.agedCtxs c ↔
    (s.pg (.seq c) SEQ_AGE_LIMIT).toNat ≠ 0 ∧ (s.pg (.seq c) SEQ_AGE_LIMIT).toNat + 1 ≤ (s.core c).arb.age[x] := by
  simp [State.agedCtxs]

/-- The fold of R188 keeps the first of the greatest age. -/
theorem State.agedCtx_eq_argmax (s : State) (c : CoreId) : s.agedCtx c = (s.agedCtxs c).argmax fun x => (s.core c).arb.age[x] := by
  rw [State.agedCtx, List.argmax]
  congr 1
  funext b x
  cases b <;> rfl

theorem State.mem_of_agedCtx {s : State} {c : CoreId} {y : CtxId} (h : s.agedCtx c = some y) : y ∈ s.agedCtxs c := by
  rw [s.agedCtx_eq_argmax] at h
  exact List.argmax_mem h

/-- In a rising list what stands first is least. -/
theorem le_of_idxOf_le {n : Nat} {l : List (Fin n)} (hl : l.Pairwise (· < ·)) {x y : Fin n} (hx : x ∈ l) (hy : y ∈ l)
    (h : l.idxOf x ≤ l.idxOf y) : x ≤ y := by
  obtain heq | hlt := Nat.eq_or_lt_of_le h
  · exact le_of_eq ((List.idxOf_inj hx).1 heq)
  · have hrise := List.pairwise_iff_getElem.1 hl _ _ (List.idxOf_lt_length_iff.2 hx) (List.idxOf_lt_length_iff.2 hy) hlt
    rw [List.getElem_idxOf, List.getElem_idxOf] at hrise
    exact le_of_lt hrise

/-- Of the aged contexts the oldest is taken, the lower number first. -/
theorem State.agedCtx_oldest {s : State} {c : CoreId} {y z : CtxId} (h : s.agedCtx c = some y) (hz : z ∈ s.agedCtxs c) :
    (s.core c).arb.age[z] ≤ (s.core c).arb.age[y] ∧ ((s.core c).arb.age[z] = (s.core c).arb.age[y] → y ≤ z) := by
  rw [s.agedCtx_eq_argmax, List.argmax_eq_some_iff] at h
  obtain ⟨hy, hmax, hfirst⟩ := h
  have hrise : (s.agedCtxs c).Pairwise (· < ·) := (List.sortedLT_finRange 4).pairwise.filter _
  exact ⟨hmax z hz, fun he => le_of_idxOf_le hrise hy hz (hfirst z hz he.ge)⟩

/-- An aged context is there, so one is taken; a context that is not aged is younger. -/
theorem State.agedCtx_of_aged {s : State} {c : CoreId} {x : CtxId} (h : x ∈ s.agedCtxs c) :
    ∃ y : CtxId, s.agedCtx c = some y ∧ ∀ z : CtxId, (s.core c).arb.age[z] ≤ (s.core c).arb.age[y] ∧
      ((s.core c).arb.age[z] = (s.core c).arb.age[y] → y ≤ z) := by
  have hsome : s.agedCtx c ≠ none := by
    rw [s.agedCtx_eq_argmax, ne_eq, List.argmax_eq_none]
    exact List.ne_nil_of_mem h
  obtain ⟨y, hy⟩ := Option.ne_none_iff_exists'.1 hsome
  refine ⟨y, hy, fun z => ?_⟩
  by_cases hz : z ∈ s.agedCtxs c
  · exact State.agedCtx_oldest hy hz
  · obtain ⟨hlimit, hage⟩ := State.mem_agedCtxs.1 (State.mem_of_agedCtx hy)
    have hyoung : ¬ (s.pg (.seq c) SEQ_AGE_LIMIT).toNat + 1 ≤ (s.core c).arb.age[z] :=
      fun hold => hz (State.mem_agedCtxs.2 ⟨hlimit, hold⟩)
    omega

/-! ## Turns within a priority class -/

def State.prio (s : State) (c : CoreId) (x : CtxId) : Nat := bits (s.pg (.ctx c x) CTX_CFG) 0 2

/-- The eligible contexts of the least priority number among them. -/
def State.turnClass (s : State) (c : CoreId) : List CtxId :=
  ((List.finRange 4).filter fun x => s.eligible c x).filter fun x =>
    s.prio c x == (((List.finRange 4).filter fun x => s.eligible c x).map (s.prio c)).foldl min 3

/-- Contexts in the order of their turns, the last issuer last. -/
def turnOrder (last : CtxId) : List CtxId := (List.range 4).map fun i => (Fin.ofNat 4 (last.val + 1 + i) : CtxId)

theorem mem_turnOrder (last x : CtxId) : x ∈ turnOrder last := by
  revert last x
  decide

/-- The last issuer, while its class and its quantum let it issue again. -/
def State.turnKept (s : State) (c : CoreId) : Option CtxId :=
  (s.core c).arb.last.filter fun x => (s.turnClass c).contains x &&
    decide ((s.core c).arb.streak < (if (s.pg (.seq c) SEQ_QUANTUM).toNat = 0 then 1 else (s.pg (.seq c) SEQ_QUANTUM).toNat))

theorem State.turnCtx_eq (s : State) (c : CoreId) : s.turnCtx c =
    (s.turnKept c <|> (turnOrder ((s.core c).arb.last.getD 3)).find? fun x => (s.turnClass c).contains x) := rfl

theorem State.eligible_of_mem_turnClass {s : State} {c : CoreId} {x : CtxId} (h : x ∈ s.turnClass c) : s.eligible c x = true :=
  (List.mem_filter.1 (List.mem_of_mem_filter h)).2

/-- Priorities are 2 bits, so the least is that of an eligible context where there is one. -/
theorem State.turnClass_nonempty {s : State} {c : CoreId} {x : CtxId} (h : s.eligible c x = true) : ∃ y, y ∈ s.turnClass c := by
  generalize hel : ((List.finRange 4).filter fun x => s.eligible c x) = el
  have hx : x ∈ el := hel ▸ List.mem_filter.2 ⟨List.mem_finRange x, h⟩
  obtain ⟨hleast, hle⟩ := List.min?_eq_some_iff.1 (List.min?_cons' (x := 3) (xs := el.map (s.prio c)))
  have hmem {y : CtxId} (hy : y ∈ el) (he : s.prio c y = (el.map (s.prio c)).foldl min 3) : y ∈ s.turnClass c := by
    rw [State.turnClass, hel]
    exact List.mem_filter.2 ⟨hy, beq_iff_eq.2 he⟩
  rcases List.mem_cons.1 hleast with h3 | hin
  · have hge := hle _ (List.mem_cons_of_mem _ (List.mem_map_of_mem hx))
    have hlt : s.prio c x < 4 := bits_lt _ _ _
    exact ⟨x, hmem hx (by omega)⟩
  · obtain ⟨y, hy, he⟩ := List.mem_map.1 hin
    exact ⟨y, hmem hy he⟩

theorem State.eligible_of_turnCtx {s : State} {c : CoreId} {x : CtxId} (h : s.turnCtx c = some x) : s.eligible c x = true := by
  rw [s.turnCtx_eq, Option.orElse_eq_some] at h
  refine State.eligible_of_mem_turnClass (List.contains_iff_mem.1 ?_)
  rcases h with hkeep | ⟨-, hturn⟩
  · exact (Bool.and_eq_true_iff.1 (Option.filter_eq_some_iff.1 hkeep).2).1
  · exact List.find?_some hturn

theorem State.turnCtx_of_eligible {s : State} {c : CoreId} {x : CtxId} (h : s.eligible c x = true) : s.turnCtx c ≠ none := by
  obtain ⟨y, hy⟩ := State.turnClass_nonempty h
  rw [s.turnCtx_eq, ne_eq, Option.orElse_eq_none]
  rintro ⟨-, hnone⟩
  exact List.find?_eq_none.1 hnone y (mem_turnOrder _ y) (List.contains_iff_mem.2 hy)

/-! ## The grant -/

/-- Where no grant stands, or the one that stands is of a context no longer eligible: by age, else in turn. -/
def State.newGrant (s : State) (c : CoreId) : Option (CtxId × Bool) := (s.agedCtx c).map (·, true) <|> (s.turnCtx c).map (·, false)

theorem State.granted_cases (s : State) (c : CoreId) :
    (∃ x, (s.core c).arb.grant = some x ∧ s.eligible c x = true ∧ s.granted c = some (x, false)) ∨ s.granted c = s.newGrant c := by
  rw [State.granted]
  cases hg : (s.core c).arb.grant with
  | none => exact .inr rfl
  | some x =>
    by_cases hx : s.eligible c x = true
    · exact .inl ⟨x, rfl, hx, if_pos hx⟩
    · exact .inr (if_neg hx)

theorem State.granted_of_no_grant {s : State} {c : CoreId} (h : (s.core c).arb.grant = none) : s.granted c = s.newGrant c := by
  rw [State.granted, h]
  rfl

theorem State.newGrant_cases {s : State} {c : CoreId} {x : CtxId} {aged : Bool} (h : s.newGrant c = some (x, aged)) :
    s.agedCtx c = some x ∨ s.turnCtx c = some x := by
  rw [State.newGrant] at h
  cases ha : s.agedCtx c with
  | some y => simp_all
  | none => simp_all

/-- Settles O23: the standing grant, the oldest aged context and the turn are of eligible contexts, and one of them is there. -/
theorem grantIsFair : Obligations.GrantIsFair := by
  refine fun s c hage => ⟨fun x b h => ?eligible, fun x hx hnone => ?granted, fun x hg hlimit hx => ?oldest⟩
  case eligible =>
    rcases s.granted_cases c with ⟨y, -, hy, hgrant⟩ | hnew
    · obtain rfl : y = x := congrArg Prod.fst (Option.some.inj (hgrant.symm.trans h))
      exact hy
    · rcases State.newGrant_cases (hnew.symm.trans h) with haged | hturn
      · have hold := (State.mem_agedCtxs.1 (State.mem_of_agedCtx haged)).2
        exact hage x (by omega)
      · exact State.eligible_of_turnCtx hturn
  case granted =>
    rcases s.granted_cases c with ⟨y, -, -, hgrant⟩ | hnew
    · exact nomatch hgrant.symm.trans hnone
    · obtain ⟨y, hy⟩ := Option.ne_none_iff_exists'.1 (State.turnCtx_of_eligible hx)
      rw [hnew, State.newGrant, hy] at hnone
      cases ha : s.agedCtx c <;> simp [ha] at hnone
  case oldest =>
    have hne : (s.pg (.seq c) SEQ_AGE_LIMIT).toNat ≠ 0 := fun h0 => hlimit (BitVec.eq_of_toNat_eq h0)
    obtain ⟨y, hy, hmax⟩ := State.agedCtx_of_aged (State.mem_agedCtxs.2 ⟨hne, hx⟩)
    exact ⟨y, by rw [State.granted_of_no_grant hg, State.newGrant, hy]; rfl, hmax⟩

end Sys2Proof.Machine
end

section
/-! ISSUE_ARBITRATION (R187 to R191): what one ac does with the issue slot, and which contexts it leaves in HOLD. -/

namespace Sys2Proof.Machine
open Sys2Proof

/-! ## The issue slot -/

/-- The end of an ac: the contexts that it has shut out of their queues are held, what its reads have found is forgotten. -/
def State.acClosed (s : State) (c : CoreId) : State := ((List.finRange 4).foldl (fun s x => s.holdLoser c x) s).acEnd c

theorem exec_issueArbitration {s : State} {c : CoreId} (hup : s.coreUp c = true) :
    exec (.issueArbitration c) s = .next (((s.acReady c).acGrant c).acClosed c) := congrArg Host.Outcome.next (if_pos hup)

section
variable {s : State} {c : CoreId} {x : CtxId} {aged : Bool}

theorem State.acGrant_of_none (h : s.granted c = none) : s.acGrant c = s := by
  rw [State.acGrant, h]

theorem State.acGrant_of_some (h : s.granted c = some (x, aged)) : s.acGrant c =
    if (s.core c).arb.last = none ∨ (s.core c).arb.last = some x ∨ 8 ≤ (s.core c).arb.since then
      (((s.bump (.seq c) 2 (bn aged)).modCore c fun k => { k with arb := { k.arb with grant := none } }).issueFetched c x)
    else (s.bump (.seq c) 2 (bn aged)).modCore c fun k => { k with arb := { k.arb with grant := some x } } := by
  have hcore : (s.bump (.seq c) 2 (bn aged)).core c = s.core c := by
    rw [s.bump_frame]
    rfl
  rw [State.acGrant, h]
  simp only [hcore]

end

/-! ## Contexts shut out of their queue -/

section
variable {s : State} {c : CoreId} {x y : CtxId} {w : Cmd}

theorem State.holdLoser_of_head (h : (s.ctx c x).head = some w) : s.holdLoser c x =
    if s.eligible c x && ((s.core c).holdsHead x w || s.shutOut c x w) then s.holdCtx c x .head else s := by
  rw [State.holdLoser, h]

theorem State.holdLoser_of_no_head (h : (s.ctx c x).head = none) : s.holdLoser c x = s := by
  rw [State.holdLoser, h]

theorem State.ctx_holdLoser_other (h : y ≠ x) : (s.holdLoser c y).ctx c x = s.ctx c x := by
  cases hhead : (s.ctx c y).head with
  | none => rw [State.holdLoser_of_no_head hhead]
  | some w =>
    rw [State.holdLoser_of_head hhead]
    split
    · exact State.ctx_modCtx_other _ _ _ _ _ _ (.inr h.symm)
    · rfl

theorem State.shutOut_of_no_grant (h : (s.core c).arb.grant = none) : s.shutOut c x w = false := by
  simp only [State.shutOut, h]

/-- A standing grant takes the last free entry of the queue that both heads need. -/
theorem State.shutOut_of_grant {v : Cmd} {u : Nat} (hg : (s.core c).arb.grant = some y) (hy : y ≠ x) (hel : s.eligible c y = true)
    (hhead : (s.ctx c y).head = some v) (hv : unitOf v = some u) (hw : unitOf w = some u) :
    s.shutOut c x w = true ↔ (s.core c).freeSlots u ≤ 1 := by
  obtain ⟨hmay, hrun⟩ := Bool.and_eq_true_iff.1 hel
  have hhead' : ((s.core c).ctx y).head = some v := hhead
  have hrun' : (((s.core c).ctx y).run == .ready) = true := hrun
  simp [State.shutOut, hg, hw, hy, hmay, hrun', hhead', hv]

end

/-- Settles O22: the slot by what is granted and by the switch, the losers by what shuts them out. -/
theorem issueArbitration : Obligations.IssueArbitration := by
  refine fun c s => ⟨fun hup => ⟨fun hnone => ?idle, fun x aged hx => ⟨fun hnow => ?issues, fun y hlast hy hsince => ?switches⟩⟩,
    fun x => ⟨fun w hhead hel hshut => ?loses, fun hfree => ?stays, fun w v y u hg hy hel hhead hv hw =>
      State.shutOut_of_grant hg hy hel hhead hv hw, fun hg w => State.shutOut_of_no_grant hg, fun y hy => State.ctx_holdLoser_other hy⟩⟩
  case idle =>
    rw [exec_issueArbitration hup, State.acGrant_of_none hnone]
    rfl
  case issues =>
    rw [exec_issueArbitration hup, State.acGrant_of_some hx, if_pos hnow]
    rfl
  case switches =>
    have hwait : ¬((((s.acReady c).core c).arb.last = none) ∨ ((s.acReady c).core c).arb.last = some x ∨
        8 ≤ ((s.acReady c).core c).arb.since) := by
      rw [hlast]
      simp [hy, hsince]
    rw [exec_issueArbitration hup, State.acGrant_of_some hx, if_neg hwait]
    rfl
  case loses =>
    rw [State.holdLoser_of_head hhead, if_pos]
    simpa [hel] using hshut
  case stays =>
    cases hhead : (s.ctx c x).head with
    | none => exact State.holdLoser_of_no_head hhead
    | some w =>
      rw [State.holdLoser_of_head hhead, if_neg]
      rcases hfree w hhead with hel | ⟨hroom, hshut⟩
      · simp [hel]
      · simp [hroom, hshut]

end Sys2Proof.Machine
end

section
/-! Unit commands that issue (R186, R188, R195, R213, R253, R372, R374): what an issue writes, and where the command goes. -/

namespace Sys2Proof.Machine
open Sys2Proof

/-! ## Counters and records -/

/-- A counter is two registers of its page; every other register reads as before. -/
theorem State.pg_bump_other (s : State) (p q : Page) (i n o : Nat) (hi : i < 24) (ho : o < 0x1000)
    (h : ¬(q = p ∧ (o = PG_CNT i ∨ o = PG_CNT i + 4))) : (s.bump p i n).pg q o = s.pg q o := by
  rcases s.bump_cases p i n with e | e
  · rw [e]
  · have hlo : PG_CNT i < 0x1000 := by simp only [PG_CNT]; omega
    have hhi : PG_CNT i + 4 < 0x1000 := by simp only [PG_CNT]; omega
    rw [e, State.setPg64, State.pg_setPg _ _ _ _ _ _ hhi ho, if_neg (by tauto), State.pg_setPg _ _ _ _ _ _ hlo ho, if_neg (by tauto)]

@[simp] theorem State.core_bump (s : State) (p : Page) (i n : Nat) (c : CoreId) : (s.bump p i n).core c = s.core c := by
  rw [s.bump_frame]
  rfl

/-- A change of registers and the log queue, then a delivery of interrupts. -/
theorem Delivered.after_code {s t u : State} (h : t = { s with regs := t.regs, mgmt := t.mgmt }) (k : Delivered t u) :
    u = { s with regs := u.regs, mgmt := u.mgmt, host := u.host } := by
  have hframe := k.frame
  rw [h] at hframe
  rw [k.mgmt]
  exact hframe

/-- An event recorded changes registers, the log queue and the host interface. -/
theorem State.record_frame (s : State) (p : Page) (r : Rec) : s.record p r =
    { s with regs := (s.record p r).regs, mgmt := (s.record p r).mgmt, host := (s.record p r).host } := by
  refine Delivered.after_code ?_ (Delivered.event (s.putCode p r) p EVT_ERR)
  cases s
  rfl

@[simp] theorem State.core_record (s : State) (p : Page) (r : Rec) (c : CoreId) : (s.record p r).core c = s.core c :=
  congrArg (fun k : Vector Core 64 => k[c]) (s.record_cores p r)

/-- The page of a context that an event is recorded in: code, first detail, raw bit. -/
theorem State.record_spec (s : State) (c : CoreId) (x : CtxId) (r : Rec) :
    (s.record (.ctx c x) r).pg (.ctx c x) PG_ERR_CODE = w32 r.code.toNat ∧ (s.record (.ctx c x) r).pg (.ctx c x) PG_ERR_INFO0 = r.i0 ∧
      bit ((s.record (.ctx c x) r).pg (.ctx c x) PG_EVT_RAW) EVT_ERR = true := by
  refine ⟨?code, ?info, State.bit_event _ _ _ _ (by decide)⟩
  all_goals
    rw [State.pg_record s (.ctx c x) (.ctx c x) r _ (by decide) (.inr (by decide)) (.inl nofun), State.pg_putCode _ _ _ _ _ (by decide)]
    simp [PG_ERR_INFO0, PG_ERR_CODE]

/-! ## The issue of a unit command -/

/-- A unit command has issued, and its unit has not got it yet. -/
def State.unitIssued (s : State) (c : CoreId) (x : CtxId) (w : Cmd) (u : Nat) : State :=
  (((s.atHead c x w).countIssue c x u).stepPc c x (s.headOff c x)).noteBuild c (s.headJob c x w)

section
variable {s : State} {c : CoreId} {x : CtxId} {w : Cmd} {u : Nat}

theorem State.issueNow_unit (hu : unitOf w = some u) : (s.atHead c x w).issueNow c x w (s.headDesc c x w) (s.headOff c x) =
    (s.unitIssued c x w u).accept c u (s.headJob c x w) := by
  simp only [State.issueNow, hu]
  rfl

theorem State.accept_of_queue {j : Job} (h : ¬(opcode j.cmd = OP_RSIGNAL ∧ rsBytes j.cmd ≠ 0 ∧ s.linkUp (rsPort j.cmd) = false)) :
    s.accept c u j = s.enqueue c u j := by
  rw [State.accept, if_neg]
  simpa using h

theorem State.accept_of_lost {j : Job} (hop : opcode j.cmd = OP_RSIGNAL) (hdata : rsBytes j.cmd ≠ 0)
    (hport : s.linkUp (rsPort j.cmd) = false) : s.accept c u j = s.refuseRsignal c j := by
  rw [State.accept, if_pos]
  simp [hop, hdata, hport]

/-! ## What an issue leaves -/

theorem State.noteBuild_core (s : State) (c : CoreId) (j : Job) :
    (s.noteBuild c j).core c = { s.core c with builds := ((s.noteBuild c j).core c).builds } := by
  unfold State.noteBuild
  dsimp only
  split
  · rw [State.core_modCore]
  · rfl

theorem State.noteBuild_frame (s : State) (c : CoreId) (j : Job) : s.noteBuild c j = { s with cores := (s.noteBuild c j).cores } := by
  unfold State.noteBuild
  dsimp only
  split <;> rfl

theorem State.noteBuild_core_other (s : State) (c d : CoreId) (j : Job) (h : d ≠ c) : (s.noteBuild c j).core d = s.core d := by
  unfold State.noteBuild
  dsimp only
  split
  · exact State.core_modCore_other _ _ _ _ h
  · rfl

theorem State.stepPc_eq (s : State) (c : CoreId) (x : CtxId) (off : Nat) : s.stepPc c x off =
    (s.modCtx c x fun t => { t with loops := (loopScan off (s.ctx c x).loops).1 }).setPc c x
      ((loopScan off (s.ctx c x).loops).2.getD (off + 1)) := rfl

/-- The issue counters and CTX_PC: all that an issue writes among the registers. -/
def IssueReg (c : CoreId) (x : CtxId) (p : Page) (o : Nat) : Prop :=
  (p = .ctx c x ∧ (o = CTX_PC ∨ o = PG_CNT 0 ∨ o = PG_CNT 0 + 4)) ∨
    (p = .seq c ∧ (o = PG_CNT 0 ∨ o = PG_CNT 0 + 4 ∨ o = PG_CNT 1 ∨ o = PG_CNT 1 + 4))

theorem State.pg_unitIssued (p : Page) (o : Nat) (ho : o < 0x1000) (h : ¬IssueReg c x p o) : (s.unitIssued c x w u).pg p o = s.pg p o := by
  have hnote (t : State) (j : Job) : (t.noteBuild c j).pg p o = t.pg p o := by
    rw [t.noteBuild_frame]
    rfl
  simp only [IssueReg, not_or, not_and] at h
  obtain ⟨hctx, hseq⟩ := h
  rw [State.unitIssued, hnote, State.stepPc_eq, State.setPc, State.pg_setPg _ _ _ _ _ _ (by decide) ho, if_neg (by tauto), State.pg_modCtx,
    State.countIssue, State.pg_modCore, State.pg_bump_other _ _ _ _ _ _ (by decide) ho (by tauto),
    State.pg_bump_other _ _ _ _ _ _ (by decide) ho (by tauto), State.pg_bump_other _ _ _ _ _ _ (by decide) ho (by tauto)]
  rfl

/-- What the issue of a command makes of its core: the head is gone, the arbitration has its last issuer, the command is live. -/
theorem State.core_countIssue (s : State) (c : CoreId) (x : CtxId) (u : Nat) : (s.countIssue c x u).core c =
    { ((s.core c).modCtx x fun t => { t with head := none, pre := false, desc := none, bad := none }) with
      arb := ((s.countIssue c x u).core c).arb, nextUid := (s.core c).nextUid + 1,
      live := (s.core c).live ++ [((s.core c).nextUid, x, u)] } := by
  rw [State.countIssue, State.core_modCore, State.core_bump, State.core_bump, State.core_bump]

theorem State.countIssue_frame (s : State) (c : CoreId) (x : CtxId) (u : Nat) : s.countIssue c x u =
    { s with regs := (s.countIssue c x u).regs, cores := (s.countIssue c x u).cores } := by
  rw [State.countIssue, State.bump_frame, State.bump_frame, State.bump_frame]
  rfl


/-! ## What an issue makes of its core -/

theorem State.stepPc_frame (s : State) (c : CoreId) (x : CtxId) (off : Nat) : s.stepPc c x off =
    { s with regs := (s.stepPc c x off).regs, cores := (s.stepPc c x off).cores } := rfl

/-- Changes of registers and cores, one after the other. -/
theorem regsCores_trans {s t u : State} (h : t = { s with regs := t.regs, cores := t.cores })
    (k : u = { t with regs := u.regs, cores := u.cores }) : u = { s with regs := u.regs, cores := u.cores } := by
  rw [h] at k
  exact k

theorem State.unitIssued_frame : s.unitIssued c x w u =
    { s with regs := (s.unitIssued c x w u).regs, cores := (s.unitIssued c x w u).cores } := by
  have hbuild (t : State) (j : Job) : t.noteBuild c j = { t with regs := (t.noteBuild c j).regs, cores := (t.noteBuild c j).cores } := by
    rw [t.noteBuild_frame]
  exact regsCores_trans (regsCores_trans (regsCores_trans (t := s.atHead c x w) rfl (State.countIssue_frame ..)) (State.stepPc_frame ..))
    (hbuild _ _)

@[simp] theorem State.ctx_noteBuild (s : State) (c : CoreId) (j : Job) (y : CtxId) : (s.noteBuild c j).ctx c y = s.ctx c y := by
  rw [State.ctx, State.noteBuild_core]
  rfl

theorem State.ctx_countIssue (s : State) (c : CoreId) (x : CtxId) (u : Nat) : (s.countIssue c x u).ctx c x =
    { s.ctx c x with head := none, pre := false, desc := none, bad := none } := by
  rw [State.ctx, State.core_countIssue]
  exact Core.ctx_modCtx ..

theorem State.ctx_countIssue_other (s : State) (c : CoreId) {x y : CtxId} (u : Nat) (h : y ≠ x) :
    (s.countIssue c x u).ctx c y = s.ctx c y := by
  rw [State.ctx, State.core_countIssue]
  exact Core.ctx_modCtx_other _ _ _ _ h

/-- The context that issues: READY, with no head command read and the loop levels after its command. -/
theorem State.ctx_unitIssued : (s.unitIssued c x w u).ctx c x =
    { (s.ctx c x).go .ready with hold := .free, head := none, pre := false, desc := none, bad := none,
                                 loops := ((s.unitIssued c x w u).ctx c x).loops } := by
  rw [State.unitIssued, State.ctx_noteBuild, State.stepPc_eq, State.setPc, State.ctx_setPg, State.ctx_modCtx, State.ctx_countIssue,
    State.atHead,
    State.ctx_modCtx]

theorem State.ctx_unitIssued_other {y : CtxId} (h : y ≠ x) : (s.unitIssued c x w u).ctx c y = s.ctx c y := by
  rw [State.unitIssued, State.ctx_noteBuild, State.stepPc_eq, State.setPc, State.ctx_setPg, State.ctx_modCtx_other _ _ _ _ _ _ (.inr h),
    State.ctx_countIssue_other _ _ _ h, State.atHead, State.ctx_modCtx_other _ _ _ _ _ _ (.inr h)]

@[simp] theorem Ctx.resetting_go (t : Ctx) (st : CtxState) : (t.go st).resetting = t.resetting := by
  unfold Ctx.go
  split <;> rfl

/-- l is the core k after context x has issued a command to unit u. -/
structure Core.Issued (x : CtxId) (u : Nat) (k l : Core) : Prop where
  units : l.units = k.units
  dmaq : l.dmaq = k.dmaq
  waits : l.waits = k.waits
  posts : l.posts = k.posts
  txns : l.txns = k.txns
  fault : l.fault = k.fault
  resetting : l.resetting = k.resetting
  live : l.live = k.live ++ [(k.nextUid, x, u)]
  others : ∀ y, y ≠ x → l.ctx y = k.ctx y
  cur : (l.ctx x).cur = .ready
  hold : (l.ctx x).hold = .free
  ctxReset : (l.ctx x).resetting = (k.ctx x).resetting

theorem Core.issued_unitIssued : Core.Issued x u (s.core c) ((s.unitIssued c x w u).core c) := by
  have hctx : ((s.unitIssued c x w u).core c).ctx x = _ := State.ctx_unitIssued
  have hcur := Ctx.cur_go (s.ctx c x) (st := .ready) (by decide)
  refine { units := ?_, dmaq := ?_, waits := ?_, posts := ?_, txns := ?_, fault := ?_, resetting := ?_, live := ?_,
           others := fun y hy => State.ctx_unitIssued_other hy, cur := ?cur, hold := ?hold, ctxReset := ?reset }
  case cur => rw [hctx]; exact hcur
  case hold => rw [hctx]
  case reset => rw [hctx]; exact Ctx.resetting_go ..
  all_goals
    rw [State.unitIssued, State.noteBuild_core, State.stepPc_eq, State.setPc, State.core_setPg, State.modCtx, State.core_modCore,
      State.core_countIssue, State.atHead, State.modCtx, State.core_modCore]
    rfl

theorem State.core_unitIssued_other {d : CoreId} (h : d ≠ c) : (s.unitIssued c x w u).core d = s.core d := by
  rw [State.unitIssued, State.noteBuild_core_other _ _ _ _ h, State.stepPc_eq, State.setPc, State.core_setPg, State.modCtx,
    State.core_modCore_other _ _ _ _ h, State.countIssue, State.core_modCore_other _ _ _ _ h, State.core_bump, State.core_bump,
    State.core_bump, State.atHead, State.modCtx, State.core_modCore_other _ _ _ _ h]

end

/-! ## A calm core -/

/-- What holds context x of the core is over: nothing of a FENCE is in flight, a RERUN or a HALT is alone. -/
def Core.goesOn (k : Core) (x : CtxId) : Bool :=
  match (k.ctx x).hold with
  | .fence _ uids posts => !((uids.any fun u => k.live.any fun e => e.1 == u) || posts.any fun n => k.unacked n)
  | .rerun j => k.alone x j.uid
  | .halt j _ => k.alone x j.uid
  | _ => false

section
variable {s : State} {c : CoreId} {x : CtxId}

/-- A context that is not under reset goes on when its hold is over, and is left as it is until then. -/
theorem State.settleCtx_eq (hr : (s.ctx c x).resetting = false) :
    ∃ t, s.settleCtx c x = if (s.core c).goesOn x then (t, true) else (s, false) := by
  have hr' : ((s.core c).ctx x).resetting = false := hr
  cases hhold : ((s.core c).ctx x).hold
  all_goals simp only [State.settleCtx, Core.goesOn, hr, hr', hhold, Bool.false_eq_true, if_false, Bool.false_and]
  case fence j uids posts =>
    refine ⟨(s.unholdCtx c x).complete c j, ?_⟩
    cases (uids.any fun u => (s.core c).live.any fun e => e.1 == u) || posts.any fun n => (s.core c).unacked n <;> rfl
  case rerun j => exact ⟨_, rfl⟩
  case halt j code => exact ⟨_, rfl⟩
  all_goals exact ⟨s, trivial⟩

theorem State.settleCtx_snd (hr : (s.ctx c x).resetting = false) : (s.settleCtx c x).2 = (s.core c).goesOn x := by
  obtain ⟨t, ht⟩ := State.settleCtx_eq hr
  rw [ht]
  cases (s.core c).goesOn x <;> rfl

theorem State.settleCtx_of_held (hr : (s.ctx c x).resetting = false) (h : (s.core c).goesOn x = false) : s.settleCtx c x = (s, false) := by
  obtain ⟨t, ht⟩ := State.settleCtx_eq hr
  rw [ht, h]
  rfl

/-- FIN or OPT at the head of an idle finishing unit's queue starts; otherwise nothing does. -/
theorem State.startFin_cases (s : State) (c : CoreId) : s.startFin c = (s, false) ∨ (s.startFin c).2 = true := by
  unfold State.startFin
  dsimp only
  split
  · split
    · exact .inr rfl
    · exact .inl rfl
  · exact .inl rfl

theorem State.startFin_of_idle (h : (s.startFin c).2 = false) : s.startFin c = (s, false) :=
  s.startFin_cases c |>.resolve_right (by simp [h])

theorem State.startFin_snd_congr {t : State} (h : (t.core c).unit 9 = (s.core c).unit 9) : (t.startFin c).2 = (s.startFin c).2 := by
  unfold State.startFin
  rw [h]
  dsimp only
  split
  · split <;> rfl
  · rfl

theorem State.calm_iff : s.calm c = true ↔ (s.core c).resetting = false ∧ (s.startFin c).2 = false ∧
    ∀ x : CtxId, (s.ctx c x).resetting = false ∧ (s.core c).goesOn x = false := by
  simp only [State.calm, Bool.and_eq_true, Bool.not_eq_true', List.all_eq_true, List.mem_finRange, forall_const, and_assoc]
  refine and_congr_right fun _ => and_congr_right fun _ => forall_congr' fun x => and_congr_right fun hr => ?_
  rw [State.settleCtx_snd hr]

/-- Settling a calm core changes nothing. -/
theorem State.settle_of_calm (h : s.calm c = true) : s.settle c = s := by
  obtain ⟨hres, hfin, hctx⟩ := State.calm_iff.1 h
  have hfold (l : List CtxId) : l.foldl (fun a x => let (t, b) := a.1.settleCtx c x; (t, a.2 || b)) (s, false) = (s, false) := by
    induction l with
    | nil => rfl
    | cons x l ih =>
      rw [List.foldl_cons, State.settleCtx_of_held (hctx x).1 (hctx x).2]
      exact ih
  have honce : s.settleOnce c = (s, false) := by
    rw [State.settleOnce, State.startFin_of_idle hfin]
    exact hfold _
  rw [State.settle, hres, State.settleN, honce]
  simp

end

/-! ## The command joins its queue -/

section
variable {s : State} {c : CoreId} {u : Nat} {j : Job}

theorem State.core_enqueue : (s.enqueue c u j).core c =
    { s.core c with units := ((s.enqueue c u j).core c).units, dmaq := ((s.enqueue c u j).core c).dmaq } := by
  rw [State.enqueue, State.core_modCore]
  split <;> rfl

theorem State.enqueue_frame : s.enqueue c u j = { s with cores := (s.enqueue c u j).cores } := rfl

theorem State.core_enqueue_other {d : CoreId} (h : d ≠ c) : (s.enqueue c u j).core d = s.core d := State.core_modCore_other _ _ _ _ h

theorem State.unit_enqueue (v : Nat) (hv : v < 10) : ((s.enqueue c u j).core c).unit v =
    { (s.core c).unit v with queue := ((s.core c).unit v).queue ++ (if v = u then [j] else []) } := by
  rw [State.enqueue, State.core_modCore]
  by_cases hu : u < 10
  · rw [if_pos hu, Core.unit, Core.modUnit]
    by_cases h : v = u
    · subst h
      rw [vmod_same, if_pos rfl]
      rfl
    · have hne : Fin.ofNat 10 v ≠ Fin.ofNat 10 u := fun e => h (by
        have := congrArg Fin.val e
        simp only [Fin.val_ofNat] at this
        omega)
      rw [vmod_other _ _ _ _ hne, if_neg h, List.append_nil]
      rfl
  · rw [if_neg hu, if_neg (by omega), List.append_nil]
    rfl

theorem State.dmaq_enqueue (q : QId) (hu : u < 18) : ((s.enqueue c u j).core c).dmaq[q] =
    { (s.core c).dmaq[q] with queue := ((s.core c).dmaq[q]).queue ++ (if 10 + q.val = u then [j] else []) } := by
  rw [State.enqueue, State.core_modCore]
  by_cases hlt : u < 10
  · rw [if_pos hlt, if_neg (by omega), List.append_nil]
    rfl
  · rw [if_neg hlt, Core.modQueue]
    by_cases h : 10 + q.val = u
    · have hq : Fin.ofNat 8 (u - 10) = q := Fin.ext (by simp only [Fin.val_ofNat]; omega)
      rw [hq, vmod_same, if_pos h]
    · have hne : q ≠ Fin.ofNat 8 (u - 10) := fun e => h (by
        have := congrArg Fin.val e
        simp only [Fin.val_ofNat] at this
        omega)
      rw [vmod_other _ _ _ _ hne, if_neg h, List.append_nil]

end

/-! ## A calm core after an issue -/

section
variable {s : State} {c : CoreId} {x : CtxId} {w : Cmd} {u : Nat} {j : Job}

theorem Core.unacked_congr {k l : Core} (hp : l.posts = k.posts) (ht : l.txns = k.txns) : l.unacked = k.unacked := by
  funext n
  rw [Core.unacked, Core.unacked, hp, ht]

theorem Core.goesOn_of_free {k : Core} (h : (k.ctx x).hold = .free) : k.goesOn x = false := by
  rw [Core.goesOn, h]

/-- A command of another context that becomes live ends no hold. -/
theorem Core.goesOn_of_issue {k l : Core} {y : CtxId} {n : Nat} (hctx : l.ctx y = k.ctx y) (hy : x ≠ y)
    (hlive : l.live = k.live ++ [(n, x, u)])
    (hposts : l.posts = k.posts) (htxns : l.txns = k.txns) (h : k.goesOn y = false) : l.goesOn y = false := by
  have halone (uid : Nat) : l.alone y uid = k.alone y uid := by simp [Core.alone, hlive, hy]
  rw [Core.goesOn, hctx] at *
  cases hhold : (k.ctx y).hold with
  | fence f uids posts =>
    simp only [hhold, Core.unacked_congr hposts htxns, Bool.not_eq_false', Bool.or_eq_true, List.any_eq_true] at h ⊢
    refine h.imp (fun ⟨v, hv, e, he, hvu⟩ => ⟨v, hv, e, ?_, hvu⟩) id
    rw [hlive]
    exact List.mem_append_left _ he
  | rerun f => simpa only [hhold, halone] using h
  | halt f code => simpa only [hhold, halone] using h
  | _ => rfl

/-- A core in which nothing is about to go on is so after an issue to a unit that starts nothing by itself. -/
theorem State.calm_queued (h : s.calm c = true) (hu : u ≠ 9) : ((s.unitIssued c x w u).enqueue c u j).calm c = true := by
  obtain ⟨hres, hfin, hctx⟩ := State.calm_iff.1 h
  have hissued : Core.Issued x u (s.core c) ((s.unitIssued c x w u).core c) := Core.issued_unitIssued
  have hunit : (((s.unitIssued c x w u).enqueue c u j).core c).unit 9 = (s.core c).unit 9 := by
    rw [State.unit_enqueue 9 (by decide), if_neg hu.symm, List.append_nil, Core.unit, hissued.units]
    rfl
  have hkept (y : CtxId) : (((s.unitIssued c x w u).enqueue c u j).core c).ctx y = ((s.unitIssued c x w u).core c).ctx y := by
    rw [State.core_enqueue]
    rfl
  refine State.calm_iff.2 ⟨?_, (State.startFin_snd_congr hunit).trans hfin, fun y => ?_⟩
  · rw [State.core_enqueue]
    exact hissued.resetting.trans hres
  · by_cases hy : y = x
    · subst hy
      exact ⟨(congrArg Ctx.resetting (hkept y)).trans (hissued.ctxReset.trans (hctx y).1),
        Core.goesOn_of_free ((congrArg Ctx.hold (hkept y)).trans hissued.hold)⟩
    · have hsame := (hkept y).trans (hissued.others y hy)
      refine ⟨(congrArg Ctx.resetting hsame).trans (hctx y).1,
        Core.goesOn_of_issue (u := u) (n := (s.core c).nextUid) hsame (Ne.symm hy) ?_ ?_ ?_ (hctx y).2⟩
      · rw [State.core_enqueue]; exact hissued.live
      · rw [State.core_enqueue]; exact hissued.posts
      · rw [State.core_enqueue]; exact hissued.txns

end

/-! ## The clauses -/

theorem opcode_seqRow (w : Cmd) : ∀ r ∈ seqRows, opcode (withOpcode w r.1) = r.1 := by
  have hsmall : ∀ op ∈ seqRows.map (·.1), op < 2 ^ 8 := by decide
  exact fun r hr => opcode_withOpcode w r.1 (hsmall _ (List.mem_map_of_mem hr))

theorem unitOf_lt {w : Cmd} {u : Nat} (h : unitOf w = some u) : u < 18 := by
  unfold unitOf at h
  dsimp only at h
  split at h
  · split at h
    · cases h; omega
    · cases h
  · split at h
    · cases h; omega
    · split at h
      · cases h
        have := (dmaQueueOf w).isLt
        omega
      · cases h

section
variable {s : State} {c : CoreId} {x : CtxId} {w : Cmd} {u : Nat}

theorem State.linkUp_unitIssued (p : PortId) : (s.unitIssued c x w u).linkUp p = s.linkUp p := by
  rw [State.linkUp, State.linkUp, State.lnkState, State.lnkState,
    State.pg_unitIssued (.lnk p) LNK_STAT (by decide) (by rintro (⟨h, -⟩ | ⟨h, -⟩) <;> cases h)]

theorem exec_unitRow {r : Nat × (CoreId → CtxId → Cmd → Instr)} (hr : r ∈ seqRows) (h : s.clears c x (withOpcode w r.1) = true)
    (hu : unitOf (withOpcode w r.1) = some u) : exec (r.2 c x w) s =
      .next (((s.unitIssued c x (withOpcode w r.1) u).accept c u (s.headJob c x (withOpcode w r.1))).settle c) := by
  rw [exec_seqRow c x w s r hr, State.command_of_clears h, State.issueNow_unit hu]

end

/-- Settles O15: an issue leaves a calm core calm, so that settling it changes nothing. -/
theorem issueDisturbsNothing : Obligations.IssueDisturbsNothing := by
  intro r hr c x w s u hclears hu h9 hcalm hlink
  have hissued : Core.Issued x u (s.core c) ((s.unitIssued c x (withOpcode w r.1) u).core c) := Core.issued_unitIssued
  have hqueue : (s.unitIssued c x (withOpcode w r.1) u).accept c u (s.headJob c x (withOpcode w r.1)) =
      (s.unitIssued c x (withOpcode w r.1) u).enqueue c u (s.headJob c x (withOpcode w r.1)) := by
    refine State.accept_of_queue fun ⟨hop, hdata, hport⟩ => ?_
    rcases hlink ((opcode_seqRow w r hr).symm.trans hop) with hnone | hup
    · exact hdata hnone
    · rw [State.linkUp_unitIssued] at hport
      exact Bool.false_ne_true (hport.symm.trans hup)
  refine ⟨_, (exec_unitRow hr hclears hu).trans (by rw [hqueue, State.settle_of_calm (State.calm_queued hcalm h9)]),
    regsCores_trans State.unitIssued_frame rfl, fun d hd => (State.core_enqueue_other hd).trans (State.core_unitIssued_other hd),
    fun y hy => ?others, ?cur, fun v hv => ?units, fun q => ?queues, ?waits, ?live, fun p o ho hctx hseq => ?regs⟩
  case others =>
    rw [State.ctx, State.core_enqueue]
    exact hissued.others y hy
  case cur =>
    rw [State.ctx, State.core_enqueue]
    exact hissued.cur
  case units =>
    rw [State.unit_enqueue v hv, Core.unit, hissued.units]
    exact ⟨rfl, rfl⟩
  case queues =>
    rw [State.dmaq_enqueue q (unitOf_lt hu), hissued.dmaq]
    exact ⟨rfl, rfl, rfl⟩
  case waits =>
    rw [State.core_enqueue]
    exact hissued.waits
  case live =>
    rw [State.core_enqueue]
    exact hissued.live
  case regs => exact State.pg_unitIssued p o ho (not_or.2 ⟨hctx, hseq⟩)

/-! ## An RSIGNAL to a port that is not UP (R372, R374) -/

section
variable {s : State} {c : CoreId} {j : Job}

theorem State.core_refuseRsignal : (s.refuseRsignal c j).core c =
    { s.core c with dmaq := ((s.refuseRsignal c j).core c).dmaq } := by
  rw [State.refuseRsignal, State.endRsignal, State.core_record, State.core_modCore, State.core_modCore]
  rfl

theorem State.dmaq_refuseRsignal : ((s.refuseRsignal c j).core c).dmaq[dmaQueueOf j.cmd] =
    { (s.core c).dmaq[dmaQueueOf j.cmd] with
      halted := true,
      run := (((s.core c).dmaq[dmaQueueOf j.cmd]).run ++ [rsRun j]).map fun t =>
        if t.job.uid = j.uid then { t with withheld := true, started := true } else t } := by
  rw [State.refuseRsignal, State.endRsignal, State.core_record, State.core_modCore, State.core_modCore]
  exact (vmod_same ..).trans (by rw [Core.modQueue, vmod_same]; rfl)

theorem State.refuseRsignal_frame : s.refuseRsignal c j =
    { s with regs := (s.refuseRsignal c j).regs, cores := (s.refuseRsignal c j).cores, mgmt := (s.refuseRsignal c j).mgmt,
             host := (s.refuseRsignal c j).host } := by
  rw [State.refuseRsignal, State.endRsignal, State.record_frame]
  rfl

theorem bits_rsEndRec (code : Nat) (w : Cmd) (sig : Bool) (off : Nat) (rid : Option W16) :
    bits (rsEndRec code w sig off rid).i0 0 8 = OP_RSIGNAL ∧ bits (rsEndRec code w sig off rid).i0 8 4 = (rsPort w).val := by
  have hp := (rsPort w).isLt
  have hh : rsHid w < 256 := bits_lt w[1] 8 8
  have hs : bn sig < 2 := by cases sig <;> decide
  have hi : (rsEndRec code w sig off rid).i0.toNat = OP_RSIGNAL + (rsPort w).val * 256 + rsHid w * 4096 + bn sig * 1048576 := by
    simp only [rsEndRec, mkRec, w32, BitVec.toNat_ofNat, Nat.shiftLeft_eq, OP_RSIGNAL]
    omega
  rw [bits, bits, hi]
  simp only [OP_RSIGNAL, Nat.shiftRight_eq_div_pow, Nat.reducePow, Nat.reduceShiftLeft]
  omega

/-- What the page of its context records of it. -/
theorem State.pg_refuseRsignal : (s.refuseRsignal c j).pg (.ctx c j.ctx) PG_ERR_CODE = 0x0401 ∧
    bits ((s.refuseRsignal c j).pg (.ctx c j.ctx) PG_ERR_INFO0) 0 8 = OP_RSIGNAL ∧
    bits ((s.refuseRsignal c j).pg (.ctx c j.ctx) PG_ERR_INFO0) 8 4 = (rsPort j.cmd).val ∧
    bit ((s.refuseRsignal c j).pg (.ctx c j.ctx) PG_EVT_RAW) EVT_ERR = true := by
  obtain ⟨t, ht⟩ : ∃ t : State, s.refuseRsignal c j = t.record (.ctx c j.ctx) (rsEndRec 0x0401 j.cmd false 0 none) := ⟨_, rfl⟩
  obtain ⟨hcode, hinfo, hevent⟩ := t.record_spec c j.ctx (rsEndRec 0x0401 j.cmd false 0 none)
  obtain ⟨hop, hport⟩ := bits_rsEndRec 0x0401 j.cmd false 0 none
  rw [ht, hinfo]
  exact ⟨hcode, hop, hport, hevent⟩

end

/-- Settles O14: the unit's queue gains the command, but for an RSIGNAL whose port is not UP. -/
theorem unitCommandsIssue : Obligations.UnitCommandsIssue := by
  intro r hr c x w s u hclears hu j i lost
  have hport (p : PortId) : i.linkUp p = s.linkUp p := State.linkUp_unitIssued p
  have hop := opcode_seqRow w r hr
  refine ⟨fun hqueue => (exec_unitRow hr hclears hu).trans ?queued, fun ⟨hrow, hdata, hdown⟩ => ?lost⟩
  case queued =>
    rw [State.accept_of_queue]
    · rfl
    · rintro ⟨hrow, hdata, hdown⟩
      exact hqueue ⟨hop.symm.trans hrow, hdata, (hport _).symm.trans hdown⟩
  case lost =>
    have hlost : i.accept c u j = i.refuseRsignal c j := State.accept_of_lost (hop.trans hrow) hdata ((hport _).trans hdown)
    obtain ⟨hcode, hopcode, hname, hevent⟩ : _ ∧ _ ∧ _ ∧ _ := State.pg_refuseRsignal (s := i) (c := c) (j := j)
    refine ⟨i.refuseRsignal c j, (exec_unitRow hr hclears hu).trans (congrArg (fun t : State => Host.Outcome.next (t.settle c)) hlost),
      State.refuseRsignal_frame, ?halted, ?queue, ?withheld, ?txns, hcode, hopcode, hname, hevent⟩
    case halted => rw [State.dmaq_refuseRsignal]
    case queue => rw [State.dmaq_refuseRsignal]
    case withheld =>
      rw [State.dmaq_refuseRsignal]
      exact ⟨_, List.mem_map_of_mem (List.mem_append_right _ (List.mem_singleton_self (rsRun j))), by simp [rsRun], by simp [rsRun]⟩
    case txns => rw [State.core_refuseRsignal]

end Sys2Proof.Machine
end

section
/-! SIGNAL, WAIT, BARRIER and FENCE (R208, R209, R296, R297, R300, R307, R312 to R316). -/

namespace Sys2Proof.Machine
open Sys2Proof

section
variable {s : State} {c : CoreId} {x : CtxId} {w : Cmd}

theorem State.issueNow_signal (hop : opcode w = OP_SIGNAL) :
    (s.atHead c x w).issueNow c x w (s.headDesc c x w) (s.headOff c x) = (s.seqIssued c x w).issueSignal c (s.headJob c x w) := by
  simp only [State.issueNow, unitOf_eq_none hop (by decide), hop]
  rfl

theorem State.issueNow_wait (hop : opcode w = OP_WAIT) :
    (s.atHead c x w).issueNow c x w (s.headDesc c x w) (s.headOff c x) = (s.seqIssued c x w).issueWait c (s.headJob c x w) := by
  simp only [State.issueNow, unitOf_eq_none hop (by decide), hop]
  rfl

theorem State.issueNow_barrier (hop : opcode w = OP_BARRIER) :
    (s.atHead c x w).issueNow c x w (s.headDesc c x w) (s.headOff c x) = (s.seqIssued c x w).issueBarrier c (s.headJob c x w) := by
  simp only [State.issueNow, unitOf_eq_none hop (by decide), hop]
  rfl

theorem State.issueNow_fence (hop : opcode w = OP_FENCE) :
    (s.atHead c x w).issueNow c x w (s.headDesc c x w) (s.headOff c x) = (s.seqIssued c x w).issueFence c (s.headJob c x w) := by
  simp only [State.issueNow, unitOf_eq_none hop (by decide), hop]
  rfl

end

/-- A bit of the command of a job beyond its first word is the bit of the command as given. -/
theorem cb_headJob (s : State) (c : CoreId) (x : CtxId) (w : Cmd) (op : Nat) {i : Fin 8} (b : Nat) (h : i ≠ 0) :
    cb (s.headJob c x (withOpcode w op)).cmd i b = cb w i b := by
  rw [cb, cb, ← get_withOpcode w op i h]
  rfl

/-! ## SIGNAL -/

section
variable {s : State} {c : CoreId} {word m : Nat} {g : W16}

theorem State.applyDecrement_of_le (h : m ≤ (s.syncAt c word).count) : s.applyDecrement c word m g =
    ((s.putSync c word { s.syncAt c word with count := (s.syncAt c word).count - m, last := g }).countSync c, none) := if_pos h

theorem State.applyDecrement_of_lt (h : (s.syncAt c word).count < m) : s.applyDecrement c word m g =
    ((s.putSync c word { s.syncAt c word with refused := true }).countSync c, some (s.syncAt c word).count) := if_neg (Nat.not_le.2 h)

end

section
variable {s : State} {c : CoreId} {j : Job}

/-- The word that a SIGNAL names. -/
def State.sigTarget (s : State) (c : CoreId) (j : Job) : SigTarget :=
  { core := mapCore (s.mapEntry c j.ctx (cf j.cmd 1 0 8)), word := mapWord (s.mapEntry c j.ctx (cf j.cmd 1 0 8)) }

/-- What a SIGNAL of a negative amount takes away. -/
def Job.decrement (j : Job) : Nat := 0x1_0000_0000 - j.cmd[2].toNat

theorem ne_zero_of_msb {n : W32} (h : n.msb = true) : n ≠ 0 := fun h0 => by simp [h0] at h

theorem State.issueSignal_of_zero (h : j.cmd[2] = 0) : s.issueSignal c j = s.complete c j := if_pos h

theorem State.issueSignal_of_pos (h : j.cmd[2] ≠ 0) (hm : j.cmd[2].msb = false) : s.issueSignal c j =
    if (s.sigTarget c j).core = c then (s.applySignal c (s.sigTarget c j).word j.cmd[2].toNat (gcidOf c j.ctx)).complete c j
    else (s.postRemote c j.ctx (s.sigTarget c j) j.cmd[2].toNat false (some j)).1 := by
  exact (if_neg h).trans (if_neg (by simp [hm]))

theorem State.issueSignal_of_neg_own (hm : j.cmd[2].msb = true) (hc : (s.sigTarget c j).core = c)
    (hle : j.decrement ≤ (s.syncAt c (s.sigTarget c j).word).count) : s.issueSignal c j =
      (s.applyDecrement c (s.sigTarget c j).word j.decrement (gcidOf c j.ctx)).1.complete c j := by
  simp only [State.sigTarget, Job.decrement] at hc hle ⊢
  simp only [State.issueSignal, ne_zero_of_msb hm, hm, hc, ↓reduceIte, State.applyDecrement_of_le hle]

theorem State.issueSignal_of_underflow (hm : j.cmd[2].msb = true) (hc : (s.sigTarget c j).core = c)
    (hlt : (s.syncAt c (s.sigTarget c j).word).count < j.decrement) : s.issueSignal c j =
      ((s.applyDecrement c (s.sigTarget c j).word j.decrement (gcidOf c j.ctx)).1.retire c j.uid).foundFault c j.ctx
        (underflowRec j.cmd (s.sigTarget c j).word c (s.syncAt c (s.sigTarget c j).word).count j.decrement) j.off (some j.cmd) := by
  simp only [State.sigTarget, Job.decrement] at hc hlt ⊢
  simp only [State.issueSignal, ne_zero_of_msb hm, hm, hc, ↓reduceIte, State.applyDecrement_of_lt hlt]

theorem State.issueSignal_of_neg_other (hm : j.cmd[2].msb = true) (hc : (s.sigTarget c j).core ≠ c) : s.issueSignal c j =
    (s.postRemote c j.ctx (s.sigTarget c j) j.decrement true (some j)).1.holdCtx c j.ctx (.decrement j (s.core c).nextPost) := by
  exact (if_neg (ne_zero_of_msb hm)).trans ((if_pos hm).trans (if_neg hc))

end

/-! ## WAIT, BARRIER and FENCE -/

section
variable {s : State} {c : CoreId} {w : Wait} {j : Job}

theorem State.waitWord_of_passes (hq : (s.core c).queueOn w.word = []) (hn : w.n ≤ (s.syncAt c w.word).count) :
    s.waitWord c w =
      ((s.putSync c w.word { s.syncAt c w.word with count := (s.syncAt c w.word).count - w.n }).countSync c, true) :=
  if_pos (by simp [hq, hn])

theorem State.waitWord_of_waits (h : (s.core c).queueOn w.word ≠ [] ∨ (s.syncAt c w.word).count < w.n) :
    s.waitWord c w = (((s.enqueueWait c w).putSync c w.word (s.syncAt c w.word)).countSync c, false) :=
  if_neg (by simpa [imp_iff_not_or] using h)

theorem State.core_enqueueWait : (s.enqueueWait c w).core c =
    ({ s.core c with waits := (s.core c).waits ++ [w] } : Core).modCtx w.ctx fun x => { (x.go .wait) with hold := .free } := by
  rw [State.enqueueWait, State.core_bump, State.modCtx, State.core_modCore, State.core_modCore]

theorem State.cur_enqueueWait : ((s.enqueueWait c w).ctx c w.ctx).cur = .wait := by
  rw [State.ctx, State.core_enqueueWait, Core.ctx_modCtx]
  exact Ctx.cur_go (s.ctx c w.ctx) (by decide)

/-- The wait that a WAIT puts on its word. -/
def State.waitOfJob (s : State) (c : CoreId) (j : Job) : Wait :=
  { ctx := j.ctx, kind := .wait, vid := BitVec.ofNat 8 (cf j.cmd 1 0 8), word := mapWord (s.mapEntry c j.ctx (cf j.cmd 1 0 8)), line := 0,
    n := j.cmd[2].toNat, tclass := tclassOf j.cmd, remain := s.timeout c (tclassOf j.cmd), job := j, plan := [] }

theorem State.issueWait_of_zero (h : j.cmd[2] = 0) : s.issueWait c j = s.complete c j := if_pos (by simp [h])

theorem State.issueWait_of_pos (h : j.cmd[2] ≠ 0) : s.issueWait c j =
    if (s.waitWord c (s.waitOfJob c j)).2 then (s.waitWord c (s.waitOfJob c j)).1.complete c j
    else (s.waitWord c (s.waitOfJob c j)).1 :=
  if_neg fun h0 => h (BitVec.eq_of_toNat_eq h0)

/-- What a BARRIER does for each word of its plan, with its Realign ID (R316). -/
def State.barrierPlan (s : State) (c : CoreId) (j : Job) : List (Byte × Nat × W32) :=
  if cb j.cmd 1 4 then (s.realignList c (cf j.cmd 2 0 21)).map fun (v, p) => (v, mapWord (s.mapEntry c j.ctx v.toNat), p) else []

theorem State.issueBarrier_eq (l : LineId) (hl : l = Fin.ofNat 16 (cf j.cmd 1 0 4)) : s.issueBarrier c j =
    if s.inMask c l then (s.enqueueWait c (lineWait s c j .barrier l (s.barrierPlan c j))).arrive l c true
    else (s.bump .pkg 1 1).complete c j := by
  rw [hl]
  rfl

/-- The commands in flight that a FENCE waits for. -/
def Core.fenceUids (k : Core) (w : Cmd) : List Nat := (k.live.filter fun e => fenceNames w e.2.2).map (·.1)

/-- The postings and the writes to other cores' storerooms that a FENCE with the mesh bit waits for. -/
def Core.fencePosts (k : Core) (x : CtxId) (w : Cmd) : List Nat :=
  if cb w 1 18 then (k.posts.filter fun p => p.ctx == x).map (·.num) ++ (k.txns.filter fun t => t.ctx == x).filterMap (·.num) else []

theorem State.issueFence_of_none (hu : (s.core c).fenceUids j.cmd = []) (hp : (s.core c).fencePosts j.ctx j.cmd = []) :
    s.issueFence c j = s.complete c j :=
  if_pos (by
    change (((s.core c).fenceUids j.cmd).isEmpty && ((s.core c).fencePosts j.ctx j.cmd).isEmpty) = true
    simp [hu, hp])

theorem State.issueFence_of_some (h : ¬((s.core c).fenceUids j.cmd = [] ∧ (s.core c).fencePosts j.ctx j.cmd = [])) :
    s.issueFence c j = s.holdCtx c j.ctx (.fence j ((s.core c).fenceUids j.cmd) ((s.core c).fencePosts j.ctx j.cmd)) :=
  if_neg (by
    change ¬(((s.core c).fenceUids j.cmd).isEmpty && ((s.core c).fencePosts j.ctx j.cmd).isEmpty) = true
    simpa using h)

end

/-! ## The commands as rows -/

section
variable {s : State} {c : CoreId} {x : CtxId} {w : Cmd}

theorem exec_signal (h : s.clears c x (withOpcode w OP_SIGNAL) = true) : exec (.signal c x w) s =
    .next (((s.seqIssued c x (withOpcode w OP_SIGNAL)).issueSignal c (s.headJob c x (withOpcode w OP_SIGNAL))).settle c) := by
  rw [← State.issueNow_signal (opcode_withOpcode _ _ (by decide))]
  exact State.command_of_clears h

theorem exec_wait (h : s.clears c x (withOpcode w OP_WAIT) = true) : exec (.wait c x w) s =
    .next (((s.seqIssued c x (withOpcode w OP_WAIT)).issueWait c (s.headJob c x (withOpcode w OP_WAIT))).settle c) := by
  rw [← State.issueNow_wait (opcode_withOpcode _ _ (by decide))]
  exact State.command_of_clears h

theorem exec_barrier (h : s.clears c x (withOpcode w OP_BARRIER) = true) : exec (.barrier c x w) s =
    .next (((s.seqIssued c x (withOpcode w OP_BARRIER)).issueBarrier c (s.headJob c x (withOpcode w OP_BARRIER))).settle c) := by
  rw [← State.issueNow_barrier (opcode_withOpcode _ _ (by decide))]
  exact State.command_of_clears h

theorem exec_fence (h : s.clears c x (withOpcode w OP_FENCE) = true) : exec (.fence c x w) s =
    .next (((s.seqIssued c x (withOpcode w OP_FENCE)).issueFence c (s.headJob c x (withOpcode w OP_FENCE))).settle c) := by
  rw [← State.issueNow_fence (opcode_withOpcode _ _ (by decide))]
  exact State.command_of_clears h

end

/-- Settles O17: each command clears and issues, and its effect is that of the case that its amount and its word's core, its line or what
it names are in. -/
theorem syncCommands : Obligations.SyncCommands := by
  refine ⟨fun c x w s h => ?signal, fun s c w => ?word, fun c x w s => ⟨fun h => ?wait, fun h => ?barrier, fun h => ?fence⟩⟩
  case signal =>
    rw [exec_signal h]
    intro i j e m
    have hn : j.cmd[2] = w[2] := threshold_withOpcode w _
    have ht : i.sigTarget c j = { core := mapCore e, word := mapWord e } := by
      rw [State.sigTarget, cf_headJob (h := by decide)]
      rfl
    have hm : j.decrement = m := congrArg (fun n : W32 => 0x1_0000_0000 - n.toNat) hn
    refine ⟨fun h0 => ?zero, fun h0 hpos hown => ?own, fun h0 hpos hother => ?other, fun hneg hown hle => ?decrement,
      fun hneg hown hlt => ?underflow, fun hneg hother => ?remote⟩
    case zero => rw [State.issueSignal_of_zero (hn.trans h0)]
    case own => rw [State.issueSignal_of_pos (by rwa [hn]) (by rwa [hn]), ht, if_pos hown, hn]; rfl
    case other => rw [State.issueSignal_of_pos (by rwa [hn]) (by rwa [hn]), ht, if_neg hother, hn]; rfl
    case decrement => rw [State.issueSignal_of_neg_own (by rwa [hn]) (by rwa [ht]) (by rwa [ht, hm]), ht, hm]; rfl
    case underflow => rw [State.issueSignal_of_underflow (by rwa [hn]) (by rwa [ht]) (by rwa [ht, hm]), ht, hm]; rfl
    case remote => rw [State.issueSignal_of_neg_other (by rwa [hn]) (by rwa [ht]), ht, hm]; rfl
  case word =>
    exact ⟨State.waitWord_of_passes, State.waitWord_of_waits, by rw [State.core_enqueueWait]; rfl, State.cur_enqueueWait⟩
  case wait =>
    rw [exec_wait h]
    intro i j wt
    have hn : j.cmd[2] = w[2] := threshold_withOpcode w _
    have hwt : i.waitOfJob c j = wt := by
      rw [State.waitOfJob, cf_headJob (h := by decide), hn]
      rfl
    refine ⟨fun h0 => ?zero, fun h0 hpass => ?passes, fun h0 hwait => ?waits⟩
    case zero => rw [State.issueWait_of_zero (hn.trans h0)]
    case passes => rw [State.issueWait_of_pos (by rwa [hn]), hwt, if_pos hpass]
    case waits => rw [State.issueWait_of_pos (by rwa [hn]), hwt, if_neg (ne_true_of_eq_false hwait)]
  case barrier =>
    rw [exec_barrier h]
    intro i j l plan
    have hl : l = Fin.ofNat 16 (cf j.cmd 1 0 4) := by rw [cf_headJob s c x w _ 0 4 (by decide)]
    have hplan : i.barrierPlan c j = plan := by
      rw [State.barrierPlan, cf_headJob s c x w _ 0 21 (by decide), cb_headJob s c x w _ 4 (by decide)]
      rfl
    refine ⟨fun hmask => ?inside, fun hmask => ?outside⟩
    case inside => rw [State.issueBarrier_eq l hl, if_pos hmask, hplan]
    case outside => rw [State.issueBarrier_eq l hl, if_neg (ne_true_of_eq_false hmask)]
  case fence =>
    rw [exec_fence h]
    intro i j uids posts
    have hcmd : j.cmd = withOpcode w OP_FENCE := rfl
    have huids : (i.core c).fenceUids j.cmd = uids := by rw [hcmd]; rfl
    have hposts : (i.core c).fencePosts j.ctx j.cmd = posts := by
      rw [Core.fencePosts, cb_headJob s c x w _ 18 (by decide)]
      rfl
    refine ⟨fun hu hp => ?free, fun hbusy => ?held⟩
    case free => rw [State.issueFence_of_none (huids.trans hu) (hposts.trans hp)]
    case held =>
      rw [State.issueFence_of_some (by rwa [huids, hposts]), huids, hposts]
      rfl

end Sys2Proof.Machine
end

section
/-! Signals, decrements and acknowledgements that arrive over the mesh (R25, R208, R209, R296 to R298, R307). -/

namespace Sys2Proof.Machine
open Sys2Proof

theorem State.modCore_congr {s : State} {c : CoreId} {f g : Core → Core} (h : f (s.core c) = g (s.core c)) :
    s.modCore c f = s.modCore c g := by
  have h' : vmod s.cores c f = vmod s.cores c g := congrArg (s.cores.set c) h
  rw [State.modCore, State.modCore, h']

theorem State.writeAhead_iff (s : State) (b c : CoreId) (post : Nat) : s.writeAhead b c post = true ↔
    ∃ t ∈ (s.core b).txns, t.wrote = false ∧ (∃ n, t.sent = some n ∧ n ≤ post) ∧ s.remoteDst b t.body = some c ∧
      orderFree b t (s.core b).txns = true := by
  simp [State.writeAhead, and_assoc, Option.any_eq_true]

section
variable {s : State} {c : CoreId} {m : SyncMsg} {a b : List SyncMsg} {dec : Bool}

/-! ## The signal that a core takes -/

theorem State.nextSignal_of_blocked (h : ∀ m ∈ (s.core c).inbox, s.writeAhead m.src c m.post = true) : s.nextSignal c = none :=
  List.find?_eq_none.2 fun m hm => by simp [h m hm]

theorem State.nextSignal_of_first (hin : (s.core c).inbox = a ++ m :: b) (ha : ∀ e ∈ a, s.writeAhead e.src c e.post = true)
    (hm : s.writeAhead m.src c m.post = false) : s.nextSignal c = some m := by
  rw [State.nextSignal, hin, List.find?_append, List.find?_eq_none.2 fun e he => by simp [ha e he]]
  simp [hm]

/-- The core with the signal taken out of its inbox. -/
def State.unboxed (s : State) (c : CoreId) (l : List SyncMsg) : State := (s.modCore c fun k => { k with inbox := l }).touch c

theorem State.unboxed_eq (hin : (s.core c).inbox = a ++ m :: b) (ha : m ∉ a) :
    (s.modCore c fun k => { k with inbox := k.inbox.erase m }).touch c = s.unboxed c (a ++ b) := by
  rw [State.unboxed, State.modCore_congr (g := fun k => { k with inbox := a ++ b })]
  rw [hin, List.erase_append_right _ ha, List.erase_cons_head]

theorem State.takeSignal_of_none (h : s.nextSignal c = none) : s.takeSignal c dec = s := by
  rw [State.takeSignal, h]

theorem State.takeSignal_of_other (h : s.nextSignal c = some m) (hd : m.dec ≠ dec) : s.takeSignal c dec = s := by
  rw [State.takeSignal, h]
  exact if_pos (by simpa using hd)

section
variable (h : s.nextSignal c = some m) (hin : (s.core c).inbox = a ++ m :: b) (ha : m ∉ a)
include h hin ha

theorem State.takeSignal_of_excluded (hp : s.peer c m.src = false) :
    s.takeSignal c m.dec = ((s.unboxed c (a ++ b)).bump (.sync c) 3 1).sendAck c m .refused := by
  have hp' : (s.unboxed c (a ++ b)).peer c m.src = false := hp
  simp only [State.takeSignal, h, bne_self_eq_false, State.unboxed_eq hin ha, hp']
  rfl

theorem State.takeSignal_of_signal (hp : s.peer c m.src = true) (hd : m.dec = false) :
    s.takeSignal c false = (((s.unboxed c (a ++ b)).applySignal c m.word m.n m.gcid).sendAck c m .applied).settle c := by
  have hp' : (s.unboxed c (a ++ b)).peer c m.src = true := hp
  simp only [State.takeSignal, h, hd, bne_self_eq_false, State.unboxed_eq hin ha, hp']
  rfl

/-- What a decrement that a core has taken comes to, refused or not, goes back in its acknowledgement. -/
theorem State.takeSignal_of_decrement (hp : s.peer c m.src = true) (hd : m.dec = true) {t : State} {r : Option Nat}
    (happ : (s.unboxed c (a ++ b)).applyDecrement c m.word m.n m.gcid = (t, r)) :
    s.takeSignal c true = t.sendAck c m ((r.map fun cnt => .underflow (w32 cnt) m.word c).getD .applied) := by
  have hp' : (s.unboxed c (a ++ b)).peer c m.src = true := hp
  simp only [State.takeSignal, h, hd, bne_self_eq_false, State.unboxed_eq hin ha, hp', happ]
  cases r <;> rfl

end

end

section
variable {s : State} {c : CoreId} (hup : s.coreUp c = true)
include hup

theorem exec_syncSignalArrival : exec (.syncSignalArrival c) s = .next (s.takeSignal c false) := congrArg Host.Outcome.next (if_pos hup)

theorem exec_syncDecrement : exec (.syncDecrement c) s = .next (s.takeSignal c true) := congrArg Host.Outcome.next (if_pos hup)

theorem exec_meshAcknowledgement : exec (.meshAcknowledgement c) s = .next (s.takeAck c) := congrArg Host.Outcome.next (if_pos hup)

end

/-! ## The acknowledgement that reaches a core -/

section
variable {s : State} {c : CoreId} {a : AckMsg} {rest : List AckMsg} {j : Job}

/-- The job that a posting completes. -/
def Core.postJob (k : Core) (n : Nat) : Option Job := (k.posts.find? fun p => p.num == n).bind (·.job)

/-- The core with the acknowledgement taken and its posting over. -/
def State.ackTaken (s : State) (c : CoreId) (rest : List AckMsg) (n : Nat) : State :=
  s.modCore c fun k => { k with acks := rest, posts := k.posts.filter fun p => p.num != n }

/-- A context is held for the answer to the decrement that was posted as n. -/
def Hold.awaits (h : Hold) (n : Nat) : Bool :=
  match h with
  | .decrement _ m => m == n
  | _ => false

theorem Hold.awaits_eq_false {h : Hold} {n : Nat} (hn : ∀ j m, h = .decrement j m → m ≠ n) : h.awaits n = false := by
  cases h with
  | decrement j m => simpa [Hold.awaits] using hn j m rfl
  | _ => rfl

theorem State.hold_ackTaken (n : Nat) (x : CtxId) : ((s.ackTaken c rest n).ctx c x).hold = (s.ctx c x).hold := by
  rw [State.ctx, State.ackTaken, State.core_modCore]
  rfl

/-- What an acknowledgement does to the SIGNAL that waited for it. -/
def State.ackJob (s : State) (c : CoreId) (j : Job) (held : Bool) (o : Outcome) : State :=
  match held, o with
  | true, .underflow cnt word core =>
    (s.retire c j.uid).foundFault c j.ctx (underflowRec j.cmd word core cnt.toNat (0x1_0000_0000 - j.cmd[2].toNat)) j.off (some j.cmd)
  | true, .refused => (s.retire c j.uid).foundFault c j.ctx (refusedRec j.cmd) j.off (some j.cmd)
  | true, .applied => (s.unholdCtx c j.ctx).complete c j
  | false, _ => s.complete c j

theorem State.takeAck_of_none (hacks : (s.core c).acks = a :: rest) (hj : (s.core c).postJob a.post = none) :
    s.takeAck c = (s.ackTaken c rest a.post).settle c := by
  have hj' : ((s.core c).posts.find? fun p => p.num == a.post).bind (·.job) = none := hj
  simp only [State.takeAck, hacks, hj']
  rfl

theorem State.takeAck_of_job (hacks : (s.core c).acks = a :: rest) (hj : (s.core c).postJob a.post = some j) :
    s.takeAck c = ((s.ackTaken c rest a.post).ackJob c j ((s.ctx c j.ctx).hold.awaits a.post) a.out).settle c := by
  have hj' : ((s.core c).posts.find? fun p => p.num == a.post).bind (·.job) = some j := hj
  rw [← State.hold_ackTaken (rest := rest) a.post j.ctx]
  simp only [State.takeAck, hacks, hj']
  rfl

end

/-- Settles O36: which signal is next, then the case it is in; for an acknowledgement, the posting's job and whether its context is held
for it. -/
theorem meshSignals : Obligations.MeshSignals := by
  refine ⟨fun c s hup hblocked => ?blocked, State.writeAhead_iff, fun c m a b s hup hin hnot hahead hfree => ?taken,
    fun c a rest s hup hacks => ?ack⟩
  case blocked =>
    have hnone := State.nextSignal_of_blocked hblocked
    rw [exec_syncSignalArrival hup, exec_syncDecrement hup, State.takeSignal_of_none hnone, State.takeSignal_of_none hnone]
    exact ⟨rfl, rfl⟩
  case taken =>
    have hnext := State.nextSignal_of_first hin hahead hfree
    intro i
    rw [exec_syncSignalArrival hup, exec_syncDecrement hup]
    refine ⟨fun hd => ?notSignal, fun hd => ?notDecrement, fun hd hp => ?refusedSignal, fun hd hp => ?refusedDecrement,
      fun hd hp => ?signal, fun hd hp => ⟨fun hle => ?decrement, fun hlt => ?underflow⟩⟩
    case notSignal => rw [State.takeSignal_of_other hnext (by simp [hd])]
    case notDecrement => rw [State.takeSignal_of_other hnext (by simp [hd])]
    case refusedSignal => rw [← hd, State.takeSignal_of_excluded hnext hin hnot hp]; rfl
    case refusedDecrement => rw [← hd, State.takeSignal_of_excluded hnext hin hnot hp]; rfl
    case signal => rw [State.takeSignal_of_signal hnext hin hnot hp hd]; rfl
    case decrement => rw [State.takeSignal_of_decrement hnext hin hnot hp hd (State.applyDecrement_of_le hle)]; rfl
    case underflow => rw [State.takeSignal_of_decrement hnext hin hnot hp hd (State.applyDecrement_of_lt hlt)]; rfl
  case ack =>
    rw [exec_meshAcknowledgement hup]
    intro i p
    refine ⟨fun hj => ?posting, fun j hj => ⟨fun hother => ?notHeld, fun j' hhold => ?held⟩⟩
    case posting => rw [State.takeAck_of_none hacks hj]; rfl
    case notHeld => rw [State.takeAck_of_job hacks hj, Hold.awaits_eq_false hother]; rfl
    case held =>
      have hawaits : (s.ctx c j.ctx).hold.awaits a.post = true := by rw [hhold]; exact beq_self_eq_true _
      rw [State.takeAck_of_job hacks hj, hawaits]
      exact ⟨fun ho => by rw [ho]; rfl, fun ho => by rw [ho]; rfl, fun cnt word core ho => by rw [ho]; rfl⟩

end Sys2Proof.Machine
end

section
/-! The save area of a context whose next command was fetched poisoned (R185, R421). -/

namespace Sys2Proof.Machine
open Sys2Proof

/-- A HALT, the next command of a context. -/
def poisonedHead : Cmd := withOpcode Cmd.zero OP_HALT

/-- Context 0 of core 0 holds its next command, which it has fetched from a poisoned word; it waits for nothing and nothing holds it. -/
def State.withPoisonedHead : State := State.reset.modCtx 0 0 fun t => { t with head := some poisonedHead, bad := some (0, false) }

/-- The command that the save area shows there is no command. -/
theorem areaCmd_withPoisonedHead : areaCmd (State.withPoisonedHead.saveArea 0 0) = Cmd.zero := by decide +kernel

theorem savedWait_withPoisonedHead : State.withPoisonedHead.savedWait 0 0 = none := by decide +kernel

theorem ctx_withPoisonedHead : (State.withPoisonedHead.ctx 0 0).hold = .free ∧
    (State.withPoisonedHead.ctx 0 0).head = some poisonedHead := by
  rw [State.withPoisonedHead, State.ctx_modCtx]
  exact ⟨by decide +kernel, rfl⟩

/-- Refutes O42: of a context whose next command was fetched poisoned a save shows none (`State.headCmd`), so that it is read again, where
the statement has the command as fetched. -/
theorem not_saveAreaLayout : ¬ Obligations.SaveAreaLayout := by
  intro h
  obtain ⟨-, -, -, -, -, -, -, -, hcmd, -⟩ := h.1 State.withPoisonedHead 0 0
  obtain ⟨hhold, hhead⟩ := ctx_withPoisonedHead
  rw [areaCmd_withPoisonedHead, savedWait_withPoisonedHead, hhold, hhead] at hcmd
  exact absurd hcmd (by decide)

end Sys2Proof.Machine
end

section
/-! What a transaction of a MOVE stores (R204, R268, R309, R334). -/

namespace Sys2Proof.Machine
open Sys2Proof

/-! ## FE and poison after a write outside the cellar -/

/-- A run that is not empty is split at its first bound. -/
theorem splitAtBounds_of_ne_nil {α : Type} {l : List α} (h : l ≠ []) (g f a : Nat) :
    splitAtBounds g (f + 1) a l =
      (a, l.take (min (g - a % g) l.length)) :: splitAtBounds g f (a + min (g - a % g) l.length) (l.drop (min (g - a % g) l.length)) := by
  cases l with
  | nil => exact absurd rfl h
  | cons v r => rfl

theorem Mem.feAt_writeChunk (m : Mem) (a w : Nat) (l : List (Byte × Bool)) :
    (m.writeChunk a l).feAt w = if l.length = 8 ∧ w = a / 8 then false else m.feAt w := by
  rw [Mem.writeChunk]
  by_cases h : l.length = 8 <;> simp [h]

theorem Mem.poisonAt_writeChunk_other (m : Mem) {a w : Nat} (l : List (Byte × Bool)) (h : w ≠ a / 8) :
    (m.writeChunk a l).poisonAt w = m.poisonAt w := by
  rw [Mem.writeChunk]
  split <;> simp [h]

/-- The words that a run covers whole lose their FE. -/
theorem Mem.feAt_foldChunks (f : Nat) (m : Mem) (a w : Nat) (l : List (Byte × Bool)) (hf : l.length ≤ f) :
    ((splitAtBounds 8 f a l).foldl (fun m c => m.writeChunk c.1 c.2) m).feAt w =
      if a ≤ 8 * w ∧ 8 * w + 8 ≤ a + l.length then false else m.feAt w := by
  induction f generalizing m a l with
  | zero => exact (if_neg (by omega)).symm
  | succ f ih =>
    by_cases hl : l = []
    · subst hl
      exact (if_neg (by simp; omega)).symm
    · have hpos := List.length_pos_iff.2 hl
      rw [splitAtBounds_of_ne_nil hl, List.foldl_cons, ih _ _ _ (by rw [List.length_drop]; omega), Mem.feAt_writeChunk,
        List.length_drop, List.length_take, ← ite_or]
      exact if_congr (by omega) rfl rfl

/-- The words that a run does not meet keep their poison. -/
theorem Mem.poisonAt_foldChunks (f : Nat) (m : Mem) (a w : Nat) (l : List (Byte × Bool)) (hf : l.length ≤ f)
    (h : 8 * w + 8 ≤ a ∨ a + l.length ≤ 8 * w) :
    ((splitAtBounds 8 f a l).foldl (fun m c => m.writeChunk c.1 c.2) m).poisonAt w = m.poisonAt w := by
  induction f generalizing m a l with
  | zero => rfl
  | succ f ih =>
    by_cases hl : l = []
    · subst hl
      rfl
    · have hpos := List.length_pos_iff.2 hl
      rw [splitAtBounds_of_ne_nil hl, List.foldl_cons, ih _ _ _ (by rw [List.length_drop]; omega) (by rw [List.length_drop]; omega),
        Mem.poisonAt_writeChunk_other _ _ (by omega)]

section
variable (m : Mem) (k a w : Nat) (l : List (Byte × Bool)) (hc : inCellar a = false)
include hc

theorem Mem.write_outside : m.write k a l = (splitAtBounds 8 l.length a l).foldl (fun m c => m.writeChunk c.1 c.2) m :=
  if_neg (by simp [hc])

theorem Mem.feAt_write : (m.write k a l).feAt w = if a ≤ 8 * w ∧ 8 * w + 8 ≤ a + l.length then false else m.feAt w := by
  rw [m.write_outside k a l hc]
  exact Mem.feAt_foldChunks _ m a w l (le_refl _)

theorem Mem.poisonAt_write_other (h : 8 * w + 8 ≤ a ∨ a + l.length ≤ 8 * w) : (m.write k a l).poisonAt w = m.poisonAt w := by
  rw [m.write_outside k a l hc]
  exact Mem.poisonAt_foldChunks _ m a w l (le_refl _) h

end

/-! ## Counting leaves the map as it is -/

/-- Registers alone have changed, and not those that say how much of the cellar is mapped. -/
structure Counted (s t : State) : Prop where
  frame : t = { s with regs := t.regs }
  celSize : ∀ p, t.celSize p = s.celSize p

theorem Counted.refl (s : State) : Counted s s := ⟨rfl, fun _ => rfl⟩

theorem Counted.trans {s t u : State} (h : Counted s t) (k : Counted t u) : Counted s u :=
  ⟨regsOnly_trans h.frame k.frame, fun p => (k.celSize p).trans (h.celSize p)⟩

theorem Counted.bump (s : State) (p : Page) {i : Nat} (n : Nat) (hi : i < 24) : Counted s (s.bump p i n) :=
  ⟨s.bump_frame p i n, fun q => by
    have hstat : (s.bump p i n).pg (.cel q) CEL_STAT = s.pg (.cel q) CEL_STAT :=
      s.pg_bump _ _ _ _ _ hi (by decide) (.inr (.inr (by decide)))
    have hcap : (s.bump p i n).pg (.cel q) CEL_CAP = s.pg (.cel q) CEL_CAP :=
      s.pg_bump _ _ _ _ _ hi (by decide) (.inr (.inr (by decide)))
    rw [State.celSize, State.celSize, hstat, hcap]⟩

theorem Counted.countAccess (s : State) (a n : Nat) {i : Nat} (hi : i < 24) : Counted s (s.countAccess a n i) := by
  rw [State.countAccess]
  split
  · exact Counted.bump s _ n hi
  · exact Counted.bump s _ n hi
  · exact Counted.refl s

theorem Counted.countMerge (s : State) (a n : Nat) : Counted s (s.countMerge a n) := by
  rw [State.countMerge]
  split
  · exact Counted.bump s _ _ (by decide)
  · exact Counted.refl s

theorem Counted.countReads (s : State) (c : CoreId) (x : Txn) : Counted s (s.countReads c x) := by
  rw [State.countReads]
  split
  · exact Counted.refl s
  · exact foldl_keeps (Counted s) _ (fun t e ht =>
      ht.trans ((Counted.bump t _ _ (by decide)).trans (Counted.countAccess _ _ _ (by decide)))) _ s (Counted.refl s)

section
variable {s t : State} (h : Counted s t)
include h

theorem Counted.mgmt : t.mgmt = s.mgmt := by rw [h.frame]

theorem Counted.mem : t.mem = s.mem := by rw [h.frame]

theorem Counted.core (c : CoreId) : t.core c = s.core c := by rw [h.frame]; rfl

theorem Counted.place (a : Nat) : t.place a = s.place a := by
  simp only [State.place, State.atticSize, State.stacks, State.enabled, h.mgmt, h.celSize]
  rfl

theorem Counted.mapped (a n : Nat) : t.mapped a n = s.mapped a n := by
  simp only [State.mapped, h.place]

end

/-! ## A core's write -/

section
variable {s : State} {c : CoreId} {k a : Nat} {l : List (Byte × Bool)}

theorem State.mem_pkgWrite : (s.pkgWrite k a l).mem = s.mem.write k a l := by
  rw [State.pkgWrite, (Counted.countAccess _ _ _ (by decide)).mem]
  exact congrArg (Mem.write · k a l) (Counted.countMerge s a l.length).mem

theorem State.pkgWrite_frame : s.pkgWrite k a l = { s with regs := (s.pkgWrite k a l).regs, mem := (s.pkgWrite k a l).mem } := by
  have hmerge := (Counted.countMerge s a l.length).frame
  have hwrite := (Counted.countAccess ((s.countMerge a l.length).modMem fun m => m.write k a l) a l.length (i := 1) (by decide)).frame
  rw [State.pkgWrite]
  generalize s.countMerge a l.length = u at *
  generalize (u.modMem fun m => m.write k a l).countAccess a l.length 1 = v at *
  rw [hwrite, hmerge]
  rfl

theorem State.core_pkgWrite (d : CoreId) : (s.pkgWrite k a l).core d = s.core d := by
  rw [State.pkgWrite_frame]
  rfl

/-- The core whose storeroom a write of another core reaches over the mesh. -/
def State.reachesMesh (s : State) (c : CoreId) (a : Nat) (d : CoreId) : Bool := decide (d ≠ c) && s.place a == .sto d

/-- A write is made as it is, or arrives besides at the one core that it reaches over the mesh. -/
theorem State.coreWrite_cases (hl : l ≠ []) :
    (s.coreWrite c k a l = s.pkgWrite k a l ∧ ∀ d, s.reachesMesh c a d = false) ∨
    ∃ e, s.coreWrite c k a l = (s.pkgWrite k a l).touch e ∧ ∀ d, s.reachesMesh c a d = decide (d = e) := by
  rw [State.coreWrite]
  cases hp : s.place a with
  | sto e =>
    have hother (d : CoreId) (hd : d ≠ e) : s.reachesMesh c a d = false := by simp [State.reachesMesh, hp, Ne.symm hd]
    by_cases hec : e = c
    · refine .inl ⟨if_pos (.inl hec), fun d => ?_⟩
      by_cases hd : d = e
      · simp [State.reachesMesh, hd, hec]
      · exact hother d hd
    · refine .inr ⟨e, if_neg (by simp [hec, hl]), fun d => ?_⟩
      by_cases hd : d = e
      · simp [State.reachesMesh, hp, hd, hec]
      · rw [hother d hd, decide_eq_false hd]
  | _ => exact .inl ⟨rfl, fun d => by simp [State.reachesMesh, hp]⟩

section
variable (hl : l ≠ [])
include hl

theorem State.core_coreWrite (d : CoreId) : (s.coreWrite c k a l).core d =
    { s.core d with touched := (s.core d).touched || s.reachesMesh c a d } := by
  obtain ⟨h, hr⟩ | ⟨e, h, hr⟩ := s.coreWrite_cases (c := c) (k := k) (a := a) hl
  · rw [h, hr, State.core_pkgWrite, Bool.or_false]
  · by_cases hd : d = e
    · subst hd
      rw [h, hr, State.touch, State.core_modCore, State.core_pkgWrite]
      simp
    · rw [h, hr, State.touch, State.core_modCore_other _ _ _ _ hd, State.core_pkgWrite]
      simp [hd]

theorem State.mem_coreWrite : (s.coreWrite c k a l).mem = s.mem.write k a l := by
  obtain ⟨h, -⟩ | ⟨e, h, -⟩ := s.coreWrite_cases (c := c) (k := k) (a := a) hl
  · rw [h, State.mem_pkgWrite]
  · rw [h]
    exact State.mem_pkgWrite

theorem State.coreWrite_frame : s.coreWrite c k a l =
    { s with regs := (s.coreWrite c k a l).regs, mem := (s.coreWrite c k a l).mem, cores := (s.coreWrite c k a l).cores } := by
  have hframe := State.pkgWrite_frame (s := s) (k := k) (a := a) (l := l)
  obtain ⟨h, -⟩ | ⟨e, h, -⟩ := s.coreWrite_cases (c := c) (k := k) (a := a) hl <;> rw [h] <;> generalize s.pkgWrite k a l = u at *
  · rw [hframe]
  · rw [hframe]
    rfl

end
end

/-! ## The transaction -/

section
variable {s : State} {c : CoreId} {x : Txn} {src dst n : Nat}

theorem State.length_txnRead (s : State) (x : Txn) (a n : Nat) : (s.txnRead x a n).length = n := by
  rw [State.txnRead]
  split
  · simp [Mem.read]
  · simp [lostBytes]

section
variable (hb : x.body = .move src dst n)
include hb

theorem State.txnData_of_move : s.txnData x = x.got.getD (s.txnRead x src n) := by
  simp [State.txnData, hb, TxnBody.reads]

theorem State.length_txnData (h : x.got = none ∨ ∃ d, x.got = some d ∧ d.length = n) : (s.txnData x).length = n := by
  rw [State.txnData_of_move hb]
  obtain h | ⟨d, h, hd⟩ := h
  · rw [h]
    exact s.length_txnRead x src n
  · rw [h]
    exact hd

/-- The transaction counts what it reads and what it writes, and makes the write of a core. -/
theorem State.applyTxn_of_move (hw : x.wrote = false) (hlen : (s.txnData x).length = n) (hm : s.mapped dst n = true)
    (hskip : ¬(skipBase c ≤ dst ∧ dst < skipBase c + 0x40)) :
    ∃ u, Counted s u ∧ s.applyTxn c x = u.coreWrite c x.key dst (s.txnData x) := by
  have hreads := Counted.countReads s c x
  refine ⟨(s.countReads c x).bump (.sto c) 7 n, hreads.trans (Counted.bump _ _ _ (by decide)), ?_⟩
  have hland : s.applyTxn c x = (s.countReads c x).txnWrite c x.key dst (s.txnData x) := by
    simp [State.applyTxn, State.landTxn, hw, hb]
  rw [hland, State.txnWrite, if_neg hskip, hlen, hreads.mapped, if_pos hm]

end

end

/-- Settles O32: the transaction is one write of a core of the bytes that it has received or reads, after counting that leaves the map. -/
theorem transactionsMoveData : Obligations.TransactionsMoveData := by
  intro s c x src dst n hb hw hn hc hm hskip t
  have hwrite (hlen : (s.txnData x).length = n) :
      ∃ u, Counted s u ∧ t = u.coreWrite c x.key dst (s.txnData x) ∧ t.mem = s.mem.write x.key dst (s.txnData x) ∧
        s.txnData x ≠ [] := by
    have hne : s.txnData x ≠ [] := List.ne_nil_of_length_pos (by omega)
    obtain ⟨u, hu, ht⟩ := State.applyTxn_of_move hb hw hlen hm hskip
    exact ⟨u, hu, ht, by rw [← hu.mem, ← State.mem_coreWrite hne, ← ht], hne⟩
  have hbyte (hlen : (s.txnData x).length = n) (i : Nat) (hi : i < n) : t.mem.byte (dst + i) = ((s.txnData x).getD i (0, false)).1 := by
    obtain ⟨-, -, -, hmem, -⟩ := hwrite hlen
    rw [hmem, Mem.byte_write _ _ _ _ _ hc, if_pos (by omega), Nat.add_sub_cancel_left]
    exact List.getD_map (d := (0, false)) (f := fun e : Byte × Bool => e.1) ..
  refine ⟨fun d hd hlen i hi => ?received, fun hgot hsrc i hi => ?read, fun hgot => ?kept⟩
  case received =>
    have hdata : s.txnData x = d := by rw [State.txnData_of_move hb, hd]; rfl
    rw [hbyte (by rwa [hdata]) i hi, hdata]
  case read =>
    have hdata : s.txnData x = s.mem.read x.key src n := by
      rw [State.txnData_of_move hb, hgot, State.txnRead, if_pos hsrc]
      rfl
    rw [hbyte (State.length_txnData hb (.inl hgot)) i hi, hdata]
    simp [Mem.read, hi]
  case kept =>
    have hlen : (s.txnData x).length = n := State.length_txnData hb hgot
    obtain ⟨u, hu, ht, hmem, hne⟩ := hwrite hlen
    refine ⟨fun a ha => ?byte, fun w hlo hhi => ?fe, fun w hw => ⟨?feOther, ?poison⟩, ?frame, fun d => ?core⟩
    case byte => rw [hmem, Mem.byte_write _ _ _ _ _ hc, if_neg (by omega)]
    case fe => rw [hmem, Mem.feAt_write _ _ _ _ _ hc, if_pos (by omega)]
    case feOther => rw [hmem, Mem.feAt_write _ _ _ _ _ hc, if_neg (by omega)]
    case poison => rw [hmem, Mem.poisonAt_write_other _ _ _ _ _ hc (by omega)]
    case frame =>
      have hframe := State.coreWrite_frame (s := u) (c := c) (k := x.key) (a := dst) hne
      rw [← ht] at hframe
      rw [hu.frame] at hframe
      exact hframe
    case core =>
      rw [ht, State.core_coreWrite hne, hu.core, State.reachesMesh, hu.place]

end Sys2Proof.Machine
end

section
/-! Doorbell, start, freeze, save and restore of a context (R182 to R185, R306, R407, R419, R421, R423, R442). -/

namespace Sys2Proof.Machine
open Sys2Proof

/-! ## Doorbells -/

theorem State.modCtx_congr {s : State} {c : CoreId} {x : CtxId} {f g : Ctx → Ctx} (h : f (s.ctx c x) = g (s.ctx c x)) :
    s.modCtx c x f = s.modCtx c x g := by
  refine State.modCore_congr (f := fun k => k.modCtx x f) (g := fun k => k.modCtx x g) ?_
  have h' : vmod (s.core c).ctxs x f = vmod (s.core c).ctxs x g := congrArg ((s.core c).ctxs.set x) h
  rw [Core.modCtx, Core.modCtx, h']

section
variable {s : State} {c : CoreId} {x : CtxId} {fn : FnId} {low : Nat}

theorem State.hostUp_of_reaches (h : s.reaches fn c = true) : s.hostUp fn = true := by
  simp only [State.reaches, Bool.and_eq_true] at h
  obtain ⟨⟨⟨-, hup⟩, -⟩, -⟩ := h
  exact hup

/-- The doorbell pages of a core lie in the order of its contexts, four to a core (R407). -/
theorem exec_doorbell (hlow : low < 0x1000) (read : Bool) :
    exec (.doorbell fn (BitVec.ofNat 20 (0x4000 * c.val + 0x1000 * x.val + low)) read) s =
      s.hostAct fn (if read then s.bar4Read else if s.reaches fn c && s.owner c == fn.val then s.ring c x else s) := by
  have hoff : (BitVec.ofNat 20 (0x4000 * c.val + 0x1000 * x.val + low)).toNat / 0x1000 = 4 * c.val + x.val := by
    rw [BitVec.toNat_ofNat]
    omega
  have hcore : (Fin.ofNat 64 ((4 * c.val + x.val) / 4) : CoreId) = c := Fin.ext (by simp only [Fin.ofNat]; omega)
  have hctx : (Fin.ofNat 4 ((4 * c.val + x.val) % 4) : CtxId) = x := Fin.ext (by simp only [Fin.ofNat]; omega)
  change execDoorbell fn _ read s = _
  rw [execDoorbell, hoff, hcore, hctx]

theorem State.hostAct_of_up (h : s.hostUp fn = true) (t : State) : s.hostAct fn t = .next t := congrArg Host.Outcome.next (if_pos h)

theorem State.hostAct_self : s.hostAct fn s = .next s := congrArg Host.Outcome.next (ite_self s)

theorem exec_doorbell_of_other (hlow : low < 0x1000) (h : s.owner c ≠ fn.val) :
    exec (.doorbell fn (BitVec.ofNat 20 (0x4000 * c.val + 0x1000 * x.val + low)) false) s = .next s := by
  rw [exec_doorbell hlow, if_neg (by decide), if_neg (by simp [h]), State.hostAct_self]

theorem exec_doorbell_of_owner (hlow : low < 0x1000) (hr : s.reaches fn c = true) (ho : s.owner c = fn.val) :
    exec (.doorbell fn (BitVec.ofNat 20 (0x4000 * c.val + 0x1000 * x.val + low)) false) s = .next (s.ring c x) := by
  rw [exec_doorbell hlow, if_neg (by decide), if_pos (by simp [hr, ho]), State.hostAct_of_up (State.hostUp_of_reaches hr)]

theorem State.ring_of_fault (h : (s.core c).fault = true) : s.ring c x = s := if_pos h

theorem State.ring_of_pend (h : (s.core c).fault = false) (hp : (s.ctx c x).pend = true) :
    s.ring c x = s.record (.ctx c x) (mkRec 0x0701 0 0 0 0) := (if_neg (by simp [h])).trans (if_pos hp)

theorem State.ring_of_idle (h : (s.core c).fault = false) (hp : (s.ctx c x).pend = false) : s.ring c x =
    ((s.modCtx c x fun t => { t with pend := true, late := !(t.run == .halted || t.run == .faulted) }).bump (.ctx c x) 3 1).bump .pkg 2 1 :=
  (if_neg (by simp [h])).trans (if_neg (by simp [hp]))

end

/-! ## Start -/

section
variable {s : State} {c : CoreId} {x : CtxId}

theorem exec_contextStart (h : s.seqUp c = true) : exec (.contextStart c x) s = .next (s.startCtx c x) :=
  congrArg Host.Outcome.next (if_pos h)

/-- A doorbell is pending, and no save, restore or reset of the context is under way. -/
structure Ctx.Rung (t : Ctx) : Prop where
  pend : t.pend = true
  saveOp : t.saveOp = .none
  resetting : t.resetting = false

theorem State.startCtx_of_idle (h : (s.ctx c x).pend = false) : s.startCtx c x = s := if_pos (by simp [h])

theorem State.startCtx_of_rung (h : (s.ctx c x).Rung) : s.startCtx c x =
    if (s.ctx c x).run = .halted ∨ ((s.ctx c x).run = .faulted ∧ (s.ctx c x).late = false) then
      s.modCtx c x fun t =>
        { t with run := .ready, pend := false, late := false, hold := .free, head := none, pre := false, desc := none, bad := none }
    else if (s.ctx c x).run = .wait ∧ (s.ctx c x).again.isSome then
      (s.modCtx c x fun t => { t with pend := false, late := false }).arriveAgain c x
    else s := if_neg (by simp [h.pend, h.saveOp, h.resetting])

/-- A context that its state keeps from starting stays as it is. -/
theorem State.startCtx_of_neither (hs : ¬((s.ctx c x).run = .halted ∨ ((s.ctx c x).run = .faulted ∧ (s.ctx c x).late = false)))
    (hw : ¬((s.ctx c x).run = .wait ∧ (s.ctx c x).again.isSome = true)) : s.startCtx c x = s := by
  simp only [State.startCtx, if_neg hs, if_neg hw, ite_self]

end

/-! ## Freeze -/

section
variable {s : State} {c : CoreId} {x : CtxId} {fn : FnId}

theorem exec_freeze (h : s.reaches fn c = true) (on : Bool) : exec (.freeze fn c x on) s = .next (s.setFreeze c x on) :=
  congrArg Host.Outcome.next (if_pos h)

theorem State.setFreeze_on : s.setFreeze c x true =
    s.modCtx c x fun t => if t.run = .frozen then { t with frz := true } else { t with frz := true, under := t.run, run := .frozen } := rfl

theorem State.setFreeze_off_of_fault (h : (s.core c).fault = true) :
    s.setFreeze c x false = s.modCtx c x fun t => { t with frz := false } :=
  if_pos h

/-- A context leaves FROZEN for the state under it. -/
theorem State.setFreeze_off_of_frozen (h : (s.core c).fault = false) (hr : (s.ctx c x).run = .frozen) : s.setFreeze c x false =
    if (s.ctx c x).under = .wait then (s.modCtx c x fun t => { t with frz := false, run := (s.ctx c x).under }).arriveAgain c x
    else s.modCtx c x fun t => { t with frz := false, run := (s.ctx c x).under } := by
  have hmod : (s.modCtx c x fun t => if t.run = .frozen then { t with frz := false, run := t.under } else { t with frz := false }) =
      s.modCtx c x fun t => { t with frz := false, run := (s.ctx c x).under } := State.modCtx_congr (if_pos hr)
  simp only [State.setFreeze, h, hmod, State.ctx_modCtx]
  rfl

theorem State.setFreeze_off_of_running (h : (s.core c).fault = false) (hr : (s.ctx c x).run ≠ .frozen) : s.setFreeze c x false =
    if (s.ctx c x).run = .wait then (s.modCtx c x fun t => { t with frz := false }).arriveAgain c x
    else s.modCtx c x fun t => { t with frz := false } := by
  have hmod : (s.modCtx c x fun t => if t.run = .frozen then { t with frz := false, run := t.under } else { t with frz := false }) =
      s.modCtx c x fun t => { t with frz := false } := State.modCtx_congr (if_neg hr)
  simp only [State.setFreeze, h, hmod, State.ctx_modCtx]
  rfl

theorem State.arriveAgain_of_none (h : (s.ctx c x).again = none) : s.arriveAgain c x = s := by
  rw [State.arriveAgain, h]

end

/-! ## Save -/

section
variable {s : State} {c : CoreId} {x : CtxId} {fn : FnId}

theorem exec_contextSave (h : s.reaches fn c = true) : exec (.contextSave fn c x) s = .next (s.startSave c x .save) :=
  congrArg Host.Outcome.next (if_pos h)

theorem exec_contextRestore (h : s.reaches fn c = true) : exec (.contextRestore fn c x) s = .next (s.startSave c x (.restore (fn == 0))) :=
  congrArg Host.Outcome.next (if_pos h)

theorem State.startSave_of_stopped {op : SaveOp} (hop : (s.ctx c x).saveOp = .none)
    (hr : (s.ctx c x).run = .halted ∨ (s.ctx c x).run = .faulted ∨ (s.ctx c x).run = .frozen) :
    s.startSave c x op = s.modCtx c x fun t => { t with saveOp := op } := if_pos (by simpa [hop, or_assoc] using hr)

theorem State.startSave_of_not {op : SaveOp} (h : (s.ctx c x).saveOp ≠ .none ∨
    ((s.ctx c x).run ≠ .halted ∧ (s.ctx c x).run ≠ .faulted ∧ (s.ctx c x).run ≠ .frozen)) : s.startSave c x op = s :=
  if_neg (by
    intro hall
    simp only [Bool.and_eq_true, Bool.or_eq_true, beq_iff_eq] at hall
    tauto)

theorem length_flatMap_of_length {α β : Type} {f : α → List β} {k : Nat} (h : ∀ a, (f a).length = k) (l : List α) :
    (l.flatMap f).length = l.length * k := by simp [List.length_flatMap, h]

theorem length_loopBytes (l : List Loop) (k : Nat) : (loopBytes l k).length = 16 := by
  rw [loopBytes]
  split <;> simp [toLe_length]

theorem length_waitBytes (w : Option Wait) : (waitBytes w).length = 16 := by
  cases w <;> simp [waitBytes, toLe_length]

theorem length_cmdBytes (w : Cmd) : (cmdBytes w).length = 32 := by
  rw [cmdBytes, length_flatMap_of_length (f := fun v : W32 => toLe 4 v.toNat) fun v => toLe_length 4 v.toNat]
  simp

theorem State.length_saveArea : (s.saveArea c x).length = SAVE_BYTES := by
  simp only [State.saveArea, List.length_append, toLe_length, length_waitBytes, length_cmdBytes,
    length_flatMap_of_length (length_loopBytes _), length_flatMap_of_length fun _ => toLe_length 4 _, List.length_range]
  rfl

theorem inCellar_sto (c : CoreId) (o : Nat) : inCellar (stoBase c + o) = false := by
  refine decide_eq_false ?_
  simp only [stoBase, STO_BASE, CEL_BASE]
  omega

theorem State.byte_stoPut (off : Nat) (l : List Byte) (a : Nat) : (s.stoPut c off l).mem.byte a =
    if stoBase c + off ≤ a ∧ a < stoBase c + off + l.length then l.getD (a - (stoBase c + off)) 0 else s.mem.byte a := by
  have h := Mem.byte_write s.mem 0 (stoBase c + off) a (l.map fun b => (b, false)) (inCellar_sto c off)
  simp only [List.length_map, List.map_map, Function.comp_def, List.map_id'] at h
  exact h

theorem exec_saveRestoreComplete_save (hup : s.coreUp c = true) (h : (s.ctx c x).saveOp = .save) :
    exec (.saveRestoreComplete c x) s = .next (s.saveDone c x) := by
  refine congrArg Host.Outcome.next ((if_pos hup).trans ?_)
  rw [h]

theorem exec_saveRestoreComplete_restore {pf : Bool} (hup : s.coreUp c = true) (h : (s.ctx c x).saveOp = .restore pf) :
    exec (.saveRestoreComplete c x) s = .next (s.restoreDone c x pf) := by
  refine congrArg Host.Outcome.next ((if_pos hup).trans ?_)
  rw [h]

theorem State.byte_saveDone (a : Nat) : (s.saveDone c x).mem.byte a =
    if stoBase c + s.saveOff c x ≤ a ∧ a < stoBase c + s.saveOff c x + s.saveLen c x then
      (s.saveArea c x).getD (a - (stoBase c + s.saveOff c x)) 0 else s.mem.byte a := by
  have hlen : ((s.saveArea c x).take (s.saveLen c x)).length = s.saveLen c x := by
    rw [List.length_take, State.length_saveArea]
    exact Nat.min_eq_left (Nat.min_le_left ..)
  have h := State.byte_stoPut (s := s) (c := c) (s.saveOff c x) ((s.saveArea c x).take (s.saveLen c x)) a
  rw [hlen] at h
  refine h.trans (if_ctx_congr Iff.rfl (fun hin => ?_) fun _ => rfl)
  rw [List.getD_eq_getElem?_getD, List.getD_eq_getElem?_getD, List.getElem?_take_of_lt (by omega)]

end

/-! ## The registers of a restore -/

section
variable (s : State) (p q : Page) (o o' n : Nat) (v : Nat → W32)

/-- Registers set one after the other hold what they were set to. -/
theorem State.pg_setRun {i : Nat} (hn : o + 4 * n ≤ 0x1000) (hi : i < n) :
    (forRange n (fun i s => s.setPg p (o + 4 * i) (v i)) s).pg p (o + 4 * i) = v i := by
  induction n with
  | zero => omega
  | succ n ih =>
    rw [forRange_succ]
    by_cases h : i = n
    · rw [h, State.pg_setPg_same]
    · rw [State.pg_setPg_off _ _ _ _ _ _ (by omega) (by omega) (by omega), ih (by omega) (by omega)]

theorem State.pg_setRun_other (hn : o + 4 * n ≤ 0x1000) (ho : o' < 0x1000) (h : q ≠ p ∨ ∀ i < n, o' ≠ o + 4 * i) :
    (forRange n (fun i s => s.setPg p (o + 4 * i) (v i)) s).pg q o' = s.pg q o' := by
  induction n with
  | zero => rfl
  | succ n ih =>
    rw [forRange_succ, State.pg_setPg _ _ _ _ _ _ (by omega) ho, if_neg, ih (by omega) (h.imp_right fun h i hi => h i (by omega))]
    rintro ⟨hq, ho'⟩
    exact h.elim (· hq) fun h => h n (by omega) ho'

theorem State.setRun_frame : forRange n (fun i s => s.setPg p (o + 4 * i) (v i)) s =
    { s with regs := (forRange n (fun i s => s.setPg p (o + 4 * i) (v i)) s).regs } :=
  forRange_keeps (fun t : State => t = { s with regs := t.regs }) _ _ (fun _ t ht => regsOnly_trans ht (t.setPg_frame ..)) s rfl

end

theorem ne_of_inRun_eq_false {o lo n : Nat} (h : inRun o lo 4 n = false) : ∀ i < n, o ≠ lo + 4 * i := by
  rintro i hi rfl
  simp only [inRun, Nat.add_sub_cancel_left, Nat.mul_mod_right, beq_self_eq_true, Bool.and_true, decide_eq_false_iff_not] at h
  omega

theorem rwMask_of_block (p : Page) {o : Nat} (h : 0x100 ≤ o) : rwMask p o = blockMask p o := by
  rw [rwMask, if_neg (by simp only [PG_CTRL, PG_CNT_CTRL]; omega), if_neg (by simp only [PG_EVT_EN]; omega), if_neg (by omega)]

theorem w32_bits_low (v : W32) : w32 (bits v 0 16) = v &&& 0xFFFF := by
  have hmask : v.toNat &&& (0xFFFF : W32).toNat = v.toNat % 2 ^ 16 := Nat.and_two_pow_sub_one_eq_mod v.toNat 16
  refine BitVec.eq_of_toNat_eq ?_
  rw [BitVec.toNat_and, hmask, w32, bits, BitVec.toNat_ofNat, Nat.shiftRight_zero, Nat.one_shiftLeft]
  omega

/-- The fields of CTX_CFG: the class and priv. -/
theorem cfg_fields {n : Nat} (q : Bool) (hn : n < 4) : bits (w32 (n + bn q <<< 2)) 0 2 = n ∧ bit (w32 (n + bn q <<< 2)) 2 = q := by
  interval_cases n <;> cases q <;> decide

section
variable (s : State) (c : CoreId) (x : CtxId) (b : List Byte) (pf : Bool)

/-- CTX_PC, CTX_CFG and CTX_HALT of a save area. -/
def State.areaHead (s : State) (c : CoreId) (x : CtxId) (b : List Byte) (pf : Bool) : State :=
  ((s.setPg (.ctx c x) CTX_PC (area32 b 0)).setPg (.ctx c x) CTX_CFG
    (w32 (bits (area32 b 8) 0 2 + bn (bit (area32 b 8) 2 && (pf || bit (s.pg (.ctx c x) CTX_CFG) 2)) <<< 2))).setPg (.ctx c x) CTX_HALT
      (w32 (bits (area32 b 0xC) 0 16))

/-- The shapes of a save area. -/
def State.areaShapes (s : State) (c : CoreId) (x : CtxId) (b : List Byte) : State :=
  forRange 8 (fun i s => s.setPg (.ctx c x) (0x180 + 4 * i) (area32 b (0x10 + 4 * i))) s

/-- The map of a save area. -/
def State.areaMap (s : State) (c : CoreId) (x : CtxId) (b : List Byte) : State :=
  forRange 256 (fun i s => s.setPg (.ctx c x) (0x400 + 4 * i) (area32 b (0x100 + 4 * i) &&& blockMask (.ctx c x) (CTX_MAP i))) s

theorem State.areaRegs_eq : s.areaRegs c x b pf = ((s.areaHead c x b pf).areaShapes c x b).areaMap c x b := rfl

theorem State.areaRegs_frame : s.areaRegs c x b pf = { s with regs := (s.areaRegs c x b pf).regs } := by
  rw [State.areaRegs_eq]
  exact regsOnly_trans (regsOnly_trans (s := s) (t := s.areaHead c x b pf) rfl (State.setRun_frame ..)) (State.setRun_frame ..)

/-- A register of the context that neither the shapes nor the map hold. -/
theorem State.pg_areaRegs (q : Page) {o : Nat} (ho : o < 0x1000) (h : q ≠ .ctx c x ∨ (inRun o (CTX_SHAPE 0) 4 8 = false ∧
    inRun o (CTX_MAP 0) 4 256 = false)) : (s.areaRegs c x b pf).pg q o = (s.areaHead c x b pf).pg q o := by
  have hmap := h.imp_right fun h => ne_of_inRun_eq_false (lo := 0x400) h.2
  have hshape := h.imp_right fun h => ne_of_inRun_eq_false (lo := 0x180) h.1
  rw [State.areaRegs_eq, State.areaMap, State.pg_setRun_other _ _ _ _ _ _ _ (by decide) ho hmap, State.areaShapes,
    State.pg_setRun_other _ _ _ _ _ _ _ (by decide) ho hshape]

theorem State.pg_areaRegs_pc : (s.areaRegs c x b pf).pg (.ctx c x) CTX_PC = area32 b 0 := by
  rw [State.pg_areaRegs _ _ _ _ _ _ (by decide) (.inr (by decide)), State.areaHead,
    State.pg_setPg_off _ _ _ _ _ _ (by decide) (by decide) (by decide),
    State.pg_setPg_off _ _ _ _ _ _ (by decide) (by decide) (by decide), State.pg_setPg_same]

theorem State.pg_areaRegs_cfg : (s.areaRegs c x b pf).pg (.ctx c x) CTX_CFG =
    w32 (bits (area32 b 8) 0 2 + bn (bit (area32 b 8) 2 && (pf || bit (s.pg (.ctx c x) CTX_CFG) 2)) <<< 2) := by
  rw [State.pg_areaRegs _ _ _ _ _ _ (by decide) (.inr (by decide)), State.areaHead,
    State.pg_setPg_off _ _ _ _ _ _ (by decide) (by decide) (by decide), State.pg_setPg_same]

theorem State.pg_areaRegs_halt : (s.areaRegs c x b pf).pg (.ctx c x) CTX_HALT = area32 b 0xC &&& 0xFFFF := by
  rw [State.pg_areaRegs _ _ _ _ _ _ (by decide) (.inr (by decide)), State.areaHead, State.pg_setPg_same, w32_bits_low]

theorem State.pg_areaRegs_shape {i : Nat} (hi : i < 8) : (s.areaRegs c x b pf).pg (.ctx c x) (CTX_SHAPE i) = area32 b (0x10 + 4 * i) := by
  rw [State.areaRegs_eq, State.areaMap, State.pg_setRun_other _ _ _ _ _ _ _ (by decide) (by simp only [CTX_SHAPE]; omega)
    (.inr fun k _ => by simp only [CTX_SHAPE]; omega)]
  exact State.pg_setRun _ _ _ _ _ (by decide) hi

theorem State.pg_areaRegs_map {i : Nat} (hi : i < 256) : (s.areaRegs c x b pf).pg (.ctx c x) (CTX_MAP i) =
    area32 b (0x100 + 4 * i) &&& rwMask (.ctx c x) (CTX_MAP i) := by
  rw [rwMask_of_block _ (by simp only [CTX_MAP]; omega), State.areaRegs_eq]
  exact State.pg_setRun _ _ _ _ _ (by decide) hi

theorem State.pg_areaRegs_other (q : Page) {o : Nat} (ho : o < 0x1000) (h : q ≠ .ctx c x ∨
    (o ≠ CTX_PC ∧ o ≠ CTX_CFG ∧ o ≠ CTX_HALT ∧ inRun o (CTX_SHAPE 0) 4 8 = false ∧ inRun o (CTX_MAP 0) 4 256 = false)) :
    (s.areaRegs c x b pf).pg q o = s.pg q o := by
  rw [State.pg_areaRegs _ _ _ _ _ _ ho (h.imp_right fun ⟨_, _, _, hruns⟩ => hruns), State.areaHead,
    State.pg_setPg _ _ _ _ _ _ (by decide) ho, if_neg (by tauto), State.pg_setPg _ _ _ _ _ _ (by decide) ho, if_neg (by tauto),
    State.pg_setPg _ _ _ _ _ _ (by decide) ho, if_neg (by tauto)]

end

/-! ## The end of a restore -/

section
variable {s : State} {c : CoreId} {x : CtxId} {pf : Bool}

/-- The bytes of a save area; those beyond the storeroom are free (log entry 31). -/
def State.areaBytes (s : State) (c : CoreId) (x : CtxId) : List Byte :=
  (List.range SAVE_BYTES).map fun i => if i < s.saveLen c x then s.mem.byte (stoBase c + s.saveOff c x + i)
    else Config.unmappedByte (stoBase c + s.saveOff c x + i)

/-- A save area that the storeroom does not hold whole reaches to the storeroom's end. -/
theorem State.saveOff_add_saveLen (h : s.saveLen c x < SAVE_BYTES) : s.saveOff c x + s.saveLen c x = 0x800_0000 := by
  have hoff := bits_lt (s.pg (.ctx c x) CTX_SAVE_ADDR) 0 21
  simp only [State.saveLen, State.saveOff, SAVE_BYTES] at h ⊢
  omega

theorem State.areaBytes_eq : s.stoBytes c (s.saveOff c x) (s.saveLen c x) ++
    (List.range (SAVE_BYTES - s.saveLen c x)).map (fun i => Config.unmappedByte (stoBase c + 0x800_0000 + i)) = s.areaBytes c x := by
  have hle : s.saveLen c x ≤ SAVE_BYTES := Nat.min_le_left ..
  refine List.ext_getElem (by simp [State.stoBytes, State.areaBytes, hle]) fun i hi hi' => ?_
  simp only [State.areaBytes, List.length_map, List.length_range] at hi'
  by_cases h : i < s.saveLen c x
  · rw [List.getElem_append_left (by simpa [State.stoBytes] using h)]
    simp [State.stoBytes, State.areaBytes, h]
  · have hend := State.saveOff_add_saveLen (s := s) (c := c) (x := x) (by omega)
    have haddr : stoBase c + 0x800_0000 + (i - s.saveLen c x) = stoBase c + s.saveOff c x + i := by omega
    rw [List.getElem_append_right (by simpa [State.stoBytes] using h)]
    simp [State.stoBytes, State.areaBytes, h, haddr]

theorem bits_zero_three (v : W32) : bits v 0 3 = v.toNat % 8 := rfl

theorem areaState_eq {v : Nat} (hv : v < 8) (waits : Bool) : areaState v waits = if v = 1 then .ready else if v = 3 then .hold
    else if v = 4 then .faulted else if v = 2 ∨ v = 5 then (if waits then .wait else .ready) else .halted := by
  interval_cases v <;> rfl

/-- The save or restore of a context is over. -/
def State.saveEnded (s : State) (c : CoreId) (x : CtxId) : State := s.modCtx c x fun t => { t with saveOp := .none }

theorem State.restoreDone_of_poison {w : Nat} (h : s.firstPoison [⟨.own, stoBase c + s.saveOff c x, s.saveLen c x⟩] = some w) :
    s.restoreDone c x pf = (s.saveEnded c x).foundFault c x (poisonRec 0 x 10 4 w (s.eccFound c x w)) (s.headOff c x) (s.ctx c x).head := by
  have hd : (s.saveEnded c x).firstPoison
      [⟨.own, stoBase c + (s.saveEnded c x).saveOff c x, (s.saveEnded c x).saveLen c x⟩] = some w := h
  have hctx : (s.saveEnded c x).ctx c x = { s.ctx c x with saveOp := .none } := State.ctx_modCtx ..
  have hecc : (s.saveEnded c x).eccFound c x w = s.eccFound c x w := by
    rw [State.eccFound, State.eccFound, hctx, State.saveEnded, State.modCtx, State.core_modCore]
    rfl
  rw [State.saveEnded] at hd hctx hecc
  simp only [State.restoreDone, hd, hctx, hecc]
  rfl

/-- The context that a restore leaves: its state, whether it is FROZEN over it, its doorbell, its next command, loops and wait. -/
def Ctx.restored (t : Ctx) (frozen : Bool) (inner : CtxState) (pend : Bool) (head : Option Cmd) (loops : List Loop)
    (w : Option Wait) : Ctx :=
  { t with run := if frozen then .frozen else inner
           under := inner
           pend := pend
           late := false
           head := head
           pre := false
           desc := none
           bad := none
           loops := loops
           hold := if inner = .hold then .head else .free
           again := if inner = .wait then w else none }

theorem preWait_head_iff (w : Option Wait) (v : Cmd) : ((w.all fun u => u.kind == .preWait) && v != Cmd.zero) = true ↔
    (∀ u, w = some u → u.kind = .preWait) ∧ v ≠ Cmd.zero := by
  cases w <;> simp

theorem State.restoreDone_of_clean (h : s.firstPoison [⟨.own, stoBase c + s.saveOff c x, s.saveLen c x⟩] = none)
    {r a : State} {b : List Byte} {w : Option Wait} (hr : r = ((s.saveEnded c x).removeWait c x).dropHold c x)
    (hb : b = r.areaBytes c x) (ha : a = r.areaRegs c x b pf)
    (hw : w = a.areaWait c x b) :
    s.restoreDone c x pf = (a.modCtx c x fun t => t.restored ((area32 b 4).toNat % 8 == 5 || (a.ctx c x).frz || (a.core c).fault)
      (areaState ((area32 b 4).toNat % 8) w.isSome) ((area32 b 4).toNat.testBit 3)
      (if (w.all fun w => w.kind == .preWait) && areaCmd b != Cmd.zero then some (areaCmd b) else none) (areaLoops b) w).settle c := by
  have hd : (s.saveEnded c x).firstPoison
      [⟨.own, stoBase c + (s.saveEnded c x).saveOff c x, (s.saveEnded c x).saveLen c x⟩] = none := h
  rw [hw, ha, hb, ← State.areaBytes_eq, hr]
  simp only [State.saveEnded] at hd
  simp only [State.restoreDone, hd]
  rfl

end

/-- Settles O41: for each row its cases, by what the row's operation does in them; a restore that meets no poison is compared field by
field with the context that it leaves. -/
theorem contextControl : Obligations.ContextControl := by
  refine ⟨fun c x s => ⟨fun fn low hlow => ?doorbell, fun hup hp hop hr => ?start, fun hup h => ?stays⟩,
    fun fn c x s hr => ?freeze, fun c x s => ⟨fun fn hr => ?saveCmd, fun hup hop => ?save, fun pf hup hop => ?restore⟩⟩
  case doorbell =>
    intro off
    refine ⟨exec_doorbell_of_other hlow, fun hup => ?read, fun hr ho => ?owner⟩
    case read => exact (exec_doorbell hlow true).trans (State.hostAct_of_up hup _)
    case owner =>
      rw [exec_doorbell_of_owner hlow hr ho]
      exact ⟨fun hf => by rw [State.ring_of_fault hf], fun hf hp => by rw [State.ring_of_pend hf hp],
        fun hf hp => by rw [State.ring_of_idle hf hp]⟩
  case start =>
    rw [exec_contextStart hup, State.startCtx_of_rung ⟨hp, hop, hr⟩]
    refine ⟨fun hstopped => ⟨_, rfl, ?_⟩, fun hrun hagain => ?wait⟩
    case wait => rw [if_neg (by simp [hrun]), if_pos ⟨hrun, hagain⟩]
    rw [if_pos hstopped, State.ctx_modCtx]
    exact ⟨rfl, rfl, rfl, rfl, fun y hy => State.ctx_modCtx_other _ _ _ _ _ _ (.inr hy),
      fun d hd => State.core_modCore_other _ _ _ _ hd⟩
  case stays =>
    rw [exec_contextStart hup]
    by_cases hp : (s.ctx c x).pend = false
    · rw [State.startCtx_of_idle hp]
    · obtain h | h | h | h | ⟨hrun, h⟩ | ⟨hrun, h⟩ := h
      · exact absurd h hp
      all_goals rw [State.startCtx_of_neither (by simp [*]) (by simp [*])]
  case freeze =>
    rw [exec_freeze hr, exec_freeze hr, State.setFreeze_on]
    refine ⟨fun hrun => ?on, fun hrun => ?onFrozen, fun hf => ?fault, fun hf hrun hu => ?off, fun hf hrun hu => ?offWait,
      fun hf hrun h => ?offRunning, fun hf hrun ha => ?offWaiting⟩
    case on => exact congrArg Host.Outcome.next (State.modCtx_congr (if_neg hrun))
    case onFrozen => exact congrArg Host.Outcome.next (State.modCtx_congr (if_pos hrun))
    case fault => rw [State.setFreeze_off_of_fault hf]
    case off => rw [State.setFreeze_off_of_frozen hf hrun, if_neg hu]
    case offWait => rw [State.setFreeze_off_of_frozen hf hrun, if_pos hu, hu]
    case offRunning =>
      rw [State.setFreeze_off_of_running hf hrun]
      obtain h | h := h
      · rw [if_neg h]
      · rw [State.arriveAgain_of_none (by rw [State.ctx_modCtx]; exact h), ite_self]
    case offWaiting => rw [State.setFreeze_off_of_running hf (by simp [hrun]), if_pos hrun]
  case saveCmd =>
    rw [exec_contextSave hr, exec_contextRestore hr]
    exact ⟨fun hop hrun => by rw [State.startSave_of_stopped hop hrun, State.startSave_of_stopped hop hrun]; exact ⟨rfl, rfl⟩,
      fun h => by rw [State.startSave_of_not h, State.startSave_of_not h]; exact ⟨rfl, rfl⟩⟩
  case save =>
    refine ⟨_, exec_saveRestoreComplete_save hup hop, fun i hi => ?saved, fun a ha => ?kept, ?saveOp, rfl, ?waits⟩
    case saved => rw [State.byte_saveDone, if_pos (by omega), Nat.add_sub_cancel_left]
    case kept => rw [State.byte_saveDone, if_neg (by omega)]
    case saveOp => rw [State.saveDone, State.ctx_modCtx]
    case waits => rw [State.saveDone, State.modCtx, State.core_modCore]; rfl
  case restore =>
    rw [exec_saveRestoreComplete_restore hup hop]
    intro bad d r b a w st inner
    refine ⟨fun p hp => ?poison, fun hclean => ?clean, State.pg_areaRegs_pc .., State.pg_areaRegs_halt .., ?cfg, ?priv,
      fun i hi => State.pg_areaRegs_shape _ _ _ _ _ hi, fun i hi => State.pg_areaRegs_map _ _ _ _ _ hi,
      fun p o ho h => State.pg_areaRegs_other _ _ _ _ _ _ ho h, State.areaRegs_frame ..⟩
    case poison =>
      rw [State.restoreDone_of_poison hp]
      rfl
    case clean =>
      have hst : (area32 b 4).toNat % 8 = st := (bits_zero_three _).symm
      have hinner : areaState ((area32 b 4).toNat % 8) w.isSome = inner := by
        rw [hst]
        exact areaState_eq (bits_lt _ 0 3) _
      have hfrozen : ((area32 b 4).toNat % 8 == 5 || (a.ctx c x).frz || (a.core c).fault) = true ↔
          st = 5 ∨ (a.ctx c x).frz = true ∨ (a.core c).fault = true := by
        rw [hst, Bool.or_eq_true, Bool.or_eq_true, beq_iff_eq, or_assoc]
      rw [State.restoreDone_of_clean (r := r) (b := b) (a := a) (w := w) hclean rfl rfl rfl rfl, hinner]
      clear_value inner st w a b
      refine congrArg (fun f => Host.Outcome.next ((a.modCtx c x f).settle c)) (funext fun t => ?_)
      rw [Ctx.restored, if_congr hfrozen rfl rfl, if_congr (preWait_head_iff _ _) rfl rfl]
      rfl
    case cfg =>
      rw [State.pg_areaRegs_cfg]
      exact (cfg_fields _ (bits_lt _ 0 2)).1
    case priv =>
      rw [State.pg_areaRegs_cfg]
      exact (cfg_fields _ (bits_lt _ 0 2)).2

end Sys2Proof.Machine
end

section
/-! The evaluation of a guarded TILE (R253, R258, R262, R264, R421). -/

namespace Sys2Proof.Machine
open Sys2Proof

/-- The TBUILD of a TILE's key pair is complete, or there is none (R253, R258). -/
def Core.keyBuilt (k : Core) (j : Job) : Bool :=
  match j.key with
  | some (u, _) => !k.live.any fun e => e.1 == u
  | none => true

theorem Core.keyBuilt_iff (k : Core) (j : Job) : k.keyBuilt j = true ↔ ∀ u a, j.key = some (u, a) → ∀ e ∈ k.live, e.1 ≠ u := by
  rw [Core.keyBuilt]
  cases j.key with
  | none => simp
  | some p =>
    obtain ⟨u, a⟩ := p
    rw [Bool.not_eq_true', List.any_eq_false]
    constructor
    · rintro h _ _ ⟨⟩ e he
      simpa using h e he
    · intro h e he
      simpa using h u a rfl e he

/-- The verdicts on both key blocks; the second is evaluated only when N exceeds 128 (R253, R255, R256). -/
def State.verdicts (s : State) (c : CoreId) (j : Job) : Bool × Bool := (s.skipVerdict c j 0, decide (128 < j.n) && s.skipVerdict c j 1)

/-- The TILE's evaluation ends with the given verdicts on the given number of blocks (R257, R264). -/
def State.judge (s : State) (c : CoreId) (g : Nat) (j : Job) (nEval : Nat) (v : Bool × Bool) : State :=
  (((s.updateRecord c j nEval (bn v.1 + bn v.2)).bump (.fu c) 2 nEval).bump (.fu c) 3 (bn v.1 + bn v.2)).replaceJob c g
    { j with guard := .done v.1 v.2 }

section
variable {s : State} {c : CoreId} {g : Nat} {j : Job} (hj : ((s.core c).unit g).queue.find? (fun j => j.guard == .waiting) = some j)
include hj

theorem State.evaluate_of_idle (h : (s.core c).keyBuilt j = false ∨ s.skipMode c = MODE_OFF) : s.evaluate c g = s := by
  have hidle : (!(s.core c).keyBuilt j || s.skipMode c == MODE_OFF) = true := by simpa using h
  simp only [State.evaluate, hj]
  exact if_pos hidle

theorem State.evaluate_of_poison {w : Nat} (hb : (s.core c).keyBuilt j = true) (hm : s.skipMode c ≠ MODE_OFF)
    (hw : s.firstPoison (s.evalReads c j) = some w) : s.evaluate c g = s.coreFault c g (poisonRec (opcode j.cmd) j.ctx g 0 w false) := by
  have hacts : ¬ (!(s.core c).keyBuilt j || s.skipMode c == MODE_OFF) = true := by simp [hb, hm]
  simp only [State.evaluate, hj, hw]
  exact if_neg hacts

theorem State.evaluate_of_clean (hb : (s.core c).keyBuilt j = true) (hm : s.skipMode c ≠ MODE_OFF)
    (hw : s.firstPoison (s.evalReads c j) = none) : s.evaluate c g = s.judge c g j (1 + bn (128 < j.n)) (s.verdicts c j) := by
  have hacts : ¬ (!(s.core c).keyBuilt j || s.skipMode c == MODE_OFF) = true := by simp [hb, hm]
  simp only [State.evaluate, hj, hw]
  exact if_neg hacts

end

/-- Settles O27: a TILE that waits stays as it is while its TBUILD runs or in mode OFF; else it is poison, or the blocks that N reaches,
that decide. -/
theorem guardedEvaluation : Obligations.GuardedEvaluation := by
  intro c g j s hup hj built
  have hbuilt : (s.core c).keyBuilt j = true ↔ built := Core.keyBuilt_iff ..
  have hrow : exec (.guardedTileEvaluation c g) s = .next (s.evaluate c g.val) := unitAct_of_up hup g.val fun s => s.evaluate c g.val
  rw [hrow, ← hbuilt, Bool.not_eq_true]
  refine ⟨fun hidle => ?idle, fun hb hm w hw => ?poison, fun hb hm hw => ⟨fun hn => ?one, fun hn => ?two⟩⟩
  case idle => rw [State.evaluate_of_idle hj hidle]
  case poison => rw [State.evaluate_of_poison hj hb hm hw]
  case one =>
    rw [State.evaluate_of_clean hj hb hm hw, State.verdicts, decide_eq_false (Nat.not_lt.2 hn)]
    rfl
  case two =>
    rw [State.evaluate_of_clean hj hb hm hw, State.verdicts, decide_eq_true hn]
    rfl

end Sys2Proof.Machine
end

section
/-! What an arbiter grants (R340, R341): the oldest aged transaction, else one of the requester in its turn. -/

namespace Sys2Proof.Machine
open Sys2Proof

/-! ## The oldest of the aged transactions -/

/-- The transactions that have waited ARB_AGE ns; none where that is 0. -/
def State.agedReqs (s : State) (a : ArbId) (reqs : List ArbReq) : List ArbReq :=
  reqs.filter fun q => bits (s.pg (arbPage a) ARB_AGE) 0 16 != 0 && decide (bits (s.pg (arbPage a) ARB_AGE) 0 16 ≤ q.waited)

theorem State.mem_agedReqs {s : State} {a : ArbId} {reqs : List ArbReq} {q : ArbReq} : q ∈ s.agedReqs a reqs ↔
    q ∈ reqs ∧ bits (s.pg (arbPage a) ARB_AGE) 0 16 ≠ 0 ∧ bits (s.pg (arbPage a) ARB_AGE) 0 16 ≤ q.waited := by
  simp [State.agedReqs]

/-- Age, and between equals the lower requester the greater: step 1 of R341 takes the greatest. -/
def arbRank (q : ArbReq) : ℕ ×ₗ (Fin 81)ᵒᵈ := toLex (q.waited, OrderDual.toDual q.req)

theorem arbRank_lt {p q : ArbReq} : arbRank p < arbRank q ↔ p.waited < q.waited ∨ (p.waited = q.waited ∧ q.req < p.req) :=
  Prod.Lex.toLex_lt_toLex

theorem arbRank_le {p q : ArbReq} : arbRank p ≤ arbRank q ↔ p.waited < q.waited ∨ (p.waited = q.waited ∧ q.req ≤ p.req) :=
  Prod.Lex.toLex_le_toLex

theorem State.arbAged_eq_argmax (s : State) (a : ArbId) (reqs : List ArbReq) : s.arbAged a reqs = (s.agedReqs a reqs).argmax arbRank := by
  rw [State.arbAged, List.argmax]
  congr 1
  funext b q
  cases b with
  | none => rfl
  | some p => exact if_congr arbRank_lt.symm rfl rfl

theorem State.arbAged_oldest {s : State} {a : ArbId} {reqs : List ArbReq} {q p : ArbReq} (h : s.arbAged a reqs = some q) (hp : p ∈ reqs) :
    p.waited ≤ q.waited ∧ (p.waited = q.waited → q.req ≤ p.req) := by
  rw [s.arbAged_eq_argmax] at h
  obtain ⟨-, hlimit, hold⟩ := State.mem_agedReqs.1 (List.argmax_mem h)
  by_cases haged : p ∈ s.agedReqs a reqs
  · rcases arbRank_le.1 (List.le_of_mem_argmax haged h) with hlt | ⟨heq, hreq⟩
    · exact ⟨hlt.le, fun he => absurd he hlt.ne⟩
    · exact ⟨heq.le, fun _ => hreq⟩
  · have hyoung : ¬ bits (s.pg (arbPage a) ARB_AGE) 0 16 ≤ p.waited := fun hle => haged (State.mem_agedReqs.2 ⟨hp, hlimit, hle⟩)
    omega

theorem State.mem_of_arbAged {s : State} {a : ArbId} {reqs : List ArbReq} {q : ArbReq} (h : s.arbAged a reqs = some q) : q ∈ s.agedReqs a reqs :=
  List.argmax_mem (s.arbAged_eq_argmax a reqs ▸ h)

theorem State.waited_lt_of_arbAged_none {s : State} {a : ArbId} {reqs : List ArbReq} {p : ArbReq} (h : s.arbAged a reqs = none)
    (hlimit : bits (s.pg (arbPage a) ARB_AGE) 0 16 ≠ 0) (hp : p ∈ reqs) : p.waited < bits (s.pg (arbPage a) ARB_AGE) 0 16 := by
  rw [s.arbAged_eq_argmax, List.argmax_eq_none] at h
  refine Nat.lt_of_not_le fun hle => ?_
  exact List.not_mem_nil (h ▸ State.mem_agedReqs.2 ⟨hp, hlimit, hle⟩)

/-! ## Whose turn it is -/

theorem oldestOf_spec {r : Nat} {reqs : List ArbReq} {q : ArbReq} (h : oldestOf r reqs = some q) : q ∈ reqs ∧ q.req.val = r :=
  ⟨List.mem_of_find?_eq_some h, by simpa using List.find?_some h⟩

theorem oldestOf_isSome {r : Nat} {reqs : List ArbReq} (h : ∃ p ∈ reqs, p.req.val = r) : ∃ q, oldestOf r reqs = some q := by
  obtain ⟨p, hp, hr⟩ := h
  exact Option.isSome_iff_exists.1 (List.find?_isSome.2 ⟨p, hp, by simpa using hr⟩)

/-- How many requesters stand between `r` and `k` in ascending order, the lowest following the highest. -/
def turnsTo (r k : Nat) : Nat := (k + 80 - r % 81) % 81

theorem turnsTo_lt (r k : Nat) : turnsTo r k < 81 := Nat.mod_lt _ (by decide)

theorem add_turnsTo (r : Nat) {k : Nat} (hk : k < 81) : (r + 1 + turnsTo r k) % 81 = k := by
  rw [turnsTo]
  omega

theorem turnsTo_add (r : Nat) {i : Nat} (hi : i < 81) : turnsTo r ((r + 1 + i) % 81) = i := by
  rw [turnsTo]
  omega

/-- The requester of step 3 of R341 has a transaction, and no requester between it and `r` has one. -/
theorem nextReq_spec {r k : Nat} {reqs : List ArbReq} (h : nextReq r reqs = some k) :
    (∃ p ∈ reqs, p.req.val = k) ∧ ∀ p ∈ reqs, turnsTo r k ≤ turnsTo r p.req.val := by
  rw [nextReq, List.find?_map, Option.map_eq_some_iff] at h
  obtain ⟨i, hi, rfl⟩ := h
  obtain ⟨hhas, hlt, hfirst⟩ := List.find?_range_eq_some.1 hi
  have hwaits : ∃ p ∈ reqs, p.req.val = (r + 1 + i) % 81 := by simpa using hhas
  refine ⟨hwaits, fun p hp => ?_⟩
  rw [turnsTo_add r (List.mem_range.1 hlt)]
  refine Nat.le_of_not_lt fun hbefore => ?_
  have hnot : ∀ x ∈ reqs, x.req.val ≠ (r + 1 + turnsTo r p.req.val) % 81 := by simpa using hfirst _ hbefore
  exact hnot p hp (add_turnsTo r p.req.isLt).symm

theorem nextReq_nil (r : Nat) : nextReq r [] = none := List.find?_eq_none.2 fun _ _ => Bool.false_ne_true

theorem nextReq_isSome (r : Nat) {reqs : List ArbReq} (h : reqs ≠ []) : ∃ k, nextReq r reqs = some k := by
  obtain ⟨p, hp⟩ := List.exists_mem_of_ne_nil _ h
  refine Option.isSome_iff_exists.1 (List.find?_isSome.2 ⟨p.req.val, ?_, List.any_eq_true.2 ⟨p, hp, beq_self_eq_true _⟩⟩)
  exact List.mem_map.2 ⟨_, List.mem_range.2 (turnsTo_lt r p.req.val), add_turnsTo r p.req.isLt⟩

/-! ## The grant -/

/-- The transaction granted leaves the arbiter. -/
def Arbiter.took (b : Arbiter) (q : ArbReq) : Arbiter :=
  { b with waiting := b.waiting.erase q, granted := some q, count := b.count + 1 }

/-- The arbiter after an aged grant: no turn moves, and it ends where its requester has nothing left. -/
def Arbiter.tookAged (b : Arbiter) (q : ArbReq) : Arbiter :=
  ({ b with ended := b.ended || !((b.waiting.erase q).any fun p => p.req.val == b.turn) } : Arbiter).took q

/-- The arbiter after the grant numbered `used` of its requester's turn. -/
def State.arbTurned (s : State) (a : ArbId) (b : Arbiter) (q : ArbReq) (used : Nat) : Arbiter :=
  (b.granting q.req.val used (s.arbWeight a q.req.val) (b.waiting.erase q)).took q

theorem State.arbTurned_ended (s : State) (a : ArbId) (b : Arbiter) (q : ArbReq) (used : Nat) : (s.arbTurned a b q used).ended = true ↔
    s.arbWeight a q.req.val ≤ used ∨ ∀ p ∈ (s.arbTurned a b q used).waiting, p.req.val ≠ q.req.val := by
  simp [State.arbTurned, Arbiter.took, Arbiter.granting]

/-- The turn goes on: it has not ended, grants are left of its weight, and its requester has a transaction waiting. -/
def State.arbStays (s : State) (a : ArbId) (b : Arbiter) : Bool :=
  !b.ended && decide (b.used < s.arbWeight a b.turn) && b.waiting.any fun q => q.req.val == b.turn

theorem State.arbStays_iff {s : State} {a : ArbId} {b : Arbiter} : s.arbStays a b = true ↔
    b.ended = false ∧ b.used < s.arbWeight a b.turn ∧ ∃ p ∈ b.waiting, p.req.val = b.turn := by
  simp [State.arbStays, and_assoc]

/-- With none aged: the requester granted, and the grants of its turn so far. -/
def State.arbNext (s : State) (a : ArbId) (b : Arbiter) : Option (Nat × Nat) :=
  if s.arbStays a b then some (b.turn, b.used) else (nextReq b.turn b.waiting).map (·, 0)

section
variable {s : State} {a : ArbId} {b : Arbiter}

theorem State.arbGrant_of_aged {q : ArbReq} (h : s.arbAged a b.waiting = some q) : s.arbGrant a b = some (q, true, b.tookAged q) := by
  rw [State.arbGrant, h]
  rfl

/-- With none aged, the oldest transaction is granted of the requester that `arbNext` names. -/
theorem State.arbGrant_of_next {r u : Nat} {q : ArbReq} (h : s.arbAged a b.waiting = none) (hnext : s.arbNext a b = some (r, u))
    (hq : oldestOf r b.waiting = some q) : s.arbGrant a b = some (q, false, s.arbTurned a b q (u + 1)) := by
  obtain rfl := (oldestOf_spec hq).2
  rw [State.arbNext, State.arbStays] at hnext
  simp only [State.arbGrant, h, hnext, hq]
  rfl

theorem State.arbGrant_of_stays (h : s.arbAged a b.waiting = none) (hstays : s.arbStays a b = true) :
    ∃ q, oldestOf q.req.val b.waiting = some q ∧ q.req.val = b.turn ∧ s.arbGrant a b = some (q, false, s.arbTurned a b q (b.used + 1)) := by
  obtain ⟨-, -, hwaits⟩ := State.arbStays_iff.1 hstays
  obtain ⟨q, hq⟩ := oldestOf_isSome hwaits
  have hturn := (oldestOf_spec hq).2
  exact ⟨q, hturn.symm ▸ hq, hturn, State.arbGrant_of_next h (if_pos hstays) hq⟩

theorem State.arbGrant_of_passes (h : s.arbAged a b.waiting = none) (hstays : ¬ s.arbStays a b = true) (hne : b.waiting ≠ []) :
    ∃ q, oldestOf q.req.val b.waiting = some q ∧ (∀ p ∈ b.waiting, turnsTo b.turn q.req.val ≤ turnsTo b.turn p.req.val) ∧
      s.arbGrant a b = some (q, false, s.arbTurned a b q 1) := by
  obtain ⟨k, hk⟩ := nextReq_isSome b.turn hne
  obtain ⟨hwaits, hfirst⟩ := nextReq_spec hk
  obtain ⟨q, hq⟩ := oldestOf_isSome hwaits
  obtain rfl := (oldestOf_spec hq).2
  have hnext : s.arbNext a b = some (q.req.val, 0) := by rw [State.arbNext, if_neg hstays, hk]; rfl
  exact ⟨q, hq, hfirst, State.arbGrant_of_next h hnext hq⟩

theorem State.arbGrant_of_empty (h : b.waiting = []) : s.arbGrant a b = none := by
  simp [State.arbGrant, State.arbAged, nextReq_nil, h]

/-- All that an arbiter can do: grant nothing, the oldest aged transaction, or its requester's oldest. -/
theorem State.arbGrant_cases (s : State) (a : ArbId) (b : Arbiter) :
    (b.waiting = [] ∧ s.arbGrant a b = none) ∨
    (∃ q, s.arbAged a b.waiting = some q ∧ s.arbGrant a b = some (q, true, b.tookAged q)) ∨
    ∃ q used, oldestOf q.req.val b.waiting = some q ∧ s.arbGrant a b = some (q, false, s.arbTurned a b q used) := by
  cases haged : s.arbAged a b.waiting with
  | some q => exact .inr (.inl ⟨q, rfl, State.arbGrant_of_aged haged⟩)
  | none =>
    by_cases hstays : s.arbStays a b = true
    · obtain ⟨q, hq, -, hgrant⟩ := State.arbGrant_of_stays haged hstays
      exact .inr (.inr ⟨q, _, hq, hgrant⟩)
    · by_cases hne : b.waiting = []
      · exact .inl ⟨hne, State.arbGrant_of_empty hne⟩
      · obtain ⟨q, hq, -, hgrant⟩ := State.arbGrant_of_passes haged hstays hne
        exact .inr (.inr ⟨q, _, hq, hgrant⟩)

theorem State.arbGrant_some {q : ArbReq} {aged : Bool} {v : Arbiter} (h : s.arbGrant a b = some (q, aged, v)) :
    q ∈ b.waiting ∧ v.granted = some q ∧ v.waiting = b.waiting.erase q ∧ v.refresh = b.refresh ∧
      (aged = false → oldestOf q.req.val b.waiting = some q) := by
  rcases s.arbGrant_cases a b with ⟨-, hgrant⟩ | ⟨p, haged, hgrant⟩ | ⟨p, used, hp, hgrant⟩
  · exact nomatch hgrant.symm.trans h
  · obtain ⟨rfl, rfl, rfl⟩ : p = q ∧ true = aged ∧ b.tookAged p = v := by simpa using hgrant.symm.trans h
    exact ⟨(State.mem_agedReqs.1 (State.mem_of_arbAged haged)).1, rfl, rfl, rfl, nofun⟩
  · obtain ⟨rfl, rfl, rfl⟩ : p = q ∧ false = aged ∧ s.arbTurned a b p used = v := by simpa using hgrant.symm.trans h
    exact ⟨(oldestOf_spec hp).1, rfl, rfl, rfl, fun _ => hp⟩

theorem State.arbGrant_ne_none (h : b.waiting ≠ []) : s.arbGrant a b ≠ none := by
  rcases s.arbGrant_cases a b with ⟨hnil, -⟩ | ⟨_, -, hgrant⟩ | ⟨_, _, -, hgrant⟩
  · exact absurd hnil h
  all_goals rw [hgrant]; exact Option.some_ne_none _

end

end Sys2Proof.Machine
end

section
/-! What a shelf grants (R274, R275, R277): aged requests, then the ports in their turn, then the scrubber. -/

namespace Sys2Proof.Machine
open Sys2Proof

section
variable {f : Shelf} {bound : Fin 5 → Bool}

/-! ## Aged requests -/

/-- The unbound ports whose oldest request has waited 16 bc. -/
def Shelf.agedPorts (f : Shelf) (bound : Fin 5 → Bool) : List (Fin 5) :=
  (List.finRange 5).filter fun p => f.asks p && !bound p && decide (16 ≤ f.age p)

theorem Shelf.mem_agedPorts {p : Fin 5} : p ∈ f.agedPorts bound ↔ f.asks p = true ∧ bound p = false ∧ 16 ≤ f.age p := by
  simp [Shelf.agedPorts, and_assoc]

/-- Of these the one whose request is oldest, the lower port between equals: what the fold of step 1 of R277 keeps. -/
def Shelf.agedPort (f : Shelf) (bound : Fin 5 → Bool) : Option (Fin 5) := (f.agedPorts bound).argmax f.age

/-- The scrubber's request is aged and older than every aged request of a port. -/
def Shelf.scrubFirst (f : Shelf) (bound : Fin 5 → Bool) : Bool :=
  f.scrubWait.any fun n => decide (256 ≤ n) && (f.agedPort bound).all fun p => decide (f.age p < n)

theorem Shelf.agedGrant_eq (f : Shelf) (bound : Fin 5 → Bool) : f.agedGrant bound =
    if f.scrubFirst bound then some (.scrubber true) else (f.agedPort bound).map (.port · true) := by
  have hbest {o : Option (Fin 5)} (h : (f.agedPorts bound).foldl (fun (b : Option (Fin 5)) p => match b with
      | some q => if f.age q < f.age p then some p else some q
      | none => some p) none = o) : f.agedPort bound = o := by
    rw [← h, Shelf.agedPort, List.argmax]
    congr 1
    funext b p
    cases b <;> rfl
  rw [Shelf.agedGrant]
  split
  next p n hp hn => simp [Shelf.scrubFirst, hbest hp, hn]
  next p hp hn => simp [Shelf.scrubFirst, hbest hp, hn]
  next n hp hn => simp [Shelf.scrubFirst, hbest hp, hn]
  next hp hn => simp [Shelf.scrubFirst, hbest hp, hn]

theorem Shelf.agedGrant_cases {g : ShelfGrant} (h : f.agedGrant bound = some g) :
    (∃ p ∈ f.agedPorts bound, g = .port p true) ∨ ∃ n, f.scrubWait = some n ∧ 256 ≤ n ∧ g = .scrubber true := by
  rw [f.agedGrant_eq] at h
  split at h
  next hscrub =>
    rw [Shelf.scrubFirst, Option.any_eq_true] at hscrub
    obtain ⟨n, hn, hfirst⟩ := hscrub
    have hold : 256 ≤ n := of_decide_eq_true (Bool.and_eq_true_iff.1 hfirst).1
    exact .inr ⟨n, hn, hold, (Option.some.inj h).symm⟩
  next =>
    obtain ⟨p, hp, rfl⟩ := Option.map_eq_some_iff.1 h
    exact .inl ⟨p, List.argmax_mem hp, rfl⟩

theorem Shelf.agedGrant_isSome {p : Fin 5} (h : p ∈ f.agedPorts bound) : ∃ g, f.agedGrant bound = some g := by
  have hsome : f.agedPort bound ≠ none := fun hnone => List.ne_nil_of_mem h (List.argmax_eq_none.1 hnone)
  obtain ⟨q, hq⟩ := Option.ne_none_iff_exists'.1 hsome
  rw [f.agedGrant_eq, hq]
  split <;> exact ⟨_, rfl⟩

/-! ## Turns of the ports -/

theorem Shelf.turn_some {ok : Fin 5 → Bool} {p : Fin 5} (h : f.turn ok = some p) : ok p = true := List.find?_some h

/-- Every port has its place in the order of the turns. -/
theorem Shelf.turn_eq_none {ok : Fin 5 → Bool} : f.turn ok = none ↔ ∀ p, ok p = false := by
  rw [Shelf.turn, List.find?_eq_none]
  refine ⟨fun h p => ?_, fun h p _ => by simp [h p]⟩
  refine Bool.eq_false_iff.2 (h p (List.mem_map.2 ⟨(p.val + 4 - f.last % 5) % 5, List.mem_range.2 (Nat.mod_lt _ (by decide)), Fin.ext ?_⟩))
  rw [Fin.val_ofNat]
  omega

/-! ## The grant -/

/-- The first requesting port that is bound, after the last port granted. -/
def Shelf.boundTurn (f : Shelf) (bound : Fin 5 → Bool) : Option (Fin 5) := f.turn fun p => f.asks p && bound p

/-- The same of the ports that are not bound. -/
def Shelf.strayTurn (f : Shelf) (bound : Fin 5 → Bool) : Option (Fin 5) := f.turn fun p => f.asks p && !bound p

theorem Shelf.asks_of_boundTurn {p : Fin 5} (h : f.boundTurn bound = some p) : f.asks p = true ∧ bound p = true := by
  simpa using Shelf.turn_some h

theorem Shelf.asks_of_strayTurn {p : Fin 5} (h : f.strayTurn bound = some p) : f.asks p = true ∧ bound p = false := by
  simpa using Shelf.turn_some h

theorem Shelf.turns_eq_none : f.boundTurn bound = none ∧ f.strayTurn bound = none ↔ ∀ p, f.asks p = false := by
  rw [Shelf.boundTurn, Shelf.strayTurn, Shelf.turn_eq_none, Shelf.turn_eq_none, ← forall_and]
  refine forall_congr' fun p => ?_
  cases bound p <;> simp

theorem Shelf.grant_eq (f : Shelf) (bound : Fin 5 → Bool) : f.grant bound =
    (f.agedGrant bound <|> (f.boundTurn bound).map (.port · false) <|> (f.strayTurn bound).map (.port · false) <|>
      if f.scrubWait.isSome then some (.scrubber false) else none) := rfl

/-- All that a shelf can grant, in the order of R277. -/
theorem Shelf.grant_cases {g : ShelfGrant} (h : f.grant bound = some g) :
    f.agedGrant bound = some g ∨ (∃ p, f.boundTurn bound = some p ∧ g = .port p false) ∨
      (∃ p, f.strayTurn bound = some p ∧ g = .port p false) ∨
      ((∀ p, f.asks p = false) ∧ f.scrubWait ≠ none ∧ g = .scrubber false) := by
  rw [f.grant_eq] at h
  simp only [Option.orElse_eq_some, Option.map_eq_some_iff, Option.map_eq_none_iff] at h
  rcases h with haged | ⟨-, ⟨p, hp, rfl⟩ | ⟨hbound, ⟨p, hp, rfl⟩ | ⟨hstray, hscrub⟩⟩⟩
  · exact .inl haged
  · exact .inr (.inl ⟨p, hp, rfl⟩)
  · exact .inr (.inr (.inl ⟨p, hp, rfl⟩))
  · obtain ⟨hsome, rfl⟩ : f.scrubWait.isSome = true ∧ ShelfGrant.scrubber false = g := by simpa using hscrub
    exact .inr (.inr (.inr ⟨Shelf.turns_eq_none.1 ⟨hbound, hstray⟩, Option.isSome_iff_ne_none.1 hsome, rfl⟩))

theorem Shelf.grant_of_aged {g : ShelfGrant} (h : f.agedGrant bound = some g) : f.grant bound = some g := by
  rw [f.grant_eq, h]
  rfl

theorem Shelf.grant_of_bound {p : Fin 5} (h : f.agedGrant bound = none) (hasks : f.asks p = true) (hp : bound p = true) :
    ∃ q, f.grant bound = some (.port q false) ∧ bound q = true := by
  obtain ⟨q, hq⟩ : ∃ q, f.boundTurn bound = some q := by
    refine Option.ne_none_iff_exists'.1 fun hnone => ?_
    simpa [hasks, hp] using Shelf.turn_eq_none.1 hnone p
  refine ⟨q, ?_, (Shelf.asks_of_boundTurn hq).2⟩
  rw [f.grant_eq, h, hq]
  rfl

theorem Shelf.grant_port {p : Fin 5} {aged : Bool} (h : f.grant bound = some (.port p aged)) :
    f.asks p = true ∧ (aged = true → bound p = false ∧ 16 ≤ f.age p) := by
  rcases Shelf.grant_cases h with haged | ⟨q, hq, hg⟩ | ⟨q, hq, hg⟩ | ⟨-, -, hg⟩
  · rcases Shelf.agedGrant_cases haged with ⟨q, hq, hg⟩ | ⟨_, -, -, hg⟩
    · cases hg
      obtain ⟨hasks, hold⟩ := Shelf.mem_agedPorts.1 hq
      exact ⟨hasks, fun _ => hold⟩
    · cases hg
  · cases hg
    exact ⟨(Shelf.asks_of_boundTurn hq).1, nofun⟩
  · cases hg
    exact ⟨(Shelf.asks_of_strayTurn hq).1, nofun⟩
  · cases hg

theorem Shelf.grant_scrubber {aged : Bool} (h : f.grant bound = some (.scrubber aged)) :
    (∃ n, f.scrubWait = some n ∧ (aged = true → 256 ≤ n)) ∧ (aged = false → ∀ p, f.asks p = false) := by
  rcases Shelf.grant_cases h with haged | ⟨_, -, hg⟩ | ⟨_, -, hg⟩ | ⟨hquiet, hscrub, hg⟩
  · rcases Shelf.agedGrant_cases haged with ⟨_, -, hg⟩ | ⟨n, hn, hold, hg⟩
    · cases hg
    · cases hg
      exact ⟨⟨n, hn, fun _ => hold⟩, nofun⟩
  · cases hg
  · cases hg
  · cases hg
    obtain ⟨n, hn⟩ := Option.ne_none_iff_exists'.1 hscrub
    exact ⟨⟨n, hn, nofun⟩, fun _ => hquiet⟩

theorem Shelf.grant_eq_none : f.grant bound = none ↔ (∀ p, f.asks p = false) ∧ f.scrubWait = none := by
  constructor
  · intro h
    rw [f.grant_eq] at h
    simp only [Option.orElse_eq_none, Option.map_eq_none_iff] at h
    obtain ⟨-, hbound, hstray, hscrub⟩ := h
    exact ⟨Shelf.turns_eq_none.1 ⟨hbound, hstray⟩, by simpa using hscrub⟩
  · rintro ⟨hquiet, hscrub⟩
    refine Option.eq_none_iff_forall_ne_some.2 fun g hg => ?_
    cases g with
    | port p aged => exact Bool.false_ne_true ((hquiet p).symm.trans (Shelf.grant_port hg).1)
    | scrubber aged =>
      obtain ⟨⟨n, hn, -⟩, -⟩ := Shelf.grant_scrubber hg
      exact nomatch hscrub.symm.trans hn

/-! ## What a grant of a port serves -/

theorem Shelf.laneTurn_some {p : Fin 5} {a : ShelfAcc} (h : f.laneTurn p = some a) : a.port = p ∧ a ∈ f.heads.map (·.1) := by
  obtain ⟨e, he, rfl⟩ := Option.map_eq_some_iff.1 h
  obtain ⟨l, -, hl⟩ := List.exists_of_findSome?_eq_some he
  have hlane := List.find?_some hl
  rw [Bool.and_eq_true, beq_iff_eq] at hlane
  exact ⟨hlane.1, List.mem_map_of_mem (List.mem_of_find?_eq_some hl)⟩

theorem Shelf.mem_servedBy {a b : ShelfAcc} : b ∈ f.servedBy a ↔ b ∈ f.heads.map (·.1) ∧ (b = a ∨ joinsLine a b = true) := by
  rw [Shelf.servedBy, List.mem_filter, Bool.or_eq_true, beq_iff_eq]

theorem joinsLine_iff {a b : ShelfAcc} : joinsLine a b = true ↔
    a.port.val ≤ 1 ∧ b.port = a.port ∧ a.write = false ∧ b.write = false ∧ b.word.toNat / 8 = a.word.toNat / 8 := by
  simp [joinsLine, and_assoc, eq_comm (a := a.port), eq_comm (a := a.word.toNat / 8)]

theorem Shelf.after_port {p : Fin 5} {a : ShelfAcc} (h : f.laneTurn p = some a) (aged : Bool) :
    (f.after (some (.port p aged))).lock = (if a.rmw then some a else none) ∧ (f.after (some (.port p aged))).served = f.servedBy a := by
  rw [Shelf.after, h]
  exact ⟨rfl, rfl⟩

end

/-! ## The clauses -/

/-- Settles O45: the arbiter by its oldest aged transaction or its turn, the shelf by the order of R277. -/
theorem arbitersAreFair : Obligations.ArbitersAreFair := by
  refine ⟨fun s a b => ⟨fun q hq => ?oldest, fun hnone hlimit p hp => State.waited_lt_of_arbAged_none hnone hlimit hp,
      fun q aged v h => State.arbGrant_some h, State.arbGrant_ne_none, fun q hq => ⟨_, State.arbGrant_of_aged hq, rfl, rfl⟩,
      fun hnone hover hne => ?passes, fun hnone hend hused hwaits => ?stays⟩,
    fun f bound => ⟨Shelf.grant_eq_none, fun p aged h => Shelf.grant_port h, fun aged h => Shelf.grant_scrubber h,
      fun p hasks hp hold => ?aged, fun hnone p hasks hp => Shelf.grant_of_bound hnone hasks hp, fun p aged a ha => ?serves⟩⟩
  case oldest =>
    obtain ⟨hmem, hlimit, hold⟩ := State.mem_agedReqs.1 (State.mem_of_arbAged hq)
    exact ⟨hmem, hlimit, hold, fun p hp => State.arbAged_oldest hq hp⟩
  case passes =>
    have hends : ¬ s.arbStays a b = true := by
      rw [State.arbStays_iff]
      rintro ⟨hend, hused, p, hp, hturn⟩
      rcases hover with he | hw | hnot
      · exact Bool.false_ne_true (hend.symm.trans he)
      · exact Nat.not_le_of_lt hused hw
      · exact hnot p hp hturn
    obtain ⟨q, -, hfirst, hgrant⟩ := State.arbGrant_of_passes hnone hends hne
    exact ⟨q, _, hgrant, rfl, rfl, hfirst, s.arbTurned_ended a b q 1⟩
  case stays =>
    obtain ⟨q, -, hturn, hgrant⟩ := State.arbGrant_of_stays hnone (State.arbStays_iff.2 ⟨hend, hused, hwaits⟩)
    exact ⟨q, _, hgrant, hturn, hturn, rfl, hturn ▸ s.arbTurned_ended a b q (b.used + 1)⟩
  case aged =>
    obtain ⟨g, hg⟩ := Shelf.agedGrant_isSome (Shelf.mem_agedPorts.2 ⟨hasks, hp, hold⟩)
    exact ⟨g, hg, Shelf.grant_of_aged hg⟩
  case serves =>
    obtain ⟨hport, hhead⟩ := Shelf.laneTurn_some ha
    obtain ⟨hlock, hserved⟩ := Shelf.after_port ha aged
    rw [hlock, hserved]
    refine ⟨hport, rfl, Shelf.mem_servedBy.2 ⟨hhead, .inl rfl⟩, fun b hb => ?_⟩
    refine (Shelf.mem_servedBy.1 hb).2.imp_right fun hjoin => ?_
    obtain ⟨hengine, hsame, hread, hread', hline⟩ := joinsLine_iff.1 hjoin
    exact ⟨hsame, hengine, hread, hread', hline⟩

end Sys2Proof.Machine
end

section
/-! The release loop of a word's queue, and a signal on a word without waits (R289, R290, R296, R301). -/

namespace Sys2Proof.Machine
open Sys2Proof

/-! ## The release loop (R301) -/

theorem releaseScan_of_le {w : Wait} {n : Nat} (h : w.n ≤ n) (q : List Wait) :
    releaseScan (w :: q) n = (w :: (releaseScan q (n - w.n)).1, (releaseScan q (n - w.n)).2) := if_pos h

theorem releaseScan_of_lt {w : Wait} {n : Nat} (h : n < w.n) (q : List Wait) : releaseScan (w :: q) n = ([], n) :=
  if_neg (Nat.not_le.2 h)

/-- Settles O34: along the queue, each wait that the count covers is released and paid, and the first that it does not cover stays. -/
theorem releaseLoop : Obligations.ReleaseLoop := by
  intro q
  induction q with
  | nil => exact fun n => ⟨[], rfl, rfl, nofun⟩
  | cons w q ih =>
    intro n
    by_cases h : w.n ≤ n
    · obtain ⟨rest, hq, hsum, hhead⟩ := ih (n - w.n)
      rw [releaseScan_of_le h]
      refine ⟨rest, congrArg (w :: ·) hq, ?_, hhead⟩
      rw [List.map_cons, List.sum_cons]
      omega
    · rw [releaseScan_of_lt (Nat.not_le.1 h)]
      exact ⟨w :: q, rfl, rfl, fun v hv => by cases hv; exact Nat.not_le.1 h⟩

/-! ## A word reads as it was written -/

theorem leNat_toLe (k n : Nat) : leNat (toLe k n) = n % 256 ^ k := by
  induction k generalizing n with
  | zero => exact (Nat.mod_one n).symm
  | succ k ih =>
    have hsplit : n % 256 ^ (k + 1) = n % 256 + 256 * (n / 256 % 256 ^ k) := by rw [Nat.pow_succ', Nat.mod_mul]
    rw [toLe, leNat, ih, BitVec.toNat_ofNat, hsplit]

theorem map_range_getD {α : Type} (l : List α) (d : α) : (List.range l.length).map (fun i => l.getD i d) = l :=
  List.ext_getElem (by simp) fun i h _ => by simp at h; simp [h]

/-- A word that is set reads as it was set. -/
@[simp] theorem Mem.word_setWord (m : Mem) (w : Nat) (x : StoWord) : (m.setWord w x).word w = x := by
  have hbyte (i : Nat) (hi : i < 8) : (m.setWord w x).byte (8 * w + i) = (toLe 8 x.data.toNat).getD i 0 := by
    rw [Mem.setWord, Mem.byte_fixWord, Mem.byte_setPoison, Mem.byte_setFe, Mem.byte_setBytes, toLe_length, if_pos (by omega),
      Nat.add_sub_cancel_left]
  have hbytes : (List.range 8).map (fun i => (m.setWord w x).byte (8 * w + i)) = toLe 8 x.data.toNat :=
    (List.map_congr_left fun i hi => hbyte i (List.mem_range.1 hi)).trans
      ((congrArg _ (congrArg List.range (toLe_length 8 x.data.toNat).symm)).trans (map_range_getD _ _))
  have hdata : BitVec.ofNat 64 (x.data.toNat % 256 ^ 8) = x.data :=
    BitVec.eq_of_toNat_eq (by rw [BitVec.toNat_ofNat]; have := x.data.isLt; omega)
  rw [Mem.word, hbytes, leNat_toLe, hdata]
  simp [Mem.setWord]

theorem Mem.feAt_setWord_other (m : Mem) {w v : Nat} (x : StoWord) (h : v ≠ w) : (m.setWord w x).feAt v = m.feAt v := by
  simp [Mem.setWord, h]

theorem Mem.poisonAt_setWord_other (m : Mem) {w v : Nat} (x : StoWord) (h : v ≠ w) : (m.setWord w x).poisonAt v = m.poisonAt v := by
  simp [Mem.setWord, h]

/-! ## A signal on a word without waits (R289, R290, R296) -/

/-- A change of a core that leaves it as it is. -/
theorem State.modCore_of_fixed {s : State} {c : CoreId} {f : Core → Core} (h : f (s.core c) = s.core c) : s.modCore c f = s := by
  have hset : vmod s.cores c f = s.cores := (congrArg (s.cores.set c) h).trans (Vector.set_getElem_self _)
  rw [State.modCore, hset]

theorem State.dropWaits_nil (s : State) (c : CoreId) : s.dropWaits c [] = s :=
  State.modCore_of_fixed (congrArg (fun l => { s.core c with waits := l }) (List.filter_eq_self.2 fun _ _ => rfl))

section
variable {s : State} {c : CoreId} {word n : Nat} {g : W16} (hq : (s.core c).queueOn word = [])
include hq

theorem State.releaseLoop_of_empty : s.releaseLoop c word n = (s, [], n) := by
  rw [State.releaseLoop, hq, releaseScan]
  simp only [State.dropWaits_nil, ite_self]

/-- The word that a signal leaves where no wait is queued. -/
theorem State.applySignal_of_empty (hn : n ≠ 0) : s.applySignal c word n g =
    ((s.putSync c word { s.syncAt c word with count := sat32 ((s.syncAt c word).count + n), last := g,
                                              ovf := (s.syncAt c word).ovf || decide (0xFFFF_FFFF < (s.syncAt c word).count + n) }).countSync
      c).bump (.sync c) 2 (bn (decide (0xFFFF_FFFF < (s.syncAt c word).count + n))) := by
  rw [State.applySignal, SIG_FUEL, State.syncSignal, if_neg hn]
  simp only [State.releaseLoop_of_empty hq]
  rfl

theorem State.putSync_of_empty (w : SyncWord) : s.putSync c word w =
    s.setStoWord c word { data := w.data 0, fe := decide (0 < w.count), poison := (s.stoWordAt c word).poison } := by
  rw [State.putSync, hq]
  rfl

end

/-- Settles O35: the signal sets the word and counts; nothing else of the memory or the cores changes. -/
theorem signalCounts : Obligations.SignalCounts := by
  intro s c word n g hn hq t old
  let w : SyncWord := { old with count := min (old.count + n) 0xFFFF_FFFF, last := g, ovf := old.ovf || decide (0xFFFF_FFFF < old.count + n) }
  have ht : t = { s.putSync c word w with regs := t.regs } := by
    have hsignal : t = ((s.putSync c word w).countSync c).bump (.sync c) 2 (bn (decide (0xFFFF_FFFF < old.count + n))) :=
      State.applySignal_of_empty hq hn
    rw [hsignal]
    exact regsOnly_trans (State.bump_frame ..) (State.bump_frame ..)
  have hmem : t.mem = s.mem.setWord (stoWord c word) { data := w.data 0, fe := true, poison := (s.stoWordAt c word).poison } := by
    have hpos : decide (0 < w.count) = true := decide_eq_true (by simp only [w]; omega)
    rw [ht, State.putSync_of_empty hq, hpos]
    rfl
  have hcores (d : CoreId) : t.core d = s.core d := by rw [ht]; rfl
  refine ⟨?word, fun a ha => ?byte, fun v hv => ?bits, fun d _ => hcores d, ?_, ?_, ?_, ?_⟩
  case word => rw [State.stoWordAt, hmem, Mem.word_setWord]
  case byte => rw [hmem, Mem.byte_setWord_other _ _ _ _ ha]
  case bits => rw [hmem, Mem.feAt_setWord_other _ _ hv, Mem.poisonAt_setWord_other _ _ hv]; exact ⟨rfl, rfl⟩
  · rw [hcores]
  · rw [hcores]
  · rw [hcores]
  · rw [ht]; rfl

end Sys2Proof.Machine
end

section
/-! Rafter lines (R312 to R318): the arrive bits that an asserting line clears, and what it does in the cores of its mask. -/

namespace Sys2Proof.Machine
open Sys2Proof

/-! ## 64-bit quantities in two registers (R13) -/

theorem State.pg64_lt (s : State) (p : Page) (o : Nat) : s.pg64 p o < 2 ^ 64 := by
  have hlo := (s.pg p o).isLt
  have hhi := (s.pg p (o + 4)).isLt
  rw [State.pg64]
  omega

theorem State.pg64_setPg64_same (s : State) (p : Page) {o v : Nat} (ho : o + 4 < 0x1000) (hv : v < 2 ^ 64) :
    (s.setPg64 p o v).pg64 p o = v := by
  have hlo : (s.setPg64 p o v).pg p o = w32 v := by
    rw [State.setPg64, State.pg_setPg_off _ _ _ _ _ _ ho (by omega) (by omega), State.pg_setPg_same]
  have hhi : (s.setPg64 p o v).pg p (o + 4) = w32 (v >>> 32) := State.pg_setPg_same ..
  rw [State.pg64, hlo, hhi, w32, w32, BitVec.toNat_ofNat, BitVec.toNat_ofNat, Nat.shiftRight_eq_div_pow]
  omega

theorem State.pg_setPg64_other (s : State) (p q : Page) {o o' : Nat} (v : Nat) (ho : o + 4 < 0x1000) (ho' : o' < 0x1000)
    (h : ¬(q = p ∧ (o' = o ∨ o' = o + 4))) : (s.setPg64 p o v).pg q o' = s.pg q o' := by
  rw [State.setPg64, State.pg_setPg _ _ _ _ _ _ ho ho', if_neg (by tauto), State.pg_setPg _ _ _ _ _ _ (by omega) ho', if_neg (by tauto)]

/-! ## The arrive bits of a line (R312) -/

theorem le_of_testBit_subset {a m : Nat} (h : ∀ i, m.testBit i = true → a.testBit i = true) : m ≤ a := by
  have hand : m &&& a = m := Nat.eq_of_testBit_eq fun i => by
    rw [Nat.testBit_and, Bool.and_eq_left_iff_imp]
    exact h i
  exact hand ▸ Nat.and_le_right

/-- Bits that are all set are taken away without a borrow. -/
theorem testBit_sub_of_subset {a m : Nat} (h : ∀ i, m.testBit i = true → a.testBit i = true) (i : Nat) :
    (a - m).testBit i = (a.testBit i && !m.testBit i) := by
  have hlow : m % 2 = 1 → a % 2 = 1 := by simpa using h 0
  induction i generalizing a m with
  | zero =>
    have hle := le_of_testBit_subset h
    have hdiff : (a - m) % 2 = 1 ↔ a % 2 = 1 ∧ ¬m % 2 = 1 := by omega
    simp only [Nat.testBit_zero, hdiff, Bool.decide_and, decide_not]
  | succ i ih =>
    have hhalf : (a - m) / 2 = a / 2 - m / 2 := by omega
    have hsub (j : Nat) (hj : (m / 2).testBit j = true) : (a / 2).testBit j = true := by
      rw [← Nat.testBit_succ] at hj ⊢
      exact h (j + 1) hj
    rw [Nat.testBit_succ, Nat.testBit_succ, Nat.testBit_succ, hhalf]
    exact ih hsub (by simpa using hsub 0)

theorem lt_of_testBit {n k i : Nat} (h : n.testBit i = true) (hn : n < 2 ^ k) : i < k := by
  by_contra hi
  have hlt : n < 2 ^ i := hn.trans_le (Nat.pow_le_pow_right (by decide) (Nat.not_lt.1 hi))
  exact Bool.false_ne_true ((Nat.testBit_lt_two_pow hlt).symm.trans h)

section
variable {s : State} {l : LineId}

theorem State.missing_eq_zero_iff : s.missing l = 0 ↔ ∀ i, (s.rafMask l).testBit i = true → (s.rafArr l).testBit i = true := by
  have hlt (i : Nat) (h : (s.rafMask l).testBit i = true) : i < 64 := lt_of_testBit h (State.pg64_lt ..)
  simp only [State.missing, List.length_eq_zero_iff, List.filter_eq_nil_iff, List.mem_range, Bool.and_eq_true, Bool.not_eq_true', not_and,
    Bool.not_eq_false]
  exact ⟨fun h i hi => h i (hlt i hi) hi, fun h i _ => h i⟩

theorem State.rafArr_setArr {v : Nat} (h : v < 2 ^ 64) : (s.setArr l v).rafArr l = v :=
  State.pg64_setPg64_same _ _ (by have := l.isLt; simp only [RAF_ARR]; omega) h

theorem State.lineAssert_of_waits (h : s.rafMask l = 0 ∨ s.missing l ≠ 0) : s.lineAssert l = s := if_pos h

end

theorem exec_rafterLineAssert {s : State} (hup : s.pkgUp = true) (l : LineId) : exec (.rafterLineAssert l) s = .next (s.lineAssert l) :=
  congrArg Host.Outcome.next (if_pos hup)

/-- Settles O40: the masked arrive bits are all set when the line asserts, so that taking the mask away clears them and no other. -/
theorem rafterLines : Obligations.RafterLines := by
  refine ⟨fun l s hup => ⟨fun h => ?stays, fun hmask hall => ?asserts⟩, fun s l i hall _ => ?bits⟩
  case stays => rw [exec_rafterLineAssert hup, State.lineAssert_of_waits h]
  case asserts =>
    rw [exec_rafterLineAssert hup, State.lineAssert, if_neg (by simp [hmask, hall])]
  case bits =>
    have hlt : s.rafArr l - s.rafMask l < 2 ^ 64 := (Nat.sub_le ..).trans_lt (State.pg64_lt ..)
    rw [State.rafArr_setArr hlt]
    exact testBit_sub_of_subset (State.missing_eq_zero_iff.1 hall) i

end Sys2Proof.Machine
end

section
/-! CONTEXT_RESET (R306, R425): the reset of a context that has nothing in flight ends at once. -/

namespace Sys2Proof.Machine
open Sys2Proof

/-! ## A core that goes on with nothing -/

section
variable {s : State} {c : CoreId} {x : CtxId}

/-- Contexts that are left as they are, one after the other. -/
theorem foldl_settleCtx_of_fixed {l : List CtxId} (h : ∀ y ∈ l, s.settleCtx c y = (s, false)) (b : Bool) :
    l.foldl (fun a y => let (t, b) := a.1.settleCtx c y; (t, a.2 || b)) (s, b) = (s, b) := by
  induction l with
  | nil => rfl
  | cons y l ih =>
    obtain ⟨hy, hl⟩ := List.forall_mem_cons.1 h
    simp only [List.foldl_cons, hy, Bool.or_false]
    exact ih hl

theorem State.settleCtx_of_calm (h : s.calm c = true) (y : CtxId) : s.settleCtx c y = (s, false) := by
  obtain ⟨-, -, hctx⟩ := State.calm_iff.1 h
  exact State.settleCtx_of_held (hctx y).1 (hctx y).2

theorem State.settleOnce_of_calm (h : s.calm c = true) : s.settleOnce c = (s, false) := by
  obtain ⟨-, hfin, -⟩ := State.calm_iff.1 h
  rw [State.settleOnce, State.startFin_of_idle hfin]
  exact foldl_settleCtx_of_fixed (fun y _ => State.settleCtx_of_calm h y) false

theorem State.settleN_of_calm (h : s.calm c = true) (n : Nat) : State.settleN n s c = s := by
  cases n with
  | zero => rfl
  | succ n =>
    rw [State.settleN, State.settleOnce_of_calm h]
    exact ite_self s

/-- Of the contexts one changes the core, and leaves it calm. -/
theorem State.settle_of_one {t : State} (hr : (s.core c).resetting = false) (hf : (s.core c).fault = false) (hfin : (s.startFin c).2 = false)
    (hothers : ∀ y, y ≠ x → s.settleCtx c y = (s, false)) (hx : s.settleCtx c x = (t, true)) (ht : t.calm c = true) : s.settle c = t := by
  obtain ⟨l, l', hl, hnot⟩ := List.eq_append_cons_of_mem (List.mem_finRange x)
  have honce : s.settleOnce c = (t, true) := by
    rw [State.settleOnce, State.startFin_of_idle hfin, hl, List.foldl_append,
      foldl_settleCtx_of_fixed (fun y hy => hothers y fun e => hnot (e ▸ hy)), List.foldl_cons, hx]
    exact foldl_settleCtx_of_fixed (fun y _ => State.settleCtx_of_calm ht y) true
  rw [State.settle, hr, if_neg Bool.false_ne_true, State.settleN, hf, if_neg Bool.false_ne_true, honce]
  exact State.settleN_of_calm ht 7

end

/-! ## The reset of a context -/

/-- A context under reset: it issues nothing more. -/
def Ctx.resetBegun (t : Ctx) : Ctx := { t with resetting := true, head := none, bad := none, again := none }

/-- A context whose reset has ended. -/
def Ctx.resetEnded (t : Ctx) : Ctx :=
  { (t.go .halted) with pend := false, head := none, pre := false, desc := none, bad := none, loops := [], hold := .free,
                        saveOp := .none, again := none, resetting := false }

theorem Ctx.cur_resetEnded (t : Ctx) : t.resetEnded.cur = .halted := t.cur_go (st := .halted) (by decide)

theorem Core.goesOn_modCtx_other (k : Core) {x y : CtxId} (f : Ctx → Ctx) (h : y ≠ x) : (k.modCtx x f).goesOn y = k.goesOn y := by
  rw [Core.goesOn, Core.ctx_modCtx_other _ _ _ _ h]
  rfl

theorem exec_contextReset {s : State} {fn : FnId} {c : CoreId} (h : s.reaches fn c = true) (x : CtxId) :
    exec (.contextReset fn c x) s = .next (s.resetCtx c x) := congrArg Host.Outcome.next (if_pos h)

section
variable {s : State} {c : CoreId} {x : CtxId}

theorem State.resetCtx_of_stopped (h : (s.core c).fault = true ∨ (s.core c).resetting = true) : s.resetCtx c x = s := if_pos h

theorem State.resetCtx_of_running (hf : (s.core c).fault = false) (hr : (s.core c).resetting = false) :
    s.resetCtx c x = ((s.modCtx c x Ctx.resetBegun).removeWait c x).settle c := if_neg (by simp [hf, hr])

theorem State.removeWait_of_none (h : (s.core c).waitOf x = none) : s.removeWait c x = s := by
  rw [State.removeWait, h]

theorem State.core_modCtx (s : State) (c : CoreId) (x : CtxId) (f : Ctx → Ctx) : (s.modCtx c x f).core c = (s.core c).modCtx x f :=
  State.core_modCore ..

/-- Where no queue is halted there is nothing to discard (R425). -/
theorem State.dropHalted_of_running (h : ∀ q : QId, ((s.core c).dmaq[q]).halted = false) : s.dropHalted c x = s := by
  have hrun : ∀ d ∈ (s.core c).dmaq.toList, d.halted = false := by
    intro d hd
    obtain ⟨i, hi, rfl⟩ := Vector.getElem_of_mem (Vector.mem_toList_iff.1 hd)
    exact h ⟨i, hi⟩
  refine State.modCore_of_fixed ?_
  have hgone : (s.core c).dmaq.toList.flatMap (fun d => if d.halted then
      ((d.queue ++ d.run.map (·.job)).filter (·.ctx == x)).map (·.uid) else []) = [] :=
    List.flatMap_eq_nil_iff.2 fun d hd => if_neg (by simp [hrun d hd])
  have hqueues : ((s.core c).dmaq.map fun d => if d.halted then
      { d with queue := d.queue.filter (·.ctx != x), run := d.run.filter (·.job.ctx != x) } else d) = (s.core c).dmaq := by
    refine Vector.ext fun i hi => ?_
    rw [Vector.getElem_map]
    exact if_neg (by simp [show (s.core c).dmaq[i].halted = false from h ⟨i, hi⟩])
  have hlive : (s.core c).live.filter (fun e => !([] : List Nat).contains e.1) = (s.core c).live := List.filter_eq_self.2 fun _ _ => rfl
  dsimp only
  rw [hgone, hqueues, hlive]

theorem State.resetDone_eq : s.resetDone c x = (s.modCtx c x Ctx.resetEnded).setPg (.ctx c x) CTX_HALT 0xFFFE := rfl

/-- A context under reset with nothing in flight that nothing holds: its reset ends. -/
theorem State.settleCtx_of_reset (hr : (s.ctx c x).resetting = true) (hq : ∀ q : QId, ((s.core c).dmaq[q]).halted = false)
    (hhold : (s.ctx c x).hold = .free) (hbusy : (s.core c).busy x = false) : s.settleCtx c x = (s.resetDone c x, true) := by
  have hr' : ((s.core c).ctx x).resetting = true := hr
  have hhold' : ((s.core c).ctx x).hold = .free := hhold
  simp [State.settleCtx, hr, hr', hhold', hbusy, State.dropHalted_of_running hq]

/-- The reset of a context that has nothing in flight, in a core where nothing goes on by itself. -/
theorem State.resetCtx_of_idle (hf : (s.core c).fault = false) (hcalm : s.calm c = true) (hwait : (s.core c).waitOf x = none)
    (hbusy : (s.core c).busy x = false) (hhold : (s.ctx c x).hold = .free) (hq : ∀ q : QId, ((s.core c).dmaq[q]).halted = false) :
    s.resetCtx c x = (s.modCtx c x Ctx.resetBegun).resetDone c x := by
  obtain ⟨hres, hfin, hctx⟩ := State.calm_iff.1 hcalm
  have hcore := State.core_modCtx s c x Ctx.resetBegun
  have hdone : ((s.modCtx c x Ctx.resetBegun).resetDone c x).core c = ((s.core c).modCtx x Ctx.resetBegun).modCtx x Ctx.resetEnded := by
    rw [State.resetDone_eq, State.core_setPg, State.core_modCtx, hcore]
  rw [State.resetCtx_of_running hf hres, State.removeWait_of_none (by rw [hcore]; exact hwait)]
  refine State.settle_of_one (x := x) (by rw [hcore]; exact hres) (by rw [hcore]; exact hf)
    ((State.startFin_snd_congr (by rw [hcore]; rfl)).trans hfin) (fun y hy => State.settleCtx_of_held ?_ ?_)
    (State.settleCtx_of_reset (by rw [State.ctx_modCtx]; rfl) (by rw [hcore]; exact hq) (by rw [State.ctx_modCtx]; exact hhold)
      (by rw [hcore]; exact hbusy)) ?calm
  · rw [State.ctx_modCtx_other _ _ _ _ _ _ (.inr hy)]
    exact (hctx y).1
  · rw [hcore, Core.goesOn_modCtx_other _ _ hy]
    exact (hctx y).2
  case calm =>
    refine State.calm_iff.2 ⟨by rw [hdone]; exact hres, (State.startFin_snd_congr (by rw [hdone]; rfl)).trans hfin, fun y => ?_⟩
    rw [State.ctx, hdone]
    by_cases hy : y = x
    · subst hy
      have hend := Core.ctx_modCtx ((s.core c).modCtx y Ctx.resetBegun) y Ctx.resetEnded
      exact ⟨by rw [hend]; rfl, Core.goesOn_of_free (by rw [hend]; rfl)⟩
    · rw [Core.ctx_modCtx_other _ _ _ _ hy, Core.ctx_modCtx_other _ _ _ _ hy, Core.goesOn_modCtx_other _ _ hy,
        Core.goesOn_modCtx_other _ _ hy]
      exact hctx y

end

end Sys2Proof.Machine
end

section
/-! What a command in execution leaves of its destination when a core reset ends (R422, R426): its runs alone change. -/

namespace Sys2Proof.Machine
open Sys2Proof

/-! ## Bytes outside a run -/

/-- An address is outside a run of n bytes. -/
def Outside (b a n : Nat) : Prop := b < a ∨ a + n ≤ b

theorem Outside.within {b a n a' n' : Nat} (h : Outside b a n) (hlo : a ≤ a') (hhi : a' + n' ≤ a + n) : Outside b a' n' := by
  unfold Outside at *
  omega

/-- The pieces of a run lie within it. -/
theorem splitAtBounds_within {α : Type} (g f a : Nat) (l : List α) :
    ∀ p ∈ splitAtBounds g f a l, a ≤ p.1 ∧ p.1 + p.2.length ≤ a + l.length := by
  induction f generalizing a l with
  | zero => exact fun p hp => absurd hp List.not_mem_nil
  | succ f ih =>
    intro p hp
    by_cases hl : l = []
    · subst hl
      exact absurd hp List.not_mem_nil
    · rw [splitAtBounds_of_ne_nil hl, List.mem_cons] at hp
      obtain rfl | hp := hp
      · simp only [List.length_take]
        omega
      · obtain ⟨hlo, hhi⟩ := ih _ _ p hp
        rw [List.length_drop] at hhi
        omega

theorem Outside.piece {α : Type} {b a g f : Nat} {l : List α} (h : Outside b a l.length) {p : Nat × List α}
    (hp : p ∈ splitAtBounds g f a l) : Outside b p.1 p.2.length := by
  obtain ⟨hlo, hhi⟩ := splitAtBounds_within g f a l p hp
  exact h.within hlo hhi

@[simp] theorem Mem.byte_poisonLine (m : Mem) (line : Nat) (on : Bool) (b : Nat) : (m.poisonLine line on).byte b = m.byte b :=
  forRange_keeps (fun m' : Mem => m'.byte b = m.byte b) 8 (fun i m => m.setPoison (8 * line + i) on) (fun _ _ hm => hm) m rfl

section
variable {b : Nat} (hb : inCellar b = false)
include hb

theorem Mem.see_outside (m : Mem) (k : Nat) : m.see k b = m.byte b := if_neg (by simp [hb])

/-- A line merged and written under a key leaves the bytes that are in no cellar window and outside the run. -/
theorem Mem.byte_writeLine_outside (m : Mem) (k : Nat) {a : Nat} {l : List (Byte × Bool)} (h : Outside b a l.length) :
    (m.writeLine k a l).byte b = m.byte b := by
  have hmerged : (m.setBytes (64 * (a / 64)) ((List.range 64).map fun i => m.see k (64 * (a / 64) + i))).byte b = m.byte b := by
    rw [Mem.byte_setBytes]
    split
    next hin =>
      rw [List.length_map, List.length_range] at hin
      have hi : b - 64 * (a / 64) < 64 := by omega
      have haddr : 64 * (a / 64) + (b - 64 * (a / 64)) = b := by omega
      rw [List.getD_eq_getElem?_getD, List.getElem?_map, List.getElem?_range hi, Option.map_some, haddr, Option.getD_some,
        m.see_outside hb]
    next => rfl
  have hset (m' : Mem) (hm : m'.byte b = m.byte b) : (m'.setBytes a (l.map (·.1))).byte b = m.byte b := by
    rw [Mem.byte_setBytes, List.length_map, if_neg (by unfold Outside at h; omega), hm]
  rw [Mem.writeLine, Mem.byte_poisonLine]
  refine hset _ ?_
  split
  · exact hmerged
  · rfl

theorem Mem.byte_write_outside (m : Mem) (k : Nat) {a : Nat} {l : List (Byte × Bool)} (h : Outside b a l.length) :
    (m.write k a l).byte b = m.byte b := by
  cases hc : inCellar a with
  | false => rw [Mem.byte_write _ _ _ _ _ hc, if_neg (by unfold Outside at h; omega)]
  | true =>
    rw [Mem.write, if_pos hc]
    exact List.foldlRecOn (motive := fun m' : Mem => m'.byte b = m.byte b) _ _ rfl fun m' hm p hp =>
      (Mem.byte_writeLine_outside hb m' k (h.piece hp)).trans hm

end

/-! ## Writes of a core -/

/-- t is s after writes of cores: registers that count, memory, and the cores that the writes reached have changed. -/
def Wrote (s t : State) : Prop := t = { s with regs := t.regs, mem := t.mem, cores := t.cores }

theorem Wrote.refl (s : State) : Wrote s s := rfl

theorem Wrote.trans {s t u : State} (h : Wrote s t) (k : Wrote t u) : Wrote s u := by
  unfold Wrote at *
  rw [h] at k
  exact k

section
variable {s : State} {c : CoreId}

/-- Beside the write itself a core's write tells the core that it reaches. -/
theorem State.coreWrite_eq (k a : Nat) (l : List (Byte × Bool)) :
    s.coreWrite c k a l = { s.pkgWrite k a l with cores := (s.coreWrite c k a l).cores } := by
  unfold State.coreWrite
  split
  · split <;> rfl
  · rfl

theorem Wrote.coreWrite (k a : Nat) (l : List (Byte × Bool)) : Wrote s (s.coreWrite c k a l) := by
  have hpkg : Wrote s (s.pkgWrite k a l) := by
    unfold Wrote
    rw [State.pkgWrite_frame]
  refine hpkg.trans ?_
  unfold Wrote
  rw [State.coreWrite_eq]

theorem Wrote.writeSegs (segs : List OutSeg) : Wrote s (s.writeSegs c segs) := by
  refine foldl_keeps (Wrote s) _ (fun t g ht => foldl_keeps (Wrote s) _ (fun t p ht => ?_) _ t ht) _ s (.refl s)
  split
  · exact ht.trans (.coreWrite _ _ _)
  · exact ht

theorem State.byte_writeSegs_outside {b : Nat} (hb : inCellar b = false) {segs : List OutSeg}
    (h : ∀ g ∈ segs, Outside b g.addr g.data.length) : (s.writeSegs c segs).mem.byte b = s.mem.byte b := by
  refine List.foldlRecOn (motive := fun t : State => t.mem.byte b = s.mem.byte b) _ _ rfl fun t ht g hg =>
    List.foldlRecOn (motive := fun t : State => t.mem.byte b = s.mem.byte b) _ _ ht fun t ht p hp => ?_
  split
  · rw [State.coreWrite_eq]
    change (State.pkgWrite ..).mem.byte b = _
    rw [State.mem_pkgWrite, Mem.byte_write_outside hb _ _ ((h g hg).piece hp), ht]
  · exact ht

/-! ## What had been presented (R422) -/

/-- The words that had been presented, each a run of its own. -/
def State.presentedSegs (s : State) (c : CoreId) : List OutSeg :=
  (((s.runningSegs c).flatMap fun g => splitAtBounds 8 g.data.length g.addr g.data).zipIdx.filter fun p =>
    Config.presented (s.free + p.2)).map fun p => { addr := p.1.1, data := p.1.2 }

theorem State.present_eq : s.present c = { s.writeSegs c (s.presentedSegs c) with free := (s.present c).free } := rfl

theorem State.present_frame : s.present c = { s with regs := (s.present c).regs, mem := (s.present c).mem,
                                                     cores := (s.present c).cores, free := (s.present c).free } :=
  congrArg (fun t : State => { t with free := (s.present c).free }) (Wrote.writeSegs (s.presentedSegs c))

theorem State.byte_present_outside {b : Nat} (hb : inCellar b = false) (h : ∀ g ∈ s.runningSegs c, Outside b g.addr g.data.length) :
    (s.present c).mem.byte b = s.mem.byte b := by
  refine State.byte_writeSegs_outside hb fun g hg => ?_
  obtain ⟨p, hp, rfl⟩ := List.mem_map.1 hg
  obtain ⟨r, hr, hpiece⟩ := List.mem_flatMap.1 (List.fst_mem_of_mem_zipIdx (List.mem_of_mem_filter hp))
  exact (h r hr).piece hpiece

/-- Nothing in execution presents nothing. -/
theorem State.present_of_idle (h : s.runningSegs c = []) : s.present c = s := by
  rw [State.present, h]
  rfl

theorem State.runningSegs_of_idle (h : ∀ u, ((s.core c).unit u).exec = []) : s.runningSegs c = [] := by
  simp [State.runningSegs, h]

end

end Sys2Proof.Machine
end

section
/-! CORE_RESET (R426): what its end clears, and what stays. -/

namespace Sys2Proof.Machine
open Sys2Proof

/-! ## Arrive bits -/

/-- A bit that is set is taken away. -/
theorem testBit_sub_shiftLeft {v i : Nat} (h : v.testBit i = true) : (v - 1 <<< i).testBit i = false := by
  have hone (j : Nat) : (1 <<< i : Nat).testBit j = true ↔ j = i := by
    rw [Nat.one_shiftLeft, Nat.testBit_two_pow, decide_eq_true_iff]
    exact eq_comm
  rw [testBit_sub_of_subset (fun j hj => (hone j).1 hj ▸ h), (hone i).2 rfl, Bool.not_true, Bool.and_false]

section
variable {s : State} {l : LineId} {c : CoreId}

theorem State.arrive_off : s.arrive l c false = s ∨ s.arrive l c false = s.setArr l (s.rafArr l - 1 <<< c.val) := by
  unfold State.arrive
  dsimp only
  split
  · exact .inl rfl
  · exact .inr (if_neg Bool.false_ne_true)

theorem State.rafArr_arrive_off : ((s.arrive l c false).rafArr l).testBit c.val = false := by
  unfold State.arrive
  dsimp only
  split
  next h => exact h
  next h =>
    have hlt : s.rafArr l - 1 <<< c.val < 2 ^ 64 := (Nat.sub_le ..).trans_lt (State.pg64_lt ..)
    rw [if_neg Bool.false_ne_true, State.rafArr_setArr hlt]
    exact testBit_sub_shiftLeft (Bool.eq_true_of_not_eq_false h)

/-- The arrive bits of a line stand in two registers. -/
theorem State.pg_setArr_other {v : Nat} {p : Page} {o : Nat} (ho : o < 0x1000) (h : ¬(p = .pkg ∧ (o = RAF_ARR l.val ∨ o = RAF_ARR l.val + 4))) :
    (s.setArr l v).pg p o = s.pg p o :=
  State.pg_setPg64_other _ _ _ _ (by have := l.isLt; simp only [RAF_ARR]; omega) ho h

theorem State.rafArr_setArr_other {k : LineId} {v : Nat} (h : k ≠ l) : (s.setArr l v).rafArr k = s.rafArr k := by
  have hne : k.val ≠ l.val := fun e => h (Fin.ext e)
  have hk := k.isLt
  rw [State.rafArr, State.rafArr, State.pg64, State.pg64, State.pg_setArr_other (by simp only [RAF_ARR]; omega)
    (by simp only [RAF_ARR]; omega), State.pg_setArr_other (by simp only [RAF_ARR]; omega) (by simp only [RAF_ARR]; omega)]

end

/-- The core leaves every line (R426). -/
def State.leaveLines (s : State) (c : CoreId) : State := (List.finRange 16).foldl (fun s l => s.arrive l c false) s

section
variable {s : State} {c : CoreId}

theorem State.leaveLines_frame : s.leaveLines c = { s with regs := (s.leaveLines c).regs } := by
  refine foldl_keeps (fun t : State => t = { s with regs := t.regs }) _ (fun t l ht => regsOnly_trans ht ?_) _ s rfl
  obtain h | h := State.arrive_off (s := t) (l := l) (c := c) <;> rw [h]
  rfl

theorem State.pg_leaveLines_other {p : Page} {o : Nat} (ho : o < 0x1000) (h : p ≠ .pkg ∨ o < 0x280 ∨ 0x300 ≤ o) :
    (s.leaveLines c).pg p o = s.pg p o := by
  refine foldl_keeps (fun t : State => t.pg p o = s.pg p o) _ (fun t l ht => ?_) _ s rfl
  obtain hsame | hset := State.arrive_off (s := t) (l := l) (c := c)
  · rw [hsame, ht]
  · rw [hset, State.pg_setArr_other ho, ht]
    have := l.isLt
    simp only [RAF_ARR]
    rintro ⟨hp, ho'⟩
    exact h.elim (· hp) (by omega)

theorem State.rafArr_leaveLines (l : LineId) : ((s.leaveLines c).rafArr l).testBit c.val = false := by
  refine foldl_establishes (fun t : State => (t.rafArr l).testBit c.val = false) (fun t k => t.arrive k c false) l
    (fun t => State.rafArr_arrive_off) (fun t k ht => ?_) _ (List.mem_finRange l) s
  by_cases h : l = k
  · subst h
    exact State.rafArr_arrive_off
  · obtain hsame | hset := State.arrive_off (s := t) (l := k) (c := c)
    · rw [hsame, ht]
    · rw [hset, State.rafArr_setArr_other h, ht]

end

/-! ## Registers and lofts -/

/-- The block-specific registers of a core (R426). -/
theorem coreBlockReg_iff (c : CoreId) (p : Page) {o : Nat} (ho : o < 0x1000) :
    coreBlockReg c (p.base + o) = true ↔ p.core? = some c ∧ 0x100 ≤ o := by
  have hc := c.isLt
  have hsome (d : CoreId) : some d = some c ↔ d.val = c.val := by rw [Option.some_inj, Fin.ext_iff]
  simp only [coreBlockReg, Bool.and_eq_true, Bool.or_eq_true, decide_eq_true_iff, beq_iff_eq]
  cases p <;> simp only [Page.base, Page.core?, hsome, reduceCtorEq, false_and, iff_false] <;> omega

/-- The core's block-specific registers and its lofts take their reset values; its storeroom stays initialised. -/
def State.coreCleared (s : State) (c : CoreId) : State :=
  ({ s with regs := s.regs.filter fun e => !coreBlockReg c e.1
            loft := s.loft.filter fun e => e.1 / (9 * 8 * 8192) != c.val } : State).setPg (.sto c) STO_INIT 1

section
variable {s : State} {c : CoreId}

theorem State.coreCleared_frame : s.coreCleared c = { s with regs := (s.coreCleared c).regs, loft := (s.coreCleared c).loft } := rfl

theorem core_of_regsLoft {t : State} (h : t = { s with regs := t.regs, loft := t.loft }) (d : CoreId) : t.core d = s.core d := by
  rw [h]
  rfl

@[simp] theorem State.core_coreCleared (d : CoreId) : (s.coreCleared c).core d = s.core d := core_of_regsLoft State.coreCleared_frame d

theorem State.pg_coreCleared {p : Page} {o : Nat} (ho : o < 0x1000) (h : p ≠ .sto c ∨ o ≠ STO_INIT) :
    (s.coreCleared c).pg p o = if p.core? = some c ∧ 0x100 ≤ o then State.reset.pg p o else s.pg p o := by
  have hfilter : smGet regReset (s.regs.filter fun e => !coreBlockReg c e.1) (p.base + o) =
      if (!coreBlockReg c (p.base + o)) = true then s.pg p o else regReset (p.base + o) :=
    smGet_filter regReset (fun k => !coreBlockReg c k) s.regs _
  rw [State.coreCleared, State.pg_setPg _ _ _ _ _ _ (by decide) ho, if_neg (by tauto)]
  refine hfilter.trans ?_
  by_cases hb : p.core? = some c ∧ 0x100 ≤ o
  · rw [if_pos hb, (coreBlockReg_iff c p ho).2 hb]
    rfl
  · rw [if_neg hb, if_pos]
    rw [Bool.not_eq_true', ← Bool.not_eq_true, coreBlockReg_iff c p ho]
    exact hb

theorem State.loftAt_coreCleared (d : CoreId) {u e i : Nat} (hu : u < 9) (he : e < 8) (hi : i < 8192) :
    (s.coreCleared c).loftAt (loftKey d u e i) = if d = c then { s := 0, c := 0 } else s.loftAt (loftKey d u e i) := by
  have hkey : loftKey d u e i / (9 * 8 * 8192) = d.val := by
    unfold loftKey
    omega
  have hfilter := smGet_filter zeroEntry (fun k => k / (9 * 8 * 8192) != c.val) s.loft (loftKey d u e i)
  rw [hkey] at hfilter
  refine (congrArg Entry.ofWord hfilter).trans ?_
  by_cases hd : d = c
  · subst hd
    rw [if_neg (by simp), if_pos rfl, zeroEntry]
    decide
  · rw [if_pos (by simpa [Fin.ext_iff] using hd), if_neg hd]
    rfl

end

/-- t is s but for registers, cores, lofts and the power manager. -/
def Restarts (s t : State) : Prop := t = { s with regs := t.regs, cores := t.cores, loft := t.loft, power := t.power }

namespace Restarts
variable {s t : State}

theorem trans {u : State} (h : Restarts s t) (k : Restarts t u) : Restarts s u := by
  unfold Restarts at *
  rw [h] at k
  exact k

theorem of_regs (h : t = { s with regs := t.regs }) : Restarts s t := by
  unfold Restarts
  rw [h]

theorem of_regsLoft (h : t = { s with regs := t.regs, loft := t.loft }) : Restarts s t := by
  unfold Restarts
  rw [h]

theorem of_cores (h : t = { s with cores := t.cores }) : Restarts s t := by
  unfold Restarts
  rw [h]

theorem modPower (h : Restarts s t) (f : Power → Power) : Restarts s (t.modPower f) := h.trans rfl

theorem mem (h : Restarts s t) : t.mem = s.mem := by rw [h]
theorem mgmt (h : Restarts s t) : t.mgmt = s.mgmt := by rw [h]
theorem host (h : Restarts s t) : t.host = s.host := by rw [h]

end Restarts

/-! ## The end of a core reset -/

/-- The core as after reset; what is on its way, the numbers and the island stay (R426). -/
def Core.restarted (k : Core) : Core :=
  { Core.reset with nextUid := k.nextUid, inbox := k.inbox, acks := k.acks, nextPost := k.nextPost, shelves := k.shelves,
                    island := k.island }

/-- What is in execution when no core fault stands takes effect as far as it has been presented (R426). -/
def State.cutOff (s : State) (c : CoreId) : State := if (s.core c).fault then s else s.present c

/-- Registers, lofts and state of the core after reset, its arrive bits and its arrivals at the power manager gone (R426). -/
def State.coreRestart (s : State) (c : CoreId) : State :=
  (((s.coreCleared c).modCore c Core.restarted).leaveLines c).modPower fun p =>
    { p with counts := p.counts.filter fun e => e.1 / 65536 != c.val }

section
variable {s : State} {c : CoreId}

theorem core_of_regsOnly {t : State} (h : t = { s with regs := t.regs }) (d : CoreId) : t.core d = s.core d := by
  rw [h]
  rfl

theorem loft_of_regsOnly {t : State} (h : t = { s with regs := t.regs }) : t.loft = s.loft := by rw [h]

@[simp] theorem State.core_leaveLines (d : CoreId) : (s.leaveLines c).core d = s.core d := core_of_regsOnly State.leaveLines_frame d

theorem State.rafArr_modPower (f : Power → Power) (l : LineId) : (s.modPower f).rafArr l = s.rafArr l := rfl

theorem Restarts.coreRestart : Restarts s (s.coreRestart c) :=
  (((Restarts.of_regsLoft State.coreCleared_frame).trans (.of_cores rfl)).trans (.of_regs State.leaveLines_frame)).modPower _

theorem State.core_coreRestart : (s.coreRestart c).core c = (s.core c).restarted := by
  rw [State.coreRestart, State.core_modPower, State.core_leaveLines, State.core_modCore, State.core_coreCleared]

theorem State.core_coreRestart_other {d : CoreId} (h : d ≠ c) : (s.coreRestart c).core d = s.core d := by
  rw [State.coreRestart, State.core_modPower, State.core_leaveLines, State.core_modCore_other _ _ _ _ h,
    State.core_coreCleared]

theorem State.pg_coreRestart {p : Page} {o : Nat} (ho : o < 0x1000) (h : p ≠ .pkg ∨ o < 0x280 ∨ 0x300 ≤ o) :
    (s.coreRestart c).pg p o = (s.coreCleared c).pg p o := by
  rw [State.coreRestart, State.pg_modPower, State.pg_leaveLines_other ho h, State.pg_modCore]

theorem State.rafArr_coreRestart (l : LineId) : ((s.coreRestart c).rafArr l).testBit c.val = false := by
  rw [State.coreRestart, State.rafArr_modPower, State.rafArr_leaveLines]

theorem State.loftAt_coreRestart (d : CoreId) {u e i : Nat} (hu : u < 9) (he : e < 8) (hi : i < 8192) :
    (s.coreRestart c).loftAt (loftKey d u e i) = if d = c then { s := 0, c := 0 } else s.loftAt (loftKey d u e i) := by
  have hloft : (s.coreRestart c).loft = (s.coreCleared c).loft := by
    rw [State.coreRestart, State.modPower_loft, loft_of_regsOnly State.leaveLines_frame, State.modCore_loft]
  rw [State.loftAt, hloft]
  exact State.loftAt_coreCleared d hu he hi

theorem State.coreResetDone_eq : s.coreResetDone c = ((s.cutOff c).restoreVar c).coreRestart c := rfl

/-! ## What is cut off -/

theorem State.cutOff_frame : s.cutOff c = { s with regs := (s.cutOff c).regs, mem := (s.cutOff c).mem,
                                                   cores := (s.cutOff c).cores, free := (s.cutOff c).free } := by
  unfold State.cutOff
  split
  · rfl
  · exact State.present_frame

theorem State.cutOff_of_idle (h : (s.core c).fault = true ∨ ∀ u, ((s.core c).unit u).exec = []) : s.cutOff c = s := by
  unfold State.cutOff
  split
  next => rfl
  next hf => exact State.present_of_idle (State.runningSegs_of_idle (h.resolve_left hf))

theorem State.byte_cutOff_outside {b : Nat} (hb : inCellar b = false) (h : ∀ g ∈ s.runningSegs c, Outside b g.addr g.data.length) :
    (s.cutOff c).mem.byte b = s.mem.byte b := by
  unfold State.cutOff
  split
  · rfl
  · exact State.byte_present_outside hb h

theorem State.core_restoreVar_other {d : CoreId} (h : d ≠ c) : (s.restoreVar c).core d = s.core d := by
  unfold State.restoreVar
  split
  · rfl
  · exact State.core_modCore_other _ _ _ _ h

@[simp] theorem State.pg_restoreVar (p : Page) (o : Nat) : (s.restoreVar c).pg p o = s.pg p o := by
  rw [State.restoreVar_frame]
  rfl

/-- What runs is cut off before anything is cleared. -/
theorem Restarts.coreResetDone : Restarts (s.cutOff c) (s.coreResetDone c) :=
  (Restarts.of_cores (State.restoreVar_frame ..)).trans .coreRestart

theorem State.mgmt_cutOff : (s.cutOff c).mgmt = s.mgmt := by rw [State.cutOff_frame]

theorem State.host_cutOff : (s.cutOff c).host = s.host := by rw [State.cutOff_frame]

theorem State.loft_cutOff : (s.cutOff c).loft = s.loft := by rw [State.cutOff_frame]

theorem State.core_coreResetDone : (s.coreResetDone c).core c = (((s.cutOff c).restoreVar c).core c).restarted :=
  State.core_coreRestart

theorem State.core_coreResetDone_other {d : CoreId} (h : d ≠ c) : (s.coreResetDone c).core d = (s.cutOff c).core d :=
  (State.core_coreRestart_other h).trans (State.core_restoreVar_other h)

/-- The registers after a core reset, STO_INIT and the arrive bits apart. -/
theorem State.pg_coreResetDone {p : Page} {o : Nat} (ho : o < 0x1000) (hline : p ≠ .pkg ∨ o < 0x280 ∨ 0x300 ≤ o)
    (hinit : p ≠ .sto c ∨ o ≠ STO_INIT) : (s.coreResetDone c).pg p o =
      if p.core? = some c ∧ 0x100 ≤ o then State.reset.pg p o else (s.cutOff c).pg p o := by
  rw [State.coreResetDone_eq, State.pg_coreRestart ho hline, State.pg_coreCleared ho hinit, State.pg_restoreVar]

theorem State.pg_coreResetDone_init : (s.coreResetDone c).pg (.sto c) STO_INIT = 1 := by
  rw [State.coreResetDone_eq, State.pg_coreRestart (p := .sto c) (by decide) (.inl nofun)]
  exact State.pg_setPg_same ..

theorem State.loftAt_coreResetDone (d : CoreId) {u e i : Nat} (hu : u < 9) (he : e < 8) (hi : i < 8192) :
    (s.coreResetDone c).loftAt (loftKey d u e i) = if d = c then { s := 0, c := 0 } else s.loftAt (loftKey d u e i) := by
  have hloft : ((s.cutOff c).restoreVar c).loft = s.loft := by rw [State.restoreVar_frame, State.loft_cutOff]
  rw [State.coreResetDone_eq, State.loftAt_coreRestart d hu he hi, State.loftAt, State.loftAt, hloft]

end

end Sys2Proof.Machine
end

section
/-! CONTEXT_RESET and CORE_RESET (R306, R425, R426): a core reset begins, and the clauses of both. -/

namespace Sys2Proof.Machine
open Sys2Proof

/-! ## A core reset begins -/

/-- A core under reset: nothing that has not started stays, nothing waits (R426). -/
def Core.resetBegun (k : Core) : Core :=
  { k with resetting := true
           units := k.units.map fun u => { u with queue := [] }
           dmaq := Vector.replicate 8 { queue := [], run := [], halted := false }
           waits := []
           live := [] }

theorem Core.unit_resetBegun (k : Core) (u : Nat) : k.resetBegun.unit u = { k.unit u with queue := [] } :=
  Vector.getElem_map ..

theorem exec_coreReset {s : State} {fn : FnId} {c : CoreId} (h : s.reaches fn c = true) :
    exec (.coreReset fn c) s = .next (s.resetCore c) := congrArg Host.Outcome.next (if_pos h)

section
variable {s : State} {c : CoreId}

theorem State.resetCore_of_resetting (h : (s.core c).resetting = true) : s.resetCore c = s := if_pos h

theorem State.resetCore_of_running (h : (s.core c).resetting = false) :
    s.resetCore c = (s.modCore c Core.resetBegun).settle c := if_neg (by simp [h])

/-- A core under reset is ready once nothing is in flight (R426). -/
theorem State.settle_of_resetting (h : (s.core c).resetting = true) (ht : (s.core c).txns = []) : s.settle c = s.coreResetDone c := by
  rw [State.settle, if_pos h, ht]
  rfl

theorem State.settle_of_inFlight (h : (s.core c).resetting = true) (ht : (s.core c).txns ≠ []) : s.settle c = s := by
  rw [State.settle, if_pos h, if_neg (by simpa using ht)]

theorem exec_nop_of_resetting (h : (s.core c).resetting = true) (x : CtxId) (w : Cmd) : exec (.nop c x w) s = .next s :=
  congrArg Host.Outcome.next (if_neg (by simp [State.mayIssue, State.seqUp, h]))

/-- The loft that a DRAIN in execution reads: the entries it has read, once it has read its last (R122). -/
def State.drainView (s : State) (c : CoreId) (j : Job) : State := if j.stage = 0 then s else { s with loft := (s.core c).drained }

theorem drainRows_congr {s t : State} (hm : t.mem = s.mem) (hl : t.loft = s.loft) (o : DrainOp) : drainRows t o = drainRows s o := by
  simp only [drainRows, State.loftAt, hm, hl]

theorem drainPairs_congr {s t : State} (hl : t.loft = s.loft) (o : DrainOp) : drainPairs t o = drainPairs s o := by
  simp only [drainPairs, State.loftAt, hl]

theorem State.drainOut_eq (j : Job) : s.drainOut c j =
    if drainNoop j ∨ cf j.cmd 1 9 2 = 2 then { segs := [], clips := 0, excess := 0, first := none }
    else if cf j.cmd 1 9 2 = 1 then
      { segs := drainPairs (s.drainView c j) (drainOp c j.cmd j.desc j.m j.n j.slots), clips := 0, excess := 0, first := none }
    else outRows j.desc false (drainRows (s.drainView c j) (drainOp c j.cmd j.desc j.m j.n j.slots)) := rfl

section
variable {f : Core → Core} (hdrained : (f (s.core c)).drained = (s.core c).drained)
include hdrained

theorem State.drainOut_modCore (j : Job) : (s.modCore c f).drainOut c j = s.drainOut c j := by
  have hmem : ((s.modCore c f).drainView c j).mem = (s.drainView c j).mem := by
    unfold State.drainView
    split <;> rfl
  have hloft : ((s.modCore c f).drainView c j).loft = (s.drainView c j).loft := by
    unfold State.drainView
    split
    · rfl
    · rw [State.core_modCore]
      exact hdrained
  rw [State.drainOut_eq, State.drainOut_eq, drainPairs_congr hloft, drainRows_congr hmem hloft]

theorem State.finSegs_modCore (j : Job) : (s.modCore c f).finSegs c j = s.finSegs c j := by
  rw [State.finSegs, State.drainOut_modCore hdrained]
  rfl

/-- What the commands in execution write does not depend on what has not started. -/
theorem State.runningSegs_modCore (hunit : ∀ u, ((f (s.core c)).unit u).exec = ((s.core c).unit u).exec) :
    (s.modCore c f).runningSegs c = s.runningSegs c := by
  have hfin : (s.modCore c f).finSegs c = s.finSegs c := funext (State.finSegs_modCore hdrained)
  have hsummary : (s.modCore c f).summaryBytes c = s.summaryBytes c := rfl
  rw [State.runningSegs, State.runningSegs, hfin, hsummary, State.core_modCore]
  simp only [hunit]

end

end

/-! ## The clauses -/

theorem Core.unit_restarted (k : Core) (u : Nat) : k.restarted.unit u = { queue := [], exec := [] } := Vector.getElem_replicate ..

theorem Core.dmaq_restarted (k : Core) (q : QId) : k.restarted.dmaq[q] = { queue := [], run := [], halted := false } :=
  Vector.getElem_replicate ..

theorem State.ctx_resetDone (s : State) (c : CoreId) (x : CtxId) : (s.resetDone c x).ctx c x = (s.ctx c x).resetEnded := by
  rw [State.resetDone_eq, State.ctx_setPg, State.ctx_modCtx]

theorem State.ctx_resetDone_other (s : State) (c : CoreId) {x y : CtxId} (h : y ≠ x) : (s.resetDone c x).ctx c y = s.ctx c y := by
  rw [State.resetDone_eq, State.ctx_setPg, State.ctx_modCtx_other _ _ _ _ _ _ (.inr h)]

theorem State.core_resetDone_other (s : State) {c d : CoreId} (x : CtxId) (h : d ≠ c) : (s.resetDone c x).core d = s.core d := by
  rw [State.resetDone_eq, State.core_setPg, State.modCtx, State.core_modCore_other _ _ _ _ h]

theorem State.pg_resetDone (s : State) (c : CoreId) (x : CtxId) {p : Page} {o : Nat} (ho : o < 0x1000) :
    (s.resetDone c x).pg p o = if p = .ctx c x ∧ o = CTX_HALT then 0xFFFE else s.pg p o := by
  rw [State.resetDone_eq, State.pg_setPg _ _ _ _ _ _ (by decide) ho, State.pg_modCtx]

/-- A register that a core reset leaves is not STO_INIT of the core. -/
theorem ne_stoInit {c : CoreId} {p : Page} {o : Nat} (h : p.core? ≠ some c ∨ o < 0x100) : p ≠ .sto c ∨ o ≠ STO_INIT := by
  rw [← not_and_or]
  rintro ⟨rfl, rfl⟩
  exact h.elim (· rfl) (by decide)

/-- Settles O43: a context with nothing in flight is reset by the settling that follows; a core is cut off and cleared when no transaction
is in flight, and else only stops. -/
theorem resets : Obligations.Resets := by
  refine ⟨fun fn c x s hr => ⟨fun h => ?stopped, fun hf hres => ?begins, fun hf hcalm hw hb hh hq => ?idle⟩,
    fun fn c s hr => ⟨fun h => ?again, fun hres ht => ?ends, fun hres ht => ?inFlight⟩⟩
  case stopped => rw [exec_contextReset hr, State.resetCtx_of_stopped h]
  case begins =>
    rw [exec_contextReset hr, State.resetCtx_of_running hf hres]
    rfl
  case idle =>
    refine ⟨_, (exec_contextReset hr x).trans (congrArg _ (State.resetCtx_of_idle hf hcalm hw hb hh hq)), ?_, ?_, ?_, ?_, ?_,
      fun p o ho hne => ?_, rfl, rfl, fun y hy => ?_, fun d hd => ?_⟩
    · rw [State.ctx_resetDone, Ctx.cur_resetEnded]
    · rw [State.ctx_resetDone]; rfl
    · rw [State.ctx_resetDone]; rfl
    · rw [State.ctx_resetDone]; rfl
    · rw [State.pg_resetDone _ _ _ (by decide), if_pos ⟨rfl, rfl⟩]
    · rw [State.pg_resetDone _ _ _ ho, if_neg (not_and_or.2 hne), State.pg_modCtx]
    · rw [State.ctx_resetDone_other _ _ hy, State.ctx_modCtx_other _ _ _ _ _ _ (.inr hy)]
    · rw [State.core_resetDone_other _ _ hd, State.modCtx, State.core_modCore_other _ _ _ _ hd]
  case again => rw [exec_coreReset hr, State.resetCore_of_resetting h]
  case ends =>
    have hcore : (s.modCore c Core.resetBegun).core c = (s.core c).resetBegun := State.core_modCore ..
    have hruns : (s.modCore c Core.resetBegun).runningSegs c = s.runningSegs c :=
      State.runningSegs_modCore rfl fun u => by rw [Core.unit_resetBegun]
    have hsettle : (s.modCore c Core.resetBegun).settle c = (s.modCore c Core.resetBegun).coreResetDone c :=
      State.settle_of_resetting (by rw [hcore]; rfl) (by rw [hcore]; exact ht)
    have hdone : exec (.coreReset fn c) s = .next ((s.modCore c Core.resetBegun).coreResetDone c) :=
      (exec_coreReset hr).trans (congrArg _ ((State.resetCore_of_running hres).trans hsettle))
    refine ⟨_, hdone, ?_, ?_, ?_, ?_, fun u => ?units, fun q => ?queues, fun p o hp hlo ho hinit => ?block, State.pg_coreResetDone_init,
      fun l => State.rafArr_coreRestart l, fun u e i hu he hi => ?lofts, fun a ha hout => ?bytes,
      Restarts.coreResetDone.mgmt.trans State.mgmt_cutOff, Restarts.coreResetDone.host.trans State.host_cutOff, fun hidle => ?idle⟩
    · rw [State.core_coreResetDone]; rfl
    · rw [State.core_coreResetDone]; rfl
    · rw [State.core_coreResetDone]; rfl
    · rw [State.core_coreResetDone]; rfl
    case units =>
      rw [State.core_coreResetDone, Core.unit_restarted]
      exact ⟨rfl, rfl⟩
    case queues =>
      rw [State.core_coreResetDone, Core.dmaq_restarted]
      exact ⟨rfl, rfl, rfl⟩
    case block =>
      have hpage : p ≠ .pkg := by rintro rfl; cases hp
      rw [State.pg_coreResetDone ho (.inl hpage) hinit, if_pos ⟨hp, hlo⟩]
    case lofts =>
      refine ⟨by rw [State.loftAt_coreResetDone c hu he hi, if_pos rfl], fun d hd => ?_⟩
      rw [State.loftAt_coreResetDone d hu he hi, if_neg hd]
      rfl
    case bytes =>
      rw [Restarts.coreResetDone.mem]
      exact State.byte_cutOff_outside ha (by rw [hruns]; exact hout)
    case idle =>
      have hkept : (s.modCore c Core.resetBegun).cutOff c = s.modCore c Core.resetBegun := by
        refine State.cutOff_of_idle ?_
        rw [hcore]
        exact hidle.imp_right fun h u => by rw [Core.unit_resetBegun]; exact h u
      refine ⟨?_, fun p o ho hblock hline => ?_, fun d hd => ?_⟩
      · rw [Restarts.coreResetDone.mem, hkept]
        rfl
      · rw [State.pg_coreResetDone ho hline (ne_stoInit hblock), if_neg, hkept, State.pg_modCore]
        rintro ⟨hp, hlo⟩
        exact hblock.elim (· hp) (Nat.not_lt.2 hlo)
      · rw [State.core_coreResetDone_other hd, hkept, State.core_modCore_other _ _ _ _ hd]
  case inFlight =>
    have hcore : (s.modCore c Core.resetBegun).core c = (s.core c).resetBegun := State.core_modCore ..
    have hon : ((s.modCore c Core.resetBegun).core c).resetting = true := by rw [hcore]; rfl
    have hsettle : (s.modCore c Core.resetBegun).settle c = s.modCore c Core.resetBegun :=
      State.settle_of_inFlight hon (by rw [hcore]; exact ht)
    refine ⟨_, (exec_coreReset hr).trans (congrArg _ ((State.resetCore_of_running hres).trans hsettle)), hon, ?_, ?_, ?_, fun u => ?_,
      exec_nop_of_resetting hon, rfl⟩
    · rw [hcore]; rfl
    · rw [hcore]; rfl
    · rw [hcore]; rfl
    · rw [hcore, Core.unit_resetBegun]
      exact ⟨rfl, rfl⟩

end Sys2Proof.Machine
end

section
/-! The end of waits, the deadlock detector, the host's signal and the debug address (R302 to R310, R315, R319, R321). -/

namespace Sys2Proof.Machine
open Sys2Proof

/-! ## Waits that end (R302, R304, R305, R315) -/

section
variable {s : State} {c : CoreId} {x : CtxId}

theorem exec_waiterReady (hup : s.coreUp c = true) (x : CtxId) : exec (.waiterReady c x) s = .next (s.waiterReady c x) :=
  congrArg Host.Outcome.next (if_pos hup)

theorem exec_syncTimeout (hup : s.coreUp c = true) (x : CtxId) : exec (.syncTimeout c x) s = .next (s.waitTimeout c x) :=
  congrArg Host.Outcome.next (if_pos hup)

theorem exec_deadlock (hup : s.coreUp c = true) : exec (.deadlock c) s = .next (s.deadlock c) :=
  congrArg Host.Outcome.next (if_pos hup)

theorem State.waiterReady_of_released (hhold : (s.ctx c x).hold = .released) (hcur : (s.ctx c x).cur = .wait) :
    s.waiterReady c x = s.unholdCtx c x := if_pos ⟨hhold, hcur⟩

theorem State.ctx_unholdCtx : (s.unholdCtx c x).ctx c x = { (s.ctx c x).go .ready with hold := .free } := State.ctx_modCtx ..

/-- The record of a wait whose time is out, with the count found (R304). -/
def Wait.timeoutRec (w : Wait) (c : CoreId) (cnt : Nat) : Rec :=
  mkRec 0x0202 (opcode w.job.cmd + w.vid.toNat <<< 8 + w.kind.code <<< 16 + w.line.val <<< 19 + w.tclass.val <<< 23)
    (w.word + c.val <<< 24) cnt w.n

/-- The table without a wait whose time is out, which is counted. -/
def State.timedOut (s : State) (c : CoreId) (w : Wait) : State := (s.dropWaits c [w]).bump (.sync c) 4 1

/-- The context of a wait whose time is out has found SYNC_TIMEOUT. -/
def State.foundTimeout (s : State) (c : CoreId) (x : CtxId) (w : Wait) (cnt : Nat) : State :=
  (s.foundFault c x (w.timeoutRec c cnt) w.job.off (some w.job.cmd)).settle c

section
variable {w : Wait} (hw : (s.core c).waitOf x = some w)
include hw

theorem State.waitTimeout_of_running (h : w.remain ≠ some 0 ∨ (s.ctx c x).run = .frozen) : s.waitTimeout c x = s := by
  simp only [State.waitTimeout, hw]
  exact if_pos (by simpa using h)

theorem State.waitTimeout_of_out (h0 : w.remain = some 0) (hrun : (s.ctx c x).run ≠ .frozen) : s.waitTimeout c x =
    let isLine := w.kind == .barrier || w.kind == .rerun
    let d := if isLine then (s.timedOut c w).leaveLine c w.line else (s.timedOut c w).rerunQueue c w.word true
    (if w.kind = .preWait then d else d.retire c w.job.uid).foundTimeout c x w
      (if isLine then s.missing w.line else (s.syncAt c w.word).count) := by
  simp only [State.waitTimeout, hw]
  exact if_neg (by simp [h0, hrun])

/-- The release loop of the word runs, with its tmo bit set (R305). -/
theorem State.waitTimeout_of_preWait (h0 : w.remain = some 0) (hrun : (s.ctx c x).run ≠ .frozen) (hk : w.kind = .preWait) :
    s.waitTimeout c x = ((s.timedOut c w).rerunQueue c w.word true).foundTimeout c x w (s.syncAt c w.word).count := by
  rw [State.waitTimeout_of_out hw h0 hrun]
  simp [hk]

theorem State.waitTimeout_of_wait (h0 : w.remain = some 0) (hrun : (s.ctx c x).run ≠ .frozen) (hk : w.kind = .wait) : s.waitTimeout c x =
    (((s.timedOut c w).rerunQueue c w.word true).retire c w.job.uid).foundTimeout c x w (s.syncAt c w.word).count := by
  rw [State.waitTimeout_of_out hw h0 hrun]
  simp [hk]

/-- The core leaves the line (R315). -/
theorem State.waitTimeout_of_line (h0 : w.remain = some 0) (hrun : (s.ctx c x).run ≠ .frozen)
    (hk : w.kind = .barrier ∨ w.kind = .rerun) : s.waitTimeout c x =
      (((s.timedOut c w).leaveLine c w.line).retire c w.job.uid).foundTimeout c x w (s.missing w.line) := by
  rw [State.waitTimeout_of_out hw h0 hrun]
  obtain hk | hk := hk <;> simp [hk]

end

end

/-! ## The deadlock detector (R309, R310) -/

/-- What a context waits for, as the record of a deadlock shows it (R310). -/
def Core.waitInfo (k : Core) (x : CtxId) : W32 :=
  match k.waitOf x with
  | some w => w32 ((if w.kind = .barrier ∨ w.kind = .rerun then w.line.val else w.word) + w.kind.code <<< 24)
  | none => 0

/-- The record of a deadlock. -/
def Core.deadlockRec (k : Core) : Rec :=
  { code := 0x0203, i0 := k.waitInfo 0, i1 := k.waitInfo 1, i2 := k.waitInfo 2, i3 := k.waitInfo 3 }

section
variable {s : State} {c : CoreId}

theorem State.deadlock_of_fired (h : (s.core c).dlkFired = true) : s.deadlock c = s := if_pos (.inr (.inr h))

theorem State.deadlock_of_due (hw : s.pg (.sync c) SYNC_DLK_WINDOW ≠ 0) (hd : (s.pg (.sync c) SYNC_DLK_WINDOW).toNat ≤ (s.core c).dlk)
    (hf : (s.core c).dlkFired = false) : s.deadlock c =
      ((s.modCore c fun k => { k with dlkFired := true }).bump (.sync c) 6 1).record (.sync c) (s.core c).deadlockRec := by
  refine if_neg ?_
  rintro (h0 | hlt | hon)
  · exact hw (BitVec.eq_of_toNat_eq h0)
  · exact Nat.not_lt.2 hd hlt
  · exact Bool.false_ne_true (hf.symm.trans hon)

/-- A code recorded in a page: its details, and its raw bit. -/
theorem State.pg_record_info (p : Page) (hp : p ≠ .pkg) (r : Rec) : (s.record p r).pg p PG_ERR_CODE = w32 r.code.toNat ∧
    (s.record p r).pg p PG_ERR_INFO0 = r.i0 ∧ (s.record p r).pg p (PG_ERR_INFO0 + 4) = r.i1 ∧
    (s.record p r).pg p (PG_ERR_INFO0 + 8) = r.i2 ∧ (s.record p r).pg p (PG_ERR_INFO0 + 12) = r.i3 := by
  refine ⟨?_, ?_, ?_, ?_, ?_⟩
  all_goals
    rw [State.pg_record s p p r _ (by decide) (.inr (by decide)) (.inl hp), State.pg_putCode _ _ _ _ _ (by decide)]
    simp [PG_ERR_INFO0, PG_ERR_CODE]

theorem State.bit_record (p : Page) (hp : p ≠ .pkg) (r : Rec) : bit ((s.record p r).pg p PG_EVT_RAW) EVT_ERR = true := by
  rw [State.record, (Delivered.event (s.putCode p r) p EVT_ERR).pg p PG_EVT_RAW (by decide) (.inl hp), State.pg_setField_same]
  exact bit_putBits_bn _ EVT_ERR true (by decide)

/-- The four details of the record of a deadlock are what the four contexts wait for. -/
theorem State.pg_record_deadlock (k : Core) (x : CtxId) :
    (s.record (.sync c) k.deadlockRec).pg (.sync c) (PG_ERR_INFO0 + 4 * x.val) = k.waitInfo x := by
  obtain ⟨-, h0, h1, h2, h3⟩ := s.pg_record_info (.sync c) nofun k.deadlockRec
  match x with
  | 0 => exact h0
  | 1 => exact h1
  | 2 => exact h2
  | 3 => exact h3

theorem State.record_mem (p : Page) (r : Rec) : (s.record p r).mem = s.mem := by rw [State.record_frame]

theorem State.bump_mem (p : Page) (i n : Nat) : (s.bump p i n).mem = s.mem := by rw [State.bump_frame]

end

/-! ## The debug address and the host's signal (R308, R319) -/

theorem exec_syncHostSigWrite {s : State} {fn : FnId} {c : CoreId} (h : s.reaches fn c = true) (n : W32) :
    exec (.syncHostSigWrite fn c n) s = .next (s.hostSignal c n) := congrArg Host.Outcome.next (if_pos h)

theorem exec_syncDbgAddrWrite {s : State} {fn : FnId} {c : CoreId} (h : s.reaches fn c = true) (v : W32) :
    exec (.syncDbgAddrWrite fn c v) s = .next (s.dbgLatch c v) := congrArg Host.Outcome.next (if_pos h)

/-- A counter that runs counts, and stays at its largest value. -/
theorem State.pg64_bump {s : State} {p : Page} {i n : Nat} (hi : i < 24) (hrun : bit (s.pg p PG_CNT_CTRL) 0 = true) (hn : n ≠ 0) :
    (s.bump p i n).pg64 p (PG_CNT i) = min (s.pg64 p (PG_CNT i) + n) 0xFFFF_FFFF_FFFF_FFFF := by
  rw [State.bump, if_pos (by simp [hrun, hn]), State.pg64_setPg64_same _ _ (by simp only [PG_CNT]; omega) (by omega)]

section
variable {s : State} {c : CoreId} {v : W32}

/-- The debug address is latched, and the operation counted. -/
def State.dbgNamed (s : State) (c : CoreId) (v : W32) : State := (s.setPg (.sync c) SYNC_DBG_ADDR (w32 (bits v 0 24))).bump (.sync c) 0 1

theorem State.dbgLatch_eq : s.dbgLatch c v =
    (((s.dbgNamed c v).setPg (.sync c) SYNC_DBG_LO ((s.stoWordAt c (bits v 0 24)).data.setWidth 32)).setPg (.sync c) SYNC_DBG_HI
      (((s.stoWordAt c (bits v 0 24)).data >>> 32).setWidth 32)).setPg (.sync c) SYNC_DBG_WAIT
        (dbgWait ((s.core c).queueOn (bits v 0 24)) (s.stoWordAt c (bits v 0 24))) := by
  simp only [State.dbgLatch, State.core_setPg, State.countSync, State.core_bump]
  rfl

theorem State.dbgLatch_frame : s.dbgLatch c v = { s with regs := (s.dbgLatch c v).regs } := by
  rw [State.dbgLatch_eq]
  exact regsOnly_trans (regsOnly_trans (regsOnly_trans (regsOnly_trans (State.setPg_frame ..) (State.bump_frame ..))
    (State.setPg_frame ..)) (State.setPg_frame ..)) (State.setPg_frame ..)

/-- The registers after the latch, one by one. -/
theorem State.pg_dbgLatch {p : Page} {o : Nat} (ho : o < 0x1000) : (s.dbgLatch c v).pg p o =
    if p = .sync c ∧ o = SYNC_DBG_WAIT then dbgWait ((s.core c).queueOn (bits v 0 24)) (s.stoWordAt c (bits v 0 24))
    else if p = .sync c ∧ o = SYNC_DBG_HI then ((s.stoWordAt c (bits v 0 24)).data >>> 32).setWidth 32
    else if p = .sync c ∧ o = SYNC_DBG_LO then (s.stoWordAt c (bits v 0 24)).data.setWidth 32
    else (s.dbgNamed c v).pg p o := by
  rw [State.dbgLatch_eq, State.pg_setPg _ _ _ _ _ _ (by decide) ho, State.pg_setPg _ _ _ _ _ _ (by decide) ho,
    State.pg_setPg _ _ _ _ _ _ (by decide) ho]

theorem State.pg_dbgNamed {p : Page} {o : Nat} (ho : o < 0x1000) (hcnt : ¬(p = .sync c ∧ (o = PG_CNT 0 ∨ o = PG_CNT 0 + 4))) :
    (s.dbgNamed c v).pg p o = if p = .sync c ∧ o = SYNC_DBG_ADDR then w32 (bits v 0 24) else s.pg p o := by
  rw [State.dbgNamed, State.pg_bump_other _ _ _ _ _ _ (by decide) ho hcnt, State.pg_setPg _ _ _ _ _ _ (by decide) ho]

/-- SYNC_OPS counts the latch (R321). -/
theorem State.pg64_dbgLatch (hrun : bit (s.pg (.sync c) PG_CNT_CTRL) 0 = true) : (s.dbgLatch c v).pg64 (.sync c) (PG_CNT 0) =
    min (s.pg64 (.sync c) (PG_CNT 0) + 1) 0xFFFF_FFFF_FFFF_FFFF := by
  have hlatch (o : Nat) (ho : o < 0x100) : (s.dbgLatch c v).pg (.sync c) o = (s.dbgNamed c v).pg (.sync c) o := by
    rw [State.pg_dbgLatch (by omega)]
    simp only [SYNC_DBG_WAIT, SYNC_DBG_HI, SYNC_DBG_LO]
    rw [if_neg (by omega), if_neg (by omega), if_neg (by omega)]
  have haddr (o : Nat) (ho : o < 0x100) : (s.setPg (.sync c) SYNC_DBG_ADDR (w32 (bits v 0 24))).pg (.sync c) o = s.pg (.sync c) o :=
    State.pg_setPg_off _ _ _ _ _ _ (by decide) (by omega) (by simp only [SYNC_DBG_ADDR]; omega)
  have hbump := State.pg64_bump (s := s.setPg (.sync c) SYNC_DBG_ADDR (w32 (bits v 0 24))) (p := .sync c) (i := 0) (n := 1) (by decide)
    (by rw [haddr _ (by decide)]; exact hrun) (by decide)
  rw [State.pg64, hlatch _ (by decide), hlatch _ (by decide)]
  refine hbump.trans ?_
  rw [State.pg64, haddr _ (by decide), haddr _ (by decide)]
  rfl

end

/-! ## The clauses -/

/-- Settles O39: each wait that ends by the case of its kind, the deadlock by its record, the debug address register by register. -/
theorem waitsEnd : Obligations.WaitsEnd := by
  refine ⟨fun c s hup => ⟨fun x hhold hcur => ?released, fun x w hw => ⟨fun h => ?early, fun h0 hrun => ⟨fun hk => ?preWait,
      fun hk => ?wait, fun hk => ?line⟩⟩, fun hwin hdue hfired => ?deadlock, fun hfired => ?once⟩,
    fun fn c s hr => ⟨?nothing, fun n hn => ?signal, fun v => ?debug⟩⟩
  case released =>
    refine ⟨_, (exec_waiterReady hup x).trans (congrArg _ (State.waiterReady_of_released hhold hcur)), ?_, ?_, rfl,
      fun y hy => State.ctx_modCtx_other _ _ _ _ _ _ (.inr hy), fun d hd => State.core_modCore_other _ _ _ _ hd⟩
    · rw [State.ctx_unholdCtx]
      exact Ctx.cur_go _ (by decide)
    · rw [State.ctx_unholdCtx]
  case early => rw [exec_syncTimeout hup, State.waitTimeout_of_running hw h]
  case preWait => exact (exec_syncTimeout hup x).trans (congrArg _ (State.waitTimeout_of_preWait hw h0 hrun hk))
  case wait => exact (exec_syncTimeout hup x).trans (congrArg _ (State.waitTimeout_of_wait hw h0 hrun hk))
  case line => exact (exec_syncTimeout hup x).trans (congrArg _ (State.waitTimeout_of_line hw h0 hrun hk))
  case deadlock =>
    refine ⟨_, (exec_deadlock hup).trans (congrArg _ (State.deadlock_of_due hwin hdue hfired)), ?fired, ?code,
      fun x => ⟨fun w hw => ?waits, fun hnone => ?idle⟩, State.bit_record (.sync c) nofun _, ?table, ?mem⟩
    case fired => rw [State.core_record, State.core_bump, State.core_modCore]
    case code => exact (State.pg_record_info (.sync c) nofun _).1
    case waits => rw [State.pg_record_deadlock, Core.waitInfo, hw]
    case idle => rw [State.pg_record_deadlock, Core.waitInfo, hnone]
    case table => rw [State.core_record, State.core_bump, State.core_modCore]
    case mem => rw [State.record_mem, State.bump_mem]; rfl
  case once => rw [exec_deadlock hup, State.deadlock_of_fired hfired]
  case nothing => exact (exec_syncHostSigWrite hr 0).trans (congrArg _ (if_pos rfl))
  case signal => exact (exec_syncHostSigWrite hr n).trans (congrArg _ (if_neg hn))
  case debug =>
    refine ⟨_, exec_syncDbgAddrWrite hr v, State.dbgLatch_frame, ?addr, ?low, ?high, ?queue, State.pg64_dbgLatch,
      fun p o ho hne => ?other⟩
    case addr =>
      rw [State.pg_dbgLatch (by decide), if_neg (not_and_of_not_right _ (by decide)), if_neg (not_and_of_not_right _ (by decide)),
        if_neg (not_and_of_not_right _ (by decide)), State.pg_dbgNamed (by decide) (not_and_of_not_right _ (by decide))]
      exact if_pos ⟨rfl, rfl⟩
    case low =>
      rw [State.pg_dbgLatch (by decide), if_neg (not_and_of_not_right _ (by decide)), if_neg (not_and_of_not_right _ (by decide))]
      exact if_pos ⟨rfl, rfl⟩
    case high =>
      rw [State.pg_dbgLatch (by decide), if_neg (not_and_of_not_right _ (by decide))]
      exact if_pos ⟨rfl, rfl⟩
    case queue =>
      rw [State.pg_dbgLatch (by decide)]
      exact if_pos ⟨rfl, rfl⟩
    case other =>
      rw [State.pg_dbgLatch ho, if_neg (by tauto), if_neg (by tauto), if_neg (by tauto), State.pg_dbgNamed ho (by tauto), if_neg (by tauto)]

end Sys2Proof.Machine
end

section
/-! A DMA engine's bc (R336, R337): the queue whose transaction starts next, and the tag that it takes. -/

namespace Sys2Proof.Machine
open Sys2Proof

/-! ## The next queue (R337) -/

/-- Queue i of the turn after the queue that started last. -/
def State.turnQ (s : State) (c : CoreId) (i : Nat) : QId := Fin.ofNat 8 ((s.core c).lastQ.val + 1 + i)

/-- The queue has a transaction ready and may take a tag. -/
def State.mayStart (s : State) (c : CoreId) (q : QId) : Bool := (s.ready c q).isSome && s.mayTag c q

theorem State.dmaNext_eq_none (s : State) (c : CoreId) : s.dmaNext c = none ↔ ∀ i < 8, s.mayStart c (s.turnQ c i) = false := by
  simp [State.dmaNext, State.mayStart, State.turnQ, List.find?_map, Bool.and_eq_false_imp]

theorem State.dmaNext_eq_some {s : State} {c : CoreId} {i : Nat} (hi : i < 8) (hfirst : ∀ k < i, s.mayStart c (s.turnQ c k) = false)
    (hmay : s.mayStart c (s.turnQ c i) = true) : s.dmaNext c = some (s.turnQ c i) := by
  have h : (List.range 8).find? (fun i => s.mayStart c (s.turnQ c i)) = some i :=
    List.find?_range_eq_some.2 ⟨hmay, List.mem_range.2 hi, fun k hk => by simp [hfirst k hk]⟩
  rw [State.dmaNext, List.find?_map]
  exact congrArg (Option.map (s.turnQ c)) h

/-- Ready queues that may not take a tag are counted. -/
def State.countNoTag (s : State) (c : CoreId) : State :=
  s.bump (.sto c) 8 ((List.finRange 8).filter fun q => (s.ready c q).isSome && !s.mayTag c q).length

theorem State.dmaIssue_of_none {s : State} {c : CoreId} (h : ∀ i < 8, s.mayStart c (s.turnQ c i) = false) :
    s.dmaIssue c = s.countNoTag c := by
  rw [State.dmaIssue, (s.dmaNext_eq_none c).2 h]
  rfl

theorem State.dmaIssue_of_start {s : State} {c : CoreId} {i : Nat} {r t : DmaRun} {fresh : Bool} {body : TxnBody} (hi : i < 8)
    (hfirst : ∀ k < i, s.mayStart c (s.turnQ c k) = false) (hmay : s.mayStart c (s.turnQ c i) = true)
    (hready : s.ready c (s.turnQ c i) = some (r, fresh, body, t)) :
    s.dmaIssue c = (s.countNoTag c).startTxn c (s.turnQ c i) r fresh body t := by
  rw [State.dmaIssue, State.dmaNext_eq_some hi hfirst hmay]
  simp only [hready]
  rfl

/-! ## The lowest free tag (R336) -/

/-- Fewer transactions than tags leave one free. -/
theorem Core.exists_free_tag {k : Core} (h : k.txns.length < 512) : ∃ t < 512, ∀ x ∈ k.txns, x.tag ≠ t := by
  have hcard : (k.txns.map (·.tag)).toFinset.card < (Finset.range 512).card :=
    lt_of_le_of_lt (List.toFinset_card_le _) (by simpa using h)
  obtain ⟨t, ht, hfree⟩ := Finset.exists_mem_notMem_of_card_lt_card hcard
  exact ⟨t, Finset.mem_range.1 ht, by simpa using hfree⟩

theorem Core.freeTag_spec {k : Core} (h : k.txns.length < 512) :
    k.freeTag < 512 ∧ (∀ x ∈ k.txns, x.tag ≠ k.freeTag) ∧ ∀ t < k.freeTag, ∃ x ∈ k.txns, x.tag = t := by
  obtain ⟨t, ht, hfree⟩ := Core.exists_free_tag h
  have hsome : ((List.range 512).find? fun t => !(k.txns.any fun x => x.tag == t)).isSome := by
    simpa using ⟨t, ht, hfree⟩
  obtain ⟨n, hn⟩ := Option.isSome_iff_exists.1 hsome
  have htag : k.freeTag = n := by rw [Core.freeTag, hn]; rfl
  rw [htag]
  simpa [List.find?_range_eq_some, and_left_comm] using hn

/-- Settles O30: the turns are searched in order; of 512 tags fewer than 512 transactions leave one free. -/
theorem dmaTransactionStarts : Obligations.DmaTransactionStarts := by
  refine ⟨?_, fun k hk => Core.freeTag_spec hk⟩
  intro c s hup p b may
  have hexec : exec (.dmaTransactionStart c) s = .next ((p.dmaIssue c).settle c) := by
    show Host.Outcome.next _ = _
    rw [if_pos hup]
    rfl
  refine ⟨fun hnone => ?_, fun i r fresh body t hi hfirst hmay hready => ?_⟩
  · rw [hexec, State.dmaIssue_of_none hnone]
    rfl
  · rw [hexec, State.dmaIssue_of_start hi hfirst hmay hready]
    rfl

end Sys2Proof.Machine
end

section
/-! DMA transactions take effect, commands complete, halted queues resume (R25, R103, R333, R335, R338, R339). -/

namespace Sys2Proof.Machine
open Sys2Proof

/-! ## Transactions (R25, R335, R339) -/

/-- A WR or SIG of an RSIGNAL: the peer acknowledges it. -/
def TxnBody.toPeer : TxnBody → Bool
  | .wr .. | .sg _ => true
  | _ => false

/-- A transaction takes effect: it waits for no answer from outside, and it may write. -/
def State.mayEnd (s : State) (c : CoreId) (x : Txn) : Bool := !x.body.toPeer && x.cel.isNone && s.mayWrite1 c x

/-- The transaction takes effect and frees its tag; the data of a read stay with its command (R335). -/
def State.endTxn (s : State) (c : CoreId) (x : Txn) (tag : Nat) : State :=
  (((s.applyTxn c x).keepData c x (s.txnData x)).dropTxn c tag).convertRun c x.q x.uid

section
variable {s : State} {c : CoreId} {x : Txn}

theorem State.txnDone_of_found {tag : Nat} (h : (s.core c).txns.find? (fun t => t.tag == tag) = some x) :
    s.txnDone c tag = if s.mayEnd c x then s.endTxn c x tag else s := by
  have hstay : s.mayEnd c x = !(x.body.toPeer || x.cel.isSome || !s.mayWrite1 c x) := by
    simp [State.mayEnd]
  rw [State.txnDone, h, hstay]
  simp only [Bool.not_eq_true', ← ite_not (p := _ = true), Bool.not_eq_true]
  rfl

theorem exec_dmaTransactionComplete (hup : s.coreUp c = true) {tag : TagId}
    (h : (s.core c).txns.find? (fun t => t.tag == tag.val) = some x) :
    exec (.dmaTransactionComplete c tag) s = .next ((if s.mayEnd c x then s.endTxn c x tag.val else s).settle c) := by
  rw [← State.txnDone_of_found h]
  exact congrArg Host.Outcome.next (if_pos hup)

/-! ## Commands (R103, R338) -/

/-- The oldest command of a queue completes. -/
def DmaRun.over (r : DmaRun) (txns : List Txn) : Bool := r.started && !r.withheld && !(txns.any fun t => t.uid == r.job.uid)

theorem DmaRun.over_iff (r : DmaRun) (txns : List Txn) :
    r.over txns = true ↔ r.started = true ∧ r.withheld = false ∧ ∀ t ∈ txns, t.uid ≠ r.job.uid := by
  simp [DmaRun.over, and_assoc]

theorem State.dmaDone_of_run {q : QId} {r : DmaRun} {rest : List DmaRun} (h : ((s.core c).dmaq[q]).run = r :: rest) :
    s.dmaDone c q = if r.over (s.core c).txns then
      (((s.modCore c fun k => k.modQueue q fun d => { d with run := rest }).moveFull c r).complete c r.job).settle c else s := by
  rw [State.dmaDone]
  simp only [h]
  rfl

theorem exec_dmaCommandComplete (hup : s.unitUp c = true) (q : QId) : exec (.dmaCommandComplete c q) s = .next (s.dmaDone c q) :=
  congrArg Host.Outcome.next (if_pos hup)

/-! ## Halted queues (R333) -/

theorem exec_dmaQueueResume {fn : FnId} (h : s.reaches fn c = true) (q : QId) :
    exec (.dmaQueueResume fn c q) s = .next (s.resumeQueue c q) := congrArg Host.Outcome.next (if_pos h)

end

/-- Settles O31: a transaction takes effect if it may, a queue's oldest command completes if it is over, a halted queue resumes. -/
theorem dmaCompletions : Obligations.DmaCompletions := by
  intro c s
  refine ⟨fun tag x hup hx => ?txn, fun q r rest hup hrun => ?command, fun fn q hreach => ⟨fun hhalt => ?resume, fun hrun => ?runs⟩⟩
  case txn =>
    have hfree : s.mayEnd c x = (!(match x.body with
        | .wr .. | .sg _ => true
        | _ => false) && x.cel.isNone && orderFree c x (s.core c).txns && (match s.remoteDst c x.body with
        | some d => !s.signalAhead c d (x.sent.getD (s.core c).nextPost)
        | none => true)) := by
      rw [State.mayEnd, State.mayWrite1, Bool.and_assoc _ (orderFree c x _)]
      rfl
    rw [exec_dmaTransactionComplete hup hx]
    refine ⟨fun h => ?_, fun h => ?_⟩
    · rw [if_pos (hfree.trans h)]
      rfl
    · rw [if_neg (Bool.eq_false_iff.1 (hfree.trans h))]
  case command =>
    rw [exec_dmaCommandComplete hup, State.dmaDone_of_run hrun]
    refine ⟨fun hs hw ht => ?_, fun h => ?_⟩
    · rw [if_pos ((r.over_iff _).2 ⟨hs, hw, ht⟩)]
      refine ⟨fun hfull => ?_, fun n first hfull => ?_⟩ <;> rw [State.moveFull, hfull]
    · refine congrArg Host.Outcome.next (if_neg fun hover => ?_)
      obtain ⟨hs, hw, ht⟩ := (r.over_iff _).1 hover
      obtain h | h | ⟨t, hmem, h⟩ := h
      · exact Bool.false_ne_true (h.symm.trans hs)
      · exact Bool.false_ne_true (hw.symm.trans h)
      · exact ht t hmem h
  case resume => exact (exec_dmaQueueResume hreach q).trans (congrArg _ (if_pos hhalt))
  case runs => exact (exec_dmaQueueResume hreach q).trans (congrArg _ (if_neg (Bool.eq_false_iff.1 hrun)))

end Sys2Proof.Machine
end

section
/-! Cellar ports (R332, R333, R343): responses, requests that time out, the loss of a port's link. -/

namespace Sys2Proof.Machine
open Sys2Proof

/-! ## Responses (R332, R343) -/

/-- Two requests of one port share a line, one of them writes, and the first was granted first (R343). -/
theorem State.grantedAhead_iff (p : CelId) (s : State) (c : CoreId) (x : Txn) : s.grantedAhead p c x = true ↔
    ∃ (d : CoreId) (y : Txn) (n l : Nat), y ∈ (s.core d).txns ∧ (d ≠ c ∨ y.tag ≠ x.tag) ∧ y.cel = some p ∧ y.turn = some n ∧
      (∀ m, x.turn = some m → n < m) ∧ ((s.celAccess c x).2 = true ∨ (s.celAccess d y).2 = true) ∧ l ∈ (s.celAccess c x).1 ∧
      l ∈ (s.celAccess d y).1 := by
  simp only [State.grantedAhead, List.any_eq_true, Bool.and_eq_true, Bool.or_eq_true, bne_iff_ne, beq_iff_eq, Option.any_eq_true,
    Option.all_eq_true, decide_eq_true_eq, List.contains_iff_mem, List.mem_finRange, true_and]
  constructor
  · rintro ⟨d, y, hy, ⟨⟨hne, hcel⟩, n, hn, hturn⟩, hwr, l, hl, hl'⟩
    exact ⟨d, y, n, l, hy, hne, hcel, hn, hturn, hwr, hl', hl⟩
  · rintro ⟨d, y, n, l, hy, hne, hcel, hn, hturn, hwr, hl', hl⟩
    exact ⟨d, y, hy, ⟨⟨hne, hcel⟩, n, hn, hturn⟩, hwr, l, hl, hl'⟩

section
variable {s : State} {c : CoreId}

theorem exec_cellarResponse (hup : s.coreUp c = true) (tag : TagId) (lines : List Nat) :
    exec (.cellarResponse c tag lines) s = .next (s.celResponse c tag.val lines) := congrArg Host.Outcome.next (if_pos hup)

theorem exec_cellarTimeout (hup : s.coreUp c = true) (tag : TagId) (lines : List Nat) :
    exec (.cellarTimeout c tag lines) s = .next ((s.celTimeout c tag.val lines).settle c) := congrArg Host.Outcome.next (if_pos hup)

theorem exec_cellarLinkDown (hup : s.pkgUp = true) (p : CelId) : exec (.cellarLinkDown p) s = .next (s.celDown p) :=
  congrArg Host.Outcome.next (if_pos hup)

variable {tag : Nat} {x : Txn} {p : CelId} (hx : (s.core c).txns.find? (fun t => t.tag == tag) = some x) (hp : x.cel = some p)
include hx hp

theorem State.celResponse_of_ahead (h : s.grantedAhead p c x = true) (lines : List Nat) : s.celResponse c tag lines = s := by
  simp [State.celResponse, hx, hp, h]

theorem State.celResponse_of_read (h : s.grantedAhead p c x = false) {ls : List Nat} (ha : s.celAccess c x = (ls, false))
    (lines : List Nat) : s.celResponse c tag lines =
      let m := s.poisonLines (ls.filter lines.contains)
      (((m.receive c x (m.txnData x)).bump (.cel p) 2 (ls.filter fun l => m.mem.poisonAt (8 * l)).length).afterRead c x).sendLeg c tag
        .data (celBay p) := by
  simp [State.celResponse, hx, hp, h, ha]

theorem State.celResponse_of_write (h : s.grantedAhead p c x = false) {ls : List Nat} (ha : s.celAccess c x = (ls, true))
    (lines : List Nat) : s.celResponse c tag lines = if s.mayWrite1 c x then
      ((s.writeNow c x).modTxn c tag fun t => { t with cel := none }).sendLeg c tag .done (celBay p) else s := by
  simp [State.celResponse, hx, hp, h, ha]

/-! ## Timeouts (R333) -/

theorem State.celTimeout_of_found (lines : List Nat) : s.celTimeout c tag lines =
    if bits (s.pg (.cel p) CEL_TIMEOUT) 0 16 = 0 ∨ (s.celAccess c x).1.filter lines.contains = [] then s
    else s.timeoutTxn p c x false ((s.celAccess c x).1.filter lines.contains) := by
  simp only [State.celTimeout, hx, hp]

end

theorem State.celTimeout_of_fetch {s : State} {c : CoreId} {tag : Nat} (h : (s.core c).txns.find? (fun t => t.tag == tag) = none)
    (lines : List Nat) : s.celTimeout c tag lines = s.fetchTimeout c lines := by
  rw [State.celTimeout, h]

/-- A command whose read has timed out arrives poisoned. -/
theorem State.fetch_of_late {s : State} {c : CoreId} {x : CtxId} {pc : Nat} (hhead : (s.ctx c x).head = none)
    (hpc : pc = (s.pg (.ctx c x) CTX_PC).toNat) (hlen : pc < (s.pg (.ctx c x) CTX_LEN).toNat)
    (hreach : ∀ i < 32, s.inReach c (s.streamAt c x pc + i) = true) (hlate : s.fetchLate c (s.streamAt c x pc) = true) :
    ∃ w, s.fetch c x = .cmd w (some (s.streamAt c x pc / 8)) := by
  subst hpc
  have hin : (List.range 32).find? (fun i => !s.inReach c (s.streamAt c x (s.pg (.ctx c x) CTX_PC).toNat + i)) = none :=
    List.find?_eq_none.2 fun i hi => by simp [hreach i (List.mem_range.1 hi)]
  simp only [State.fetch, hhead, if_neg (Nat.not_le.2 hlen), hin, hlate, if_true]
  exact ⟨_, rfl⟩

/-! ## Registers after an event (R409) -/

section
variable {s : State} {q : Page} {o : Nat} (ho : o < 0x1000) (hcnt : ¬(q = .pkg ∧ (o = PG_CNT 3 ∨ o = PG_CNT 3 + 4)))
include ho hcnt

/-- An interrupt that goes out is counted in one counter of the package page. -/
theorem State.pg_sendVector (f : FnId) (v : Nat) : (s.sendVector f v).pg q o = s.pg q o := by
  rw [State.sendVector]
  dsimp only
  split
  · rfl
  · split
    · rfl
    · exact State.pg_bump_other _ _ _ _ _ _ (by decide) ho hcnt

theorem State.pg_deliver (n : Nat) : (s.deliver n).pg q o = s.pg q o := by
  rw [State.deliver]
  split
  · exact State.pg_sendVector ho hcnt _ _
  · rfl

/-- An event changes its page's raw bits and that counter. -/
theorem State.pg_event_other {p : Page} {b : Nat} (hraw : q ≠ p ∨ o ≠ PG_EVT_RAW) : (s.event p b).pg q o = s.pg q o := by
  rw [← State.pg_setField_other s p q PG_EVT_RAW o b 1 1 (by decide) ho hraw, State.event, State.rise]
  split
  · exact State.pg_deliver ho hcnt _
  · rfl

end

/-! ## The loss of a link (R333) -/

/-- Every transaction outstanding on the port has timed out, and none waits for it. -/
def State.celLost (s : State) (p : CelId) : State :=
  let e := (List.finRange 64).foldl (fun (s : State) c =>
    (((s.core c).txns.filter fun t => t.cel == some p).foldl (fun s x => s.timeoutTxn p c x true (s.celAccess c x).1) s).settle c) s
  { e with cores := e.cores.map fun k =>
    { k with txns := k.txns.map fun t => if t.cel = some p then { t with cel := none, turn := none } else t } }

/-- The port's link reads as down. -/
def State.celUnmapped (s : State) (p : CelId) : State := (s.setField (.cel p) CEL_STAT 0 1 0).event (.cel p) EVT_STATE

section
variable {p : CelId} {s : State}

theorem State.celDown_of_down (h : bit (s.pg (.cel p) CEL_STAT) 0 = false) : s.celDown p = s := by
  simp [State.celDown, h]

theorem State.celDown_of_up (h : bit (s.pg (.cel p) CEL_STAT) 0 = true) :
    s.celDown p = (s.celLost p).celUnmapped p := by
  rw [State.celDown, h]
  rfl

end

section
variable (s : State) (p : CelId)

theorem State.celUnmapped_frame : s.celUnmapped p = { s with regs := (s.celUnmapped p).regs, host := (s.celUnmapped p).host } := by
  exact (Delivered.event (s.setField (.cel p) CEL_STAT 0 1 0) (.cel p) EVT_STATE).frame

theorem State.celSize_celUnmapped : (s.celUnmapped p).celSize p = 0 := by
  have hstat : (s.celUnmapped p).pg (.cel p) CEL_STAT = putBits (s.pg (.cel p) CEL_STAT) 0 1 0 := by
    rw [State.celUnmapped, State.pg_event _ (.cel p) (.cel p) _ _ (by decide) (.inr (by decide)) (.inl nofun), State.pg_setField_same]
  rw [State.celSize, hstat]
  exact if_neg (Bool.eq_false_iff.1 (bit_putBits_bn _ 0 false (by decide)))

theorem State.bit_celUnmapped : bit ((s.celUnmapped p).pg (.cel p) PG_EVT_RAW) EVT_STATE = true := by
  rw [State.celUnmapped, (Delivered.event _ (.cel p) EVT_STATE).pg (.cel p) PG_EVT_RAW (by decide) (.inl nofun), State.pg_setField_same]
  exact bit_putBits_bn _ EVT_STATE true (by decide)

theorem State.pg_celUnmapped {q : Page} {o : Nat} (ho : o < 0x1000) (hq : q ≠ .cel p ∨ (o ≠ CEL_STAT ∧ o ≠ PG_EVT_RAW))
    (hcnt : ¬(q = .pkg ∧ (o = PG_CNT 3 ∨ o = PG_CNT 3 + 4))) : (s.celUnmapped p).pg q o = s.pg q o := by
  rw [State.celUnmapped, State.pg_event_other ho hcnt (by tauto), State.pg_setField_other _ _ _ _ _ _ _ _ (by decide) ho (by tauto)]

end

/-- Settles O33: the lines of a request in time, late, or cut off decide what becomes of it; a link that is down maps nothing. -/
theorem cellarPorts : Obligations.CellarPorts := by
  unfold Obligations.CellarPorts
  intro lost
  refine ⟨fun a n => ?lostData, fun c tag x p lines ls s hup hx hp => ⟨fun hahead => ?late, fun hfirst ha => ?read,
    fun hfirst ha => ⟨fun hmay => ?blocked, fun hmay => ?write⟩, fun hnone => ?inTime, fun hlim hls => ?timeout⟩,
    State.grantedAhead_iff, fun c tag lines s hup hx => ?fetchTimeout, fun s c x pc hhead hpc hlen hreach hlate => ?fetch,
    fun p s hup => ⟨fun hdown => ?down, fun hlink => ?linkDown⟩⟩
  case lostData => simp [lostBytes]
  case late => rw [exec_cellarResponse hup, State.celResponse_of_ahead hx hp hahead]
  case read =>
    rw [exec_cellarResponse hup, State.celResponse_of_read hx hp hfirst ha]
    rfl
  case blocked => rw [exec_cellarResponse hup, State.celResponse_of_write hx hp hfirst ha, if_neg (Bool.eq_false_iff.1 hmay)]
  case write => rw [exec_cellarResponse hup, State.celResponse_of_write hx hp hfirst ha, if_pos hmay]
  case inTime => rw [exec_cellarTimeout hup, State.celTimeout_of_found hx hp, if_pos hnone]
  case timeout =>
    rw [exec_cellarTimeout hup, State.celTimeout_of_found hx hp, if_neg (not_or.2 ⟨hlim, hls⟩)]
    rfl
  case fetchTimeout =>
    rw [exec_cellarTimeout hup, State.celTimeout_of_fetch hx]
    rfl
  case fetch =>
    obtain ⟨l, hl, hlo, hhi⟩ := hlate
    exact State.fetch_of_late hhead hpc hlen hreach (List.any_eq_true.2 ⟨l, hl, decide_eq_true ⟨hlo, hhi⟩⟩)
  case down => rw [exec_cellarLinkDown hup, State.celDown_of_down hdown]
  case linkDown =>
    intro e d
    exact ⟨(s.celLost p).celUnmapped p, (exec_cellarLinkDown hup p).trans (congrArg _ (State.celDown_of_up hlink)),
      State.celUnmapped_frame .., State.celSize_celUnmapped .., State.bit_celUnmapped ..,
      fun q o ho hq hcnt => State.pg_celUnmapped _ _ ho hq (by tauto)⟩

end Sys2Proof.Machine
end

section
/-! Bytes put into memory under a key (R332, R334, R400): what a requester with that key sees of them, and what stays. -/

namespace Sys2Proof.Machine
open Sys2Proof

/-! ## The cellar window -/

theorem inCellar_iff (a : Nat) : inCellar a = true ↔ CEL_BASE ≤ a ∧ a < CEL_BASE + 4 * 0x100_0000_0000 := decide_eq_true_iff

/-- The window begins and ends at a multiple of a line. -/
theorem inCellar_eq_of_line {a b : Nat} (h : a / 64 = b / 64) : inCellar a = inCellar b := by
  rw [Bool.eq_iff_iff, inCellar_iff, inCellar_iff]
  simp only [CEL_BASE]
  omega

/-! ## Poison of a line -/

theorem Mem.poisonAt_forRange (n : Nat) (m : Mem) (b w : Nat) (on : Bool) :
    (forRange n (fun i m => m.setPoison (b + i) on) m).poisonAt w = if b ≤ w ∧ w < b + n then on else m.poisonAt w := by
  induction n with
  | zero => rw [if_neg (by omega)]; rfl
  | succ n ih =>
    rw [forRange_succ, Mem.poisonAt_setPoison, ih, ← ite_or]
    exact if_congr (by omega) rfl rfl

theorem Mem.poisonAt_poisonLine (m : Mem) (line w : Nat) (on : Bool) :
    (m.poisonLine line on).poisonAt w = if w / 8 = line then on else m.poisonAt w := by
  rw [Mem.poisonLine, Mem.poisonAt_forRange]
  exact if_congr (by omega) rfl rfl

@[simp] theorem Mem.feAt_poisonLine (m : Mem) (line w : Nat) (on : Bool) : (m.poisonLine line on).feAt w = m.feAt w :=
  forRange_keeps (fun m' : Mem => m'.feAt w = m.feAt w) 8 (fun i m => m.setPoison (8 * line + i) on) (fun _ _ hm => hm) m rfl

@[simp] theorem Mem.keyAt_poisonLine (m : Mem) (line n : Nat) (on : Bool) : (m.poisonLine line on).keyAt n = m.keyAt n :=
  forRange_keeps (fun m' : Mem => m'.keyAt n = m.keyAt n) 8 (fun i m => m.setPoison (8 * line + i) on) (fun _ _ hm => hm) m rfl

/-! ## What a requester sees (R334) -/

/-- What is seen of a byte depends on its line: the key, and the bytes of its block. -/
theorem Mem.see_congr {m m' : Mem} {a : Nat} (hkey : m'.keyAt (a / 64) = m.keyAt (a / 64))
    (hbyte : ∀ b, b / 64 = a / 64 → m'.byte b = m.byte b) (k : Nat) : m'.see k a = m.see k a := by
  have hblock : ((List.range 16).map fun i => m'.byte (a / 16 * 16 + i)) = (List.range 16).map fun i => m.byte (a / 16 * 16 + i) :=
    List.map_congr_left fun i hi => hbyte _ (by have := List.mem_range.1 hi; omega)
  rw [Mem.see, Mem.see, hkey, hblock, hbyte a rfl]

theorem Mem.see_of_key {m : Mem} {k a : Nat} (h : m.keyAt (a / 64) = k) : m.see k a = m.byte a :=
  if_neg (by simp [h])

@[simp] theorem Mem.keyAt_setByte (m : Mem) (a n : Nat) (v : Byte) : (m.setByte a v).keyAt n = m.keyAt n := by
  by_cases h : inCellar a <;> simp [Mem.setByte, Mem.keyAt, h]

@[simp] theorem Mem.keyAt_setBytes (l : List Byte) (m : Mem) (a n : Nat) : (m.setBytes a l).keyAt n = m.keyAt n := by
  induction l generalizing m a with
  | nil => rfl
  | cons b r ih => rw [Mem.setBytes, ih, Mem.keyAt_setByte]

/-! ## A write outside the cellar -/

theorem Mem.keyAt_writeChunk (m : Mem) (a n : Nat) (l : List (Byte × Bool)) : (m.writeChunk a l).keyAt n = m.keyAt n := by
  have h := Mem.keyAt_setBytes (l.map (·.1)) m a n
  rw [Mem.writeChunk]
  split <;> exact h

theorem Mem.poisonAt_writeChunk (m : Mem) {a w : Nat} {l : List (Byte × Bool)} (hl : l ≠ []) (hp : ∀ e ∈ l, e.2 = true) :
    (m.writeChunk a l).poisonAt w = if w = a / 8 then true else m.poisonAt w := by
  obtain ⟨e, he⟩ := List.exists_mem_of_ne_nil l hl
  have hany : l.any (·.2) = true := List.any_eq_true.2 ⟨e, he, hp e he⟩
  rw [Mem.writeChunk]
  split <;> simp [hany]

/-- Poisoned data poison every word that they touch (R400). -/
theorem Mem.poisonAt_foldChunks_of_poison (f : Nat) (m : Mem) (a w : Nat) (l : List (Byte × Bool)) (hf : l.length ≤ f)
    (hp : ∀ e ∈ l, e.2 = true) : ((splitAtBounds 8 f a l).foldl (fun m c => m.writeChunk c.1 c.2) m).poisonAt w =
      if a / 8 ≤ w ∧ 8 * w < a + l.length ∧ 0 < l.length then true else m.poisonAt w := by
  induction f generalizing m a l with
  | zero =>
    have hl := List.length_eq_zero_iff.1 (Nat.le_zero.1 hf)
    exact (if_neg (by simp [hl])).symm
  | succ f ih =>
    by_cases hl : l = []
    · subst hl
      exact (if_neg (by simp)).symm
    · have hpos := List.length_pos_iff.2 hl
      have htake : l.take (min (8 - a % 8) l.length) ≠ [] := by simp [hl]; omega
      rw [splitAtBounds_of_ne_nil hl, List.foldl_cons, ih _ _ _ (by rw [List.length_drop]; omega) fun e he => hp e (List.mem_of_mem_drop he),
        Mem.poisonAt_writeChunk _ htake fun e he => hp e (List.mem_of_mem_take he), List.length_drop, ← ite_or]
      exact if_congr (by omega) rfl rfl

section
variable (m : Mem) (k a : Nat) {l : List (Byte × Bool)} (hc : inCellar a = false)
include hc

theorem Mem.keyAt_write_outside (n : Nat) : (m.write k a l).keyAt n = m.keyAt n := by
  rw [m.write_outside k a l hc]
  exact foldl_keeps (fun m' : Mem => m'.keyAt n = m.keyAt n) _ (fun m' p hm => (m'.keyAt_writeChunk _ _ _).trans hm) _ m rfl

theorem Mem.poisonAt_write_of_poison (w : Nat) (hp : ∀ e ∈ l, e.2 = true) :
    (m.write k a l).poisonAt w = if a / 8 ≤ w ∧ 8 * w < a + l.length ∧ 0 < l.length then true else m.poisonAt w := by
  rw [m.write_outside k a l hc]
  exact Mem.poisonAt_foldChunks_of_poison _ m a w l (le_refl _) hp

end

/-! ## A write to one line of the cellar (R332, R334) -/

@[simp] theorem splitAtBounds_nil {α : Type} (g f a : Nat) : splitAtBounds g f a ([] : List α) = [] := by
  cases f <;> rfl

/-- A run that lies in one line is written as it is. -/
theorem splitAtBounds_of_line {α : Type} {g f a : Nat} {l : List α} (hl : l ≠ []) (hline : a % g + l.length ≤ g) :
    splitAtBounds g (f + 1) a l = [(a, l)] := by
  have hmin : min (g - a % g) l.length = l.length := by omega
  rw [splitAtBounds_of_ne_nil hl, hmin, List.take_length, List.drop_length, splitAtBounds_nil]

section
variable (m : Mem) (k a : Nat) {l : List (Byte × Bool)}

theorem Mem.write_line (hc : inCellar a = true) (hl : l ≠ []) (hline : a % 64 + l.length ≤ 64) :
    m.write k a l = m.writeLine k a l := by
  obtain ⟨n, hn⟩ := Nat.exists_eq_succ_of_ne_zero (List.length_pos_iff.2 hl).ne'
  rw [Mem.write, if_pos hc, hn, splitAtBounds_of_line hl hline]
  rfl

/-- The line as it stands when the bytes of a write are stored: merged with the requester's key, where the write is partial. -/
def Mem.mergeLine (m : Mem) (k line : Nat) (whole : Bool) : Mem :=
  if !whole && m.keyAt line != k then m.setBytes (64 * line) ((List.range 64).map fun i => m.see k (64 * line + i)) else m

theorem Mem.byte_mergeLine (line b : Nat) (whole : Bool) : (m.mergeLine k line whole).byte b =
    if b / 64 = line ∧ whole = false ∧ m.keyAt line ≠ k then m.see k b else m.byte b := by
  rw [Mem.mergeLine]
  by_cases hm : whole = false ∧ m.keyAt line ≠ k
  · rw [if_pos (by simp [hm]), Mem.byte_setBytes, List.length_map, List.length_range]
    by_cases hb : b / 64 = line
    · have haddr : 64 * line + (b - 64 * line) = b := by omega
      rw [if_pos (by omega), if_pos ⟨hb, hm⟩, List.getD_eq_getElem?_getD, List.getElem?_map, List.getElem?_range (by omega),
        Option.map_some, haddr, Option.getD_some]
    · rw [if_neg (by omega), if_neg (by tauto)]
  · rw [if_neg (by simpa using hm), if_neg (by tauto)]

theorem Mem.writeLine_eq : m.writeLine k a l =
    (let m' := (m.mergeLine k (a / 64) (l.length == 64)).setBytes a (l.map (·.1))
     ({ m' with key := smSet noKey m'.key (a / 64) k } : Mem).poisonLine (a / 64)
       (if l.length = 64 then l.any (·.2) else m.poisonAt (8 * (a / 64)) || l.any (·.2))) := rfl

theorem Mem.byte_writeLine (b : Nat) : (m.writeLine k a l).byte b =
    if a ≤ b ∧ b < a + l.length then (l.map (·.1)).getD (b - a) 0
    else if b / 64 = a / 64 ∧ l.length ≠ 64 ∧ m.keyAt (a / 64) ≠ k then m.see k b else m.byte b := by
  rw [Mem.writeLine_eq, Mem.byte_poisonLine]
  refine (Mem.byte_setBytes ..).trans ?_
  rw [List.length_map, Mem.byte_mergeLine]
  simp

theorem Mem.keyAt_writeLine (n : Nat) : (m.writeLine k a l).keyAt n = if n = a / 64 then k else m.keyAt n := by
  rw [Mem.writeLine_eq, Mem.keyAt_poisonLine]
  by_cases h : n = a / 64
  · rw [if_pos h, h]
    exact smGet_set_same ..
  · rw [if_neg h]
    refine (smGet_set_other _ _ _ _ _ h).trans ((Mem.keyAt_setBytes ..).trans ?_)
    rw [Mem.mergeLine]
    split
    · exact Mem.keyAt_setBytes ..
    · rfl

theorem Mem.feAt_writeLine (w : Nat) : (m.writeLine k a l).feAt w = m.feAt w := by
  rw [Mem.writeLine_eq, Mem.feAt_poisonLine]
  refine (Mem.feAt_setBytes ..).trans ?_
  rw [Mem.mergeLine]
  split
  · exact Mem.feAt_setBytes ..
  · rfl

theorem Mem.poisonAt_writeLine (w : Nat) : (m.writeLine k a l).poisonAt w =
    if w / 8 = a / 64 then (if l.length = 64 then l.any (·.2) else m.poisonAt (8 * (a / 64)) || l.any (·.2)) else m.poisonAt w := by
  rw [Mem.writeLine_eq, Mem.poisonAt_poisonLine]
  refine if_congr Iff.rfl rfl ((Mem.poisonAt_setBytes ..).trans ?_)
  rw [Mem.mergeLine]
  split
  · exact Mem.poisonAt_setBytes ..
  · rfl

/-- Under the key of a write its bytes are seen as written, and every other byte as before. -/
theorem Mem.see_writeLine (hline : a % 64 + l.length ≤ 64) (b : Nat) : (m.writeLine k a l).see k b =
    if a ≤ b ∧ b < a + l.length then (l.map (·.1)).getD (b - a) 0 else m.see k b := by
  by_cases hb : b / 64 = a / 64
  · rw [Mem.see_of_key (by rw [Mem.keyAt_writeLine, if_pos hb]), Mem.byte_writeLine]
    by_cases hin : a ≤ b ∧ b < a + l.length
    · rw [if_pos hin, if_pos hin]
    · rw [if_neg hin, if_neg hin]
      have hpart : l.length ≠ 64 := by omega
      by_cases hkey : m.keyAt (a / 64) = k
      · rw [if_neg (by tauto), Mem.see_of_key (hb ▸ hkey)]
      · rw [if_pos ⟨hb, hpart, hkey⟩]
  · rw [if_neg (by omega)]
    refine Mem.see_congr (by rw [Mem.keyAt_writeLine, if_neg hb]) (fun b' hb' => ?_) k
    rw [Mem.byte_writeLine, if_neg (by omega), if_neg (by omega)]

end

end Sys2Proof.Machine
end

section
/-! Runs of bytes stored one after the other by one requester (R332, R334, R400): of two at one address the later stays. -/

namespace Sys2Proof.Machine
open Sys2Proof

/-! ## The bytes of a run -/

/-- The bytes of a run, each with its address. -/
def bytesAt : Nat → List Byte → List (Nat × Byte)
  | _, [] => []
  | a, b :: r => (a, b) :: bytesAt (a + 1) r

theorem mem_bytesAt {a : Nat} {l : List Byte} {e : Nat × Byte} : e ∈ bytesAt a l ↔ a ≤ e.1 ∧ l[e.1 - a]? = some e.2 := by
  induction l generalizing a with
  | nil => simp [bytesAt]
  | cons b r ih =>
    rw [bytesAt, List.mem_cons, ih]
    obtain ⟨x, v⟩ := e
    rcases Nat.lt_trichotomy x a with h | rfl | h
    · simp [show ¬a ≤ x by omega, show ¬a + 1 ≤ x by omega, h.ne]
    · simp [eq_comm]
    · have hsub : x - a = x - (a + 1) + 1 := by omega
      simp [show a ≤ x by omega, show a + 1 ≤ x by omega, h.ne', hsub]

theorem bytesAt_bounds {a : Nat} {l : List Byte} {e : Nat × Byte} (h : e ∈ bytesAt a l) : a ≤ e.1 ∧ e.1 < a + l.length := by
  obtain ⟨hlo, hv⟩ := mem_bytesAt.1 h
  have hlt := (List.getElem?_eq_some_iff.1 hv).1
  omega

theorem exists_mem_bytesAt {a x : Nat} {l : List Byte} (hlo : a ≤ x) (hhi : x < a + l.length) : ∃ v, (x, v) ∈ bytesAt a l :=
  ⟨l[x - a], mem_bytesAt.2 ⟨hlo, List.getElem?_eq_getElem (by omega)⟩⟩

theorem bytesAt_append (a : Nat) (l r : List Byte) : bytesAt a (l ++ r) = bytesAt a l ++ bytesAt (a + l.length) r := by
  induction l generalizing a with
  | nil => rfl
  | cons b l ih => simp [bytesAt, ih, Nat.add_assoc, Nat.add_comm 1]

/-- A run gives an address at most one byte. -/
theorem lookup_bytesAt (a x : Nat) (l : List Byte) : (bytesAt a l).reverse.lookup x = if a ≤ x then l[x - a]? else none := by
  induction l generalizing a with
  | nil => simp [bytesAt]
  | cons b r ih =>
    rw [bytesAt, List.reverse_cons, List.lookup_append, ih]
    rcases Nat.lt_trichotomy x a with h | rfl | h
    · rw [if_neg (by omega), if_neg (by omega)]
      simp [List.lookup_cons, beq_eq_false_iff_ne.2 h.ne]
    · simp
    · have hsub : x - a = x - (a + 1) + 1 := by omega
      rw [if_pos (by omega), if_pos (by omega), hsub, List.getElem?_cons_succ]
      simp [List.lookup_cons, beq_eq_false_iff_ne.2 h.ne']

/-- The pieces of a run are the run. -/
theorem bytesAt_splitAtBounds {g f a : Nat} {l : List Byte} (hg : 0 < g) (hf : l.length ≤ f) :
    (splitAtBounds g f a l).flatMap (fun e => bytesAt e.1 e.2) = bytesAt a l := by
  induction f generalizing a l with
  | zero => rw [List.length_eq_zero_iff.1 (Nat.le_zero.1 hf)]; rfl
  | succ f ih =>
    by_cases hl : l = []
    · rw [hl]; rfl
    · have hpos := List.length_pos_iff.2 hl
      have hmod := Nat.mod_lt a hg
      have hlen : (l.take (min (g - a % g) l.length)).length = min (g - a % g) l.length := by rw [List.length_take]; omega
      have happ := bytesAt_append a (l.take (min (g - a % g) l.length)) (l.drop (min (g - a % g) l.length))
      rw [List.take_append_drop, hlen] at happ
      rw [splitAtBounds_of_ne_nil hl, List.flatMap_cons, ih (by rw [List.length_drop]; omega), happ]

/-- No piece is empty, and none crosses a bound. -/
theorem splitAtBounds_piece {α : Type} {g f a : Nat} {l : List α} (hg : 0 < g) {e : Nat × List α} (he : e ∈ splitAtBounds g f a l) :
    e.2 ≠ [] ∧ e.1 % g + e.2.length ≤ g := by
  induction f generalizing a l with
  | zero => exact absurd he List.not_mem_nil
  | succ f ih =>
    by_cases hl : l = []
    · subst hl
      exact absurd he List.not_mem_nil
    · have hpos := List.length_pos_iff.2 hl
      have hmod := Nat.mod_lt a hg
      rw [splitAtBounds_of_ne_nil hl, List.mem_cons] at he
      obtain rfl | he := he
      · refine ⟨List.ne_nil_of_length_pos ?_, ?_⟩ <;> simp only [List.length_take] <;> omega
      · exact ih he

/-! ## Bytes stored -/

/-- m' is m after a requester with a key has stored bytes, in this order; of the lines that are late the device stored any or none. -/
structure Stored (key : Nat) (ep : Bool) (late : List Nat) (puts : List (Nat × Byte)) (m m' : Mem) : Prop where
  see : ∀ a, a / 64 ∉ late → m'.see key a = (puts.reverse.lookup a).getD (m.see key a)
  poison : ep = true → ∀ w, m.poisonAt w = true ∨ (∃ e ∈ puts, e.1 / 8 = w ∧ e.1 / 64 ∉ late) → m'.poisonAt w = true
  word : ∀ w, inCellar (8 * w) = false → (∀ e ∈ puts, e.1 / 8 ≠ w) → m'.feAt w = m.feAt w ∧ m'.poisonAt w = m.poisonAt w
  line : ∀ a, inCellar a = true → (∀ e ∈ puts, e.1 / 64 ≠ a / 64) → m'.byte a = m.byte a

section
variable {key : Nat} {ep : Bool} {late : List Nat}

theorem Stored.refl (m : Mem) : Stored key ep late [] m m where
  see _ _ := rfl
  poison _ w h := h.resolve_right (by simp)
  word _ _ _ := ⟨rfl, rfl⟩
  line _ _ _ := rfl

theorem Stored.trans {puts puts' : List (Nat × Byte)} {m m' m'' : Mem} (h : Stored key ep late puts m m')
    (k : Stored key ep late puts' m' m'') : Stored key ep late (puts ++ puts') m m'' where
  see a ha := by rw [k.see a ha, h.see a ha, List.reverse_append, List.lookup_append, Option.getD_or]
  poison hep w hw := by
    refine k.poison hep w ?_
    obtain hw | ⟨e, he, hew, hl⟩ := hw
    · exact .inl (h.poison hep w (.inl hw))
    · obtain he | he := List.mem_append.1 he
      · exact .inl (h.poison hep w (.inr ⟨e, he, hew, hl⟩))
      · exact .inr ⟨e, he, hew, hl⟩
  word w hw hp := by
    obtain ⟨hfe, hpo⟩ := h.word w hw fun e he => hp e (List.mem_append_left _ he)
    obtain ⟨hfe', hpo'⟩ := k.word w hw fun e he => hp e (List.mem_append_right _ he)
    exact ⟨hfe'.trans hfe, hpo'.trans hpo⟩
  line a ha hp := (k.line a ha fun e he => hp e (List.mem_append_right _ he)).trans
    (h.line a ha fun e he => hp e (List.mem_append_left _ he))

/-- Lines of the cellar that arrive poisoned. -/
theorem Stored.poisonLine {m m' : Mem} (h : Stored key ep late [] m m') {n : Nat} (hn : inCellar (64 * n) = true) :
    Stored key ep late [] m (m'.poisonLine n true) where
  see a ha := (Mem.see_congr (Mem.keyAt_poisonLine ..) (fun _ _ => Mem.byte_poisonLine ..) key).trans (h.see a ha)
  poison hep w hw := by
    rw [Mem.poisonAt_poisonLine]
    split
    · rfl
    · exact h.poison hep w hw
  word w hw hp := by
    obtain ⟨hfe, hpo⟩ := h.word w hw hp
    have hne : w / 8 ≠ n := fun e => Bool.false_ne_true (hw.symm.trans ((inCellar_eq_of_line (by omega)).trans hn))
    rw [Mem.feAt_poisonLine, Mem.poisonAt_poisonLine, if_neg hne]
    exact ⟨hfe, hpo⟩
  line a ha hp := (Mem.byte_poisonLine ..).trans (h.line a ha hp)

/-! ## One run -/

/-- The bytes of a run with the poison of its request (R400). -/
def withEp (ep : Bool) (l : List Byte) : List (Byte × Bool) := l.map fun b => (b, ep)

@[simp] theorem length_withEp (ep : Bool) (l : List Byte) : (withEp ep l).length = l.length := List.length_map ..

@[simp] theorem map_fst_withEp (ep : Bool) (l : List Byte) : (withEp ep l).map (·.1) = l := by
  simp [withEp, Function.comp_def]

theorem withEp_ne_nil {l : List Byte} (ep : Bool) (hl : l ≠ []) : withEp ep l ≠ [] := by simpa [withEp] using hl

theorem snd_of_mem_withEp {ep : Bool} {l : List Byte} {e : Byte × Bool} (h : e ∈ withEp ep l) : e.2 = ep := by
  obtain ⟨b, -, rfl⟩ := List.mem_map.1 h
  rfl

theorem any_withEp {l : List Byte} (hl : l ≠ []) : (withEp true l).any (·.2) = true := by
  obtain ⟨e, he⟩ := List.exists_mem_of_ne_nil _ (withEp_ne_nil true hl)
  exact List.any_eq_true.2 ⟨e, he, snd_of_mem_withEp he⟩

/-- A byte seen at an address that a run covers is the run's. -/
theorem getD_lookup_bytesAt (a x : Nat) (l : List Byte) (v : Byte) :
    ((bytesAt a l).reverse.lookup x).getD v = if a ≤ x ∧ x < a + l.length then l.getD (x - a) 0 else v := by
  rw [lookup_bytesAt]
  by_cases hlo : a ≤ x
  · by_cases hhi : x < a + l.length
    · rw [if_pos hlo, if_pos ⟨hlo, hhi⟩, List.getElem?_eq_getElem (by omega), List.getD_eq_getElem _ _ (by omega), Option.getD_some]
    · rw [if_pos hlo, if_neg (by tauto), List.getElem?_eq_none (by omega), Option.getD_none]
  · rw [if_neg hlo, if_neg (by tauto), Option.getD_none]

/-- The lines of a request that is late are stored, or are not. -/
theorem Stored.skip (m : Mem) {a : Nat} {l : List Byte} (hline : a % 64 + l.length ≤ 64) (hlate : a / 64 ∈ late) :
    Stored key ep late (bytesAt a l) m m := by
  have hin {e : Nat × Byte} (he : e ∈ bytesAt a l) : e.1 / 64 ∈ late := by
    have hbounds := bytesAt_bounds he
    rwa [show e.1 / 64 = a / 64 by omega]
  refine ⟨fun x hx => ?_, fun _ w hw => ?_, fun _ _ _ => ⟨rfl, rfl⟩, fun _ _ _ => rfl⟩
  · rw [getD_lookup_bytesAt, if_neg fun h => hx ?_]
    rwa [show x / 64 = a / 64 by omega]
  · exact hw.resolve_right fun ⟨e, he, _, hl⟩ => hl (hin he)

section
variable {m : Mem} {a : Nat} {l : List Byte} (hl : l ≠ [])
include hl

theorem Stored.write_outside (hout : ∀ x, a ≤ x → x < a + l.length → inCellar x = false) :
    Stored key ep late (bytesAt a l) m (m.write key a (withEp ep l)) := by
  have hpos := List.length_pos_iff.2 hl
  have hc : inCellar a = false := hout a (le_refl _) (by omega)
  have hcell (x : Nat) (hx : inCellar x = true) : ¬(a ≤ x ∧ x < a + l.length) := fun ⟨hlo, hhi⟩ =>
    Bool.false_ne_true ((hout x hlo hhi).symm.trans hx)
  have hbyte (x : Nat) : (m.write key a (withEp ep l)).byte x = if a ≤ x ∧ x < a + l.length then l.getD (x - a) 0 else m.byte x := by
    simpa using Mem.byte_write m key a x (withEp ep l) hc
  refine ⟨fun x _ => ?see, fun hep w hw => ?poison, fun w _ hp => ?word, fun x hx _ => ?line⟩
  case see =>
    rw [getD_lookup_bytesAt]
    cases hx : inCellar x with
    | false => rw [Mem.see_outside hx, Mem.see_outside hx, hbyte]
    | true =>
      rw [if_neg (hcell x hx)]
      exact Mem.see_congr (Mem.keyAt_write_outside _ _ _ hc _)
        (fun b hb => (hbyte b).trans (if_neg (hcell b ((inCellar_eq_of_line hb).trans hx)))) key
  case poison =>
    rw [Mem.poisonAt_write_of_poison _ _ _ hc _ fun e he => (snd_of_mem_withEp he).trans hep, length_withEp]
    obtain hw | ⟨e, he, rfl, -⟩ := hw
    · rw [hw, ite_self]
    · have hbounds := bytesAt_bounds he
      exact if_pos (by omega)
  case word =>
    have hmiss : 8 * w + 8 ≤ a ∨ a + l.length ≤ 8 * w := by
      by_contra hmeet
      obtain ⟨v, hv⟩ := exists_mem_bytesAt (a := a) (x := max a (8 * w)) (l := l) (by omega) (by omega)
      exact hp _ hv (by simp only; omega)
    rw [Mem.feAt_write _ _ _ _ _ hc, Mem.poisonAt_write_other _ _ _ _ _ hc (by simpa using hmiss), length_withEp, if_neg (by omega)]
    exact ⟨rfl, rfl⟩
  case line => rw [hbyte, if_neg (hcell x hx)]

theorem Stored.writeLine (hc : inCellar a = true) (hline : a % 64 + l.length ≤ 64) :
    Stored key ep late (bytesAt a l) m (m.writeLine key a (withEp ep l)) := by
  have hline' : a % 64 + (withEp ep l).length ≤ 64 := by simpa using hline
  have hpos := List.length_pos_iff.2 hl
  have hcell {x : Nat} (hx : x / 64 = a / 64) : inCellar x = true := (inCellar_eq_of_line hx).trans hc
  refine ⟨fun x _ => ?see, fun hep w hw => ?poison, fun w hw _ => ?word, fun x hx hp => ?line⟩
  case see =>
    rw [getD_lookup_bytesAt, Mem.see_writeLine _ _ _ hline']
    simp
  case poison =>
    subst hep
    rw [Mem.poisonAt_writeLine, any_withEp hl, Bool.or_true, ite_self]
    obtain hw | ⟨e, he, rfl, -⟩ := hw
    · rw [hw, ite_self]
    · have hbounds := bytesAt_bounds he
      exact if_pos (by omega)
  case word =>
    have hne : w / 8 ≠ a / 64 := fun h => Bool.false_ne_true (hw.symm.trans (hcell (by omega)))
    rw [Mem.feAt_writeLine, Mem.poisonAt_writeLine, if_neg hne]
    exact ⟨rfl, rfl⟩
  case line =>
    obtain ⟨v, hv⟩ := exists_mem_bytesAt (a := a) (x := a) (l := l) (le_refl _) (by omega)
    have hne : a / 64 ≠ x / 64 := hp _ hv
    rw [Mem.byte_writeLine, length_withEp, if_neg (by omega), if_neg fun h => hne h.1.symm]

end
end

end Sys2Proof.Machine
end

section
/-! BAR2 (R332 to R334, R398, R400, R406): the bytes that the host's windows reach, read and stored. -/

namespace Sys2Proof.Machine
open Sys2Proof

/-! ## The bytes that a request reaches (R406) -/

/-- The bytes of a request that are enabled and reached, each with its address, in order. -/
def bar2Puts (m : Nat → Option Nat) : Nat → List (Option Byte) → List (Nat × Byte)
  | _, [] => []
  | off, b :: r => (b.bind fun b => (m off).map (·, b)).toList ++ bar2Puts m (off + 1) r

/-- The runs of a request are its bytes. -/
theorem bytesAt_bar2Runs (m : Nat → Option Nat) (off : Nat) (data : List (Option Byte)) :
    (bar2Runs m off data).flatMap (fun r => bytesAt r.1 r.2) = bar2Puts m off data := by
  induction data generalizing off with
  | nil => rfl
  | cons b r ih =>
    rw [bar2Puts, ← ih, bar2Runs]
    rcases b.bind fun b => (m off).map (·, b) with - | ⟨a, v⟩
    · simp
    · rcases bar2Runs m (off + 1) r with - | ⟨⟨a', l⟩, t⟩
      · simp [bytesAt]
      · by_cases h : a' = a + 1 <;> simp [h, bytesAt]

/-- A byte at an address is one of the request's that is enabled and reached. -/
theorem mem_bar2Puts {m : Nat → Option Nat} {off : Nat} {data : List (Option Byte)} {e : Nat × Byte} :
    e ∈ bar2Puts m off data ↔ ∃ i, data[i]? = some (some e.2) ∧ m (off + i) = some e.1 := by
  induction data generalizing off with
  | nil => simp [bar2Puts]
  | cons b r ih =>
    have hhead : e ∈ (b.bind fun b => (m off).map (·, b)).toList ↔ b = some e.2 ∧ m off = some e.1 := by
      cases b <;> cases m off <;> simp [Prod.ext_iff, and_comm, eq_comm]
    rw [bar2Puts, List.mem_append, ih, hhead]
    have hshift (i : Nat) : off + 1 + i = off + (i + 1) := by omega
    constructor
    · rintro (h | ⟨i, hv, hm⟩)
      · exact ⟨0, by simpa using h⟩
      · exact ⟨i + 1, by simpa using hv, by rwa [← hshift]⟩
    · rintro ⟨_ | i, hv, hm⟩
      · exact .inl ⟨by simpa using hv, hm⟩
      · exact .inr ⟨i, by simpa using hv, by rwa [hshift]⟩

theorem lookup_bar2Puts_of_none {m : Nat → Option Nat} {off a : Nat} {data : List (Option Byte)}
    (h : ∀ i b, ¬(data[i]? = some (some b) ∧ m (off + i) = some a)) : (bar2Puts m off data).reverse.lookup a = none := by
  refine List.lookup_eq_none_iff.2 fun e he => ?_
  obtain ⟨i, hv, hm⟩ := mem_bar2Puts.1 (List.mem_reverse.1 he)
  simp only [bne_iff_ne]
  rintro rfl
  exact h i e.2 ⟨hv, hm⟩

/-- Of the bytes at one address the last is the later one of the request. -/
theorem lookup_bar2Puts {m : Nat → Option Nat} {off i a : Nat} {data : List (Option Byte)} {b : Byte}
    (h : data[i]? = some (some b) ∧ m (off + i) = some a)
    (hlast : ∀ j b', i < j → ¬(data[j]? = some (some b') ∧ m (off + j) = some a)) :
    (bar2Puts m off data).reverse.lookup a = some b := by
  induction data generalizing off i with
  | nil => simp at h
  | cons v r ih =>
    rw [bar2Puts, List.reverse_append, List.lookup_append]
    have hshift (j : Nat) : off + 1 + j = off + (j + 1) := by omega
    cases i with
    | zero =>
      have hnone : (bar2Puts m (off + 1) r).reverse.lookup a = none :=
        lookup_bar2Puts_of_none fun j b' => by simpa [hshift] using hlast (j + 1) b' (by omega)
      obtain ⟨hv, hm⟩ : v = some b ∧ m off = some a := by simpa using h
      simp [hnone, hv, hm]
    | succ i =>
      have hsome := ih (off := off + 1) (i := i) (by simpa [hshift] using h)
        fun j b' hj => by simpa [hshift] using hlast (j + 1) b' (by omega)
      simp [hsome]

/-! ## Where the windows reach (R406) -/

section
variable {s : State} {a : Nat}

/-- A byte in reach of the host: attic, cellar or storeroom. -/
def State.hostReach (s : State) (a : Nat) : Bool := s.place a != .unmapped && s.place a != .regs

theorem State.hostReach_of_bar2Map {f : FnId} {o : Nat} (h : s.bar2Map f o = some a) : s.hostReach a = true := by
  rw [State.bar2Map] at h
  split at h
  · dsimp only at h
    split at h
    next hp => cases h; simp [State.hostReach, hp]
    next hp => cases h; simp [State.hostReach, hp]
    next hp =>
      split at h
      · cases h; simp [State.hostReach, hp]
      · cases h
    next => cases h
  · cases h

theorem State.atticSize_le (s : State) : s.atticSize ≤ 0x90_0000_0000 := by
  have hstacks : s.stacks.length ≤ 8 := by simpa [State.stacks] using List.length_filter_le _ (List.finRange 8)
  rw [State.atticSize]
  omega

/-- The memories lie apart: the attic below the cellar, the storerooms above it. -/
theorem State.place_outside (h : inCellar a = false) : s.place a = if a < s.atticSize then .attic
    else if STO_BASE ≤ a ∧ a < STO_BASE + 64 * 0x1000_0000 then
      (if (a - STO_BASE) % 0x1000_0000 < 0x800_0000 ∧ s.enabled (Fin.ofNat 64 ((a - STO_BASE) / 0x1000_0000)) then
        .sto (Fin.ofNat 64 ((a - STO_BASE) / 0x1000_0000)) else .unmapped)
    else if REG_BASE ≤ a ∧ a < REG_BASE + 0x400_0000 then .regs else .unmapped := by
  have hout : ¬(CEL_BASE ≤ a ∧ a < CEL_BASE + 4 * 0x100_0000_0000) := of_decide_eq_false h
  rw [State.place, if_neg hout]

theorem State.place_inCellar (h : inCellar a = true) : s.place a = .unmapped ∨ ∃ p, s.place a = .cellar p := by
  have hin := (inCellar_iff a).1 h
  have hattic := s.atticSize_le
  rw [State.place, if_neg (by simp only [CEL_BASE] at hin; omega), if_pos hin]
  dsimp only
  split
  · exact .inr ⟨_, rfl⟩
  · exact .inl rfl

theorem State.isSome_celPort : (s.celPort a).isSome = true ↔ ∃ p, s.place a = .cellar p := by
  rw [State.celPort]
  cases s.place a <;> simp

theorem State.inCellar_of_celPort (h : (s.celPort a).isSome = true) : inCellar a = true := by
  obtain ⟨p, hp⟩ := State.isSome_celPort.1 h
  by_contra hout
  rw [State.place_outside (by simpa using hout)] at hp
  split_ifs at hp

theorem State.celPort_of_reach (h : inCellar a = true) (hr : s.hostReach a = true) : (s.celPort a).isSome = true := by
  obtain hp | ⟨p, hp⟩ := s.place_inCellar h
  · simp [State.hostReach, hp] at hr
  · exact State.isSome_celPort.2 ⟨p, hp⟩

/-- What is in reach lies in the attic, the cellar or the storerooms. -/
theorem State.bounds_of_reach (hr : s.hostReach a = true) : a < 0x90_0000_0000 ∨ inCellar a = true ∨ STO_BASE ≤ a := by
  have hattic := s.atticSize_le
  by_contra hcon
  obtain ⟨h1, h2, h3⟩ : ¬a < 0x90_0000_0000 ∧ ¬inCellar a = true ∧ ¬STO_BASE ≤ a := by tauto
  rw [State.hostReach, State.place_outside (by simpa using h2), if_neg (by omega), if_neg (by tauto), if_neg (by
    simp only [STO_BASE, REG_BASE] at *; omega)] at hr
  simp at hr

/-- A run in reach lies within the cellar, or outside it. -/
theorem State.inCellar_of_run {n : Nat} (hr : ∀ x, a ≤ x → x < a + n → s.hostReach x = true) :
    ∀ x, a ≤ x → x < a + n → inCellar x = inCellar a := by
  intro x hx
  induction x, hx using Nat.le_induction with
  | base => exact fun _ => rfl
  | succ x hx ih =>
    intro hlt
    rw [← ih (by omega), Bool.eq_iff_iff]
    have h1 := State.bounds_of_reach (hr x hx (by omega))
    have h2 := State.bounds_of_reach (hr (x + 1) (by omega) hlt)
    simp only [inCellar_iff, CEL_BASE, STO_BASE] at *
    omega

end

end Sys2Proof.Machine
end

section
/-! BAR2_WRITE (R332 to R334, R400, R406): each run of the request stored, in order, and what the request leaves. -/

namespace Sys2Proof.Machine
open Sys2Proof

/-! ## A request that is late (R333) -/

section
variable (s : State)

@[simp] theorem State.keys_record (p : Page) (r : Rec) : (s.record p r).mgmt.keys = s.mgmt.keys := by
  rw [State.record, State.event_mgmt, State.putCode, State.forward]
  dsimp only [State.modMgmt]
  split <;> rfl

/-- t is s with timeouts recorded: registers, the log queue and the host interface have changed. -/
structure Logged (s t : State) : Prop where
  frame : t = { s with regs := t.regs, mgmt := t.mgmt, host := t.host }
  keys : t.mgmt.keys = s.mgmt.keys

theorem Logged.record {t : State} (h : t = { s with regs := t.regs }) (p : Page) (r : Rec) : Logged s (t.record p r) where
  frame := by
    have hrec := t.record_frame p r
    generalize t.record p r = u at *
    rw [h] at hrec
    exact hrec
  keys := by rw [State.keys_record, h]

theorem Logged.hostTmo (wr : Bool) (l : Nat) : Logged s (s.hostTmo wr l) := by
  rw [State.hostTmo]
  split
  · exact .record s (s.bump_frame _ _ _) _ _
  · exact ⟨rfl, rfl⟩

theorem State.carryTo_frame (b : BayId) (a : Nat) (answered : Bool) :
    s.carryTo b a answered = { s with mesh := (s.carryTo b a answered).mesh } := by
  rw [State.carryTo]
  split <;> rfl

theorem State.touchAt_frame (a : Nat) : s.touchAt a = { s with cores := (s.touchAt a).cores } := by
  rw [State.touchAt]
  split <;> rfl

/-- Of a write to one late line it is open whether the device stored it (log entry 30). -/
theorem State.lateWrite_line {k a : Nat} {l : List (Byte × Bool)} (hl : l ≠ []) (hline : a % 64 + l.length ≤ 64) :
    s.lateWrite [a / 64] k a l =
      { s with free := s.free + 1, mem := if Config.lateWrite s.free then s.mem.writeLine k a l else s.mem } := by
  obtain ⟨n, hn⟩ := Nat.exists_eq_succ_of_ne_zero (List.length_pos_iff.2 hl).ne'
  rw [State.lateWrite, hn, splitAtBounds_of_line hl hline]
  by_cases hw : Config.lateWrite s.free <;> simp [hw, State.modMem]

end

/-! ## One run (R332 to R334, R400) -/

/-- t is s after a requester of function f has stored bytes, in this order, for the host. -/
structure HostWrote (f : FnId) (ep : Bool) (late : List Nat) (puts : List (Nat × Byte)) (s t : State) : Prop where
  stored : Stored (s.keyOf f.val) ep late puts s.mem t.mem
  keys : t.mgmt.keys = s.mgmt.keys
  loft : t.loft = s.loft
  power : t.power = s.power
  quiet : late = [] → t.mgmt = s.mgmt ∧ t.host = s.host

section
variable {f : FnId} {ep : Bool} {late : List Nat}

theorem HostWrote.refl (s : State) : HostWrote f ep late [] s s := ⟨.refl _, rfl, rfl, rfl, fun _ => ⟨rfl, rfl⟩⟩

theorem HostWrote.trans {puts puts' : List (Nat × Byte)} {s t u : State} (h : HostWrote f ep late puts s t)
    (k : HostWrote f ep late puts' t u) : HostWrote f ep late (puts ++ puts') s u where
  stored := by
    have hkey : t.keyOf f.val = s.keyOf f.val := by rw [State.keyOf, State.keyOf, h.keys]
    exact h.stored.trans (hkey ▸ k.stored)
  keys := k.keys.trans h.keys
  loft := k.loft.trans h.loft
  power := k.power.trans h.power
  quiet hl := ⟨(k.quiet hl).1.trans (h.quiet hl).1, (k.quiet hl).2.trans (h.quiet hl).2⟩

/-- Requests one after the other store their bytes one after the other. -/
theorem HostWrote.foldl {β : Type} {g : State → β → State} {puts : β → List (Nat × Byte)} (l : List β)
    (hg : ∀ s, ∀ b ∈ l, HostWrote f ep late (puts b) s (g s b)) (s : State) :
    HostWrote f ep late (l.flatMap puts) s (l.foldl g s) := by
  induction l generalizing s with
  | nil => exact .refl s
  | cons b r ih =>
    exact (hg s b List.mem_cons_self).trans (ih (fun t e he => hg t e (List.mem_cons_of_mem _ he)) (g s b))

/-- Lines of the cellar that arrive poisoned. -/
theorem HostWrote.poisonLines (s : State) {ls : List Nat} (h : ∀ n ∈ ls, inCellar (64 * n) = true) :
    HostWrote f ep late [] s (s.poisonLines ls) where
  stored := List.foldlRecOn (motive := fun m => Stored (s.keyOf f.val) ep late [] s.mem m) ls _ (.refl _) fun _ hm n hn =>
    hm.poisonLine (h n hn)
  keys := rfl
  loft := rfl
  power := rfl
  quiet _ := ⟨rfl, rfl⟩

theorem HostWrote.carryTo (s : State) (a : Nat) (answered : Bool) : HostWrote f ep late [] s (s.carryTo hostBay a answered) := by
  rw [State.carryTo_frame]
  exact ⟨.refl _, rfl, rfl, rfl, fun _ => ⟨rfl, rfl⟩⟩

section
variable (s : State) {a : Nat} {l : List Byte} (hl : l ≠ [])
include hl

theorem HostWrote.lateLine (hc : inCellar a = true) (hline : a % 64 + l.length ≤ 64) (hlate : a / 64 ∈ late) :
    HostWrote f ep late (bytesAt a l) s ((s.lateWrite [a / 64] (s.keyOf f.val) a (withEp ep l)).hostTmo true (a / 64)) := by
  rw [s.lateWrite_line (withEp_ne_nil ep hl) (by simpa using hline)]
  generalize hu : ({ s with free := _, mem := _ } : State) = u
  obtain ⟨hframe, hkeys⟩ := Logged.hostTmo u true (a / 64)
  have hstored : Stored (s.keyOf f.val) ep late (bytesAt a l) s.mem u.mem := by
    rw [← hu]
    dsimp only
    split
    · exact .writeLine hl hc hline
    · exact .skip _ hline hlate
  refine ⟨by rw [hframe]; exact hstored, ?_, ?_, ?_, fun h => absurd hlate (by simp [h])⟩
  · rw [hkeys, ← hu]
  · rw [hframe, ← hu]
  · rw [hframe, ← hu]

variable (hrun : (inCellar a = true ∧ a % 64 + l.length ≤ 64) ∨ ∀ x, a ≤ x → x < a + l.length → inCellar x = false)
include hrun

theorem HostWrote.pkgWrite :
    HostWrote f ep late (bytesAt a l) s ((s.touchAt a).pkgWrite (s.keyOf f.val) a (withEp ep l)) := by
  have htouch := s.touchAt_frame a
  generalize s.touchAt a = u at *
  have hframe := State.pkgWrite_frame (s := u) (k := s.keyOf f.val) (a := a) (l := withEp ep l)
  have hwrite := State.mem_pkgWrite (s := u) (k := s.keyOf f.val) (a := a) (l := withEp ep l)
  generalize u.pkgWrite (s.keyOf f.val) a (withEp ep l) = t at *
  have hstored : Stored (s.keyOf f.val) ep late (bytesAt a l) s.mem t.mem := by
    rw [hwrite, htouch]
    obtain ⟨hc, hline⟩ | hout := hrun
    · rw [Mem.write_line _ _ _ hc (withEp_ne_nil ep hl) (by simpa using hline)]
      exact .writeLine hl hc hline
    · exact .write_outside hl hout
  refine ⟨hstored, ?_, ?_, ?_, fun _ => ⟨?_, ?_⟩⟩ <;> rw [hframe, htouch]

/-- A piece of a run: in one line of the cellar, or outside it. -/
theorem HostWrote.bar2Put (hlate : a / 64 ∈ late → inCellar a = true) :
    HostWrote f ep late (bytesAt a l) s (s.bar2Put (s.keyOf f.val) late a (withEp ep l)) := by
  have hcarry := HostWrote.carryTo (f := f) (ep := ep) (late := late) s a false
  have hkey : s.keyOf f.val = (s.carryTo hostBay a false).keyOf f.val := by rw [State.keyOf, State.keyOf, hcarry.keys]
  rw [State.bar2Put, hkey]
  refine hcarry.trans ?_
  by_cases hin : a / 64 ∈ late
  · have hline := hrun.resolve_right fun hout =>
      Bool.false_ne_true ((hout a (le_refl _) (by have := List.length_pos_iff.2 hl; omega)).symm.trans (hlate hin))
    rw [if_pos (by simpa using hin)]
    exact .lateLine _ hl hline.1 hline.2 hin
  · rw [if_neg (by simpa using hin)]
    exact .pkgWrite _ hl hrun

end
end

/-! ## The whole request -/

section
variable {s : State} {dev : DevAns} {as : List Nat} {n : Nat}

theorem State.mem_hostLines : n ∈ s.hostLines as ↔ ∃ a ∈ as, (s.celPort a).isSome = true ∧ a / 64 = n := by
  simp [State.hostLines, and_assoc]

theorem State.inCellar_of_hostLines (h : n ∈ s.hostLines as) : inCellar (64 * n) = true := by
  obtain ⟨a, -, hp, rfl⟩ := State.mem_hostLines.1 h
  exact (inCellar_eq_of_line (by omega)).trans (State.inCellar_of_celPort hp)

theorem State.mem_hostLate (h : n ∈ s.hostLate dev as) : n ∈ s.hostLines as ∧ n ∈ dev.late := by
  simp only [State.hostLate, List.mem_filter, Bool.and_eq_true, List.contains_iff_mem] at h
  exact ⟨h.1, h.2.1⟩

/-- A byte whose line is late lies in the cellar. -/
theorem State.inCellar_of_hostLate {a : Nat} (h : a / 64 ∈ s.hostLate dev as) : inCellar a = true :=
  (inCellar_eq_of_line (by omega)).trans (State.inCellar_of_hostLines (State.mem_hostLate h).1)

theorem HostWrote.hostPoison {f : FnId} {ep : Bool} {late : List Nat} : HostWrote f ep late [] s (s.hostPoison dev as) :=
  .poisonLines s fun _ hn => State.inCellar_of_hostLines (List.mem_filter.1 hn).1

end

section
variable {s : State} {f : FnId} {off : Nat} {data : List (Option Byte)}

/-- The addresses that a request reaches. -/
def State.bar2Reached (s : State) (f : FnId) (off : Nat) (data : List (Option Byte)) : List Nat :=
  (bar2Runs (s.bar2Map f) off data).flatMap fun r => (List.range r.2.length).map (r.1 + ·)

theorem State.exists_put_of_reached {a : Nat} (h : a ∈ s.bar2Reached f off data) : ∃ b, (a, b) ∈ bar2Puts (s.bar2Map f) off data := by
  obtain ⟨r, hr, ha⟩ := List.mem_flatMap.1 h
  obtain ⟨i, hi, rfl⟩ := List.mem_map.1 ha
  obtain ⟨b, hb⟩ := exists_mem_bytesAt (a := r.1) (x := r.1 + i) (l := r.2) (by omega) (by have := List.mem_range.1 hi; omega)
  exact ⟨b, bytesAt_bar2Runs (s.bar2Map f) off data ▸ List.mem_flatMap.2 ⟨r, hr, hb⟩⟩

/-- Every byte of a run is in reach. -/
theorem State.hostReach_of_run {r : Nat × List Byte} (hr : r ∈ bar2Runs (s.bar2Map f) off data) (x : Nat) (hlo : r.1 ≤ x)
    (hhi : x < r.1 + r.2.length) : s.hostReach x = true := by
  obtain ⟨b, hb⟩ := exists_mem_bytesAt hlo hhi
  have hput : (x, b) ∈ bar2Puts (s.bar2Map f) off data := bytesAt_bar2Runs (s.bar2Map f) off data ▸ List.mem_flatMap.2 ⟨r, hr, hb⟩
  obtain ⟨i, -, hm⟩ := mem_bar2Puts.1 hput
  exact State.hostReach_of_bar2Map hm

theorem HostWrote.run {ep : Bool} {late : List Nat} (t : State) {r : Nat × List Byte}
    (hreach : ∀ x, r.1 ≤ x → x < r.1 + r.2.length → s.hostReach x = true) (hlate : ∀ a, a / 64 ∈ late → inCellar a = true) :
    HostWrote f ep late (bytesAt r.1 r.2) t ((splitAtBounds (if inCellar r.1 then 64 else 2048) r.2.length r.1 r.2).foldl
      (fun (t : State) e => t.bar2Put (t.keyOf f.val) late e.1 (e.2.map fun b => (b, ep))) t) := by
  have hg : 0 < (if inCellar r.1 then 64 else 2048) := by split <;> decide
  rw [← bytesAt_splitAtBounds (a := r.1) hg (le_refl r.2.length)]
  refine HostWrote.foldl (puts := fun e : Nat × List Byte => bytesAt e.1 e.2) _ (fun u e he => ?_) t
  obtain ⟨hne, hpiece⟩ := splitAtBounds_piece hg he
  obtain ⟨hlo, hhi⟩ := splitAtBounds_within _ _ _ _ e he
  have hpos := List.length_pos_iff.2 hne
  have hin (x : Nat) (hx : e.1 ≤ x) (hx' : x < e.1 + e.2.length) : inCellar x = inCellar r.1 :=
    State.inCellar_of_run hreach x (by omega) (by omega)
  refine .bar2Put u hne ?_ (hlate e.1)
  cases hc : inCellar r.1 with
  | true =>
    rw [if_pos hc] at hpiece
    exact .inl ⟨(hin e.1 (le_refl _) (by omega)).trans hc, hpiece⟩
  | false => exact .inr fun x hx hx' => (hin x hx hx').trans hc

/-- BAR2_WRITE stores the bytes that are enabled and reached, in the order of the request. -/
theorem HostWrote.bar2Write (ep : Bool) (dev : DevAns) :
    HostWrote f ep (s.hostLate dev (s.bar2Reached f off data)) (bar2Puts (s.bar2Map f) off data) s (s.bar2Write f off data ep dev) := by
  rw [← bytesAt_bar2Runs]
  refine HostWrote.hostPoison.trans (HostWrote.foldl (puts := fun r : Nat × List Byte => bytesAt r.1 r.2) _ (fun t r hr => ?_) _)
  exact .run t (State.hostReach_of_run hr) fun _ => State.inCellar_of_hostLate

theorem exec_bar2Write (hup : s.hostUp f = true) (hrec : s.recovery = false) (hlen : data.length ≤ 512)
    (hoff : off + data.length ≤ s.bar2Bytes f) (ep : Bool) (dev : DevAns) :
    exec (.bar2Write f off data ep dev) s = .next (s.bar2Write f off data ep dev) := by
  refine (congrArg Host.Outcome.next (if_pos hup)).trans (congrArg _ (if_pos ⟨?_, hlen, hoff⟩))
  simp [hrec]

end
end Sys2Proof.Machine
end

section
/-! BAR2_READ (R333, R398, R400, R406), and the clauses of BAR2 put together. -/

namespace Sys2Proof.Machine
open Sys2Proof

/-! ## What a read changes -/

/-- t is s after what a read's crossing and counting change: registers and the mesh. -/
def Crossed (s t : State) : Prop := t = { s with regs := t.regs, mesh := t.mesh }

theorem Crossed.trans {s t u : State} (h : Crossed s t) (k : Crossed t u) : Crossed s u := by
  unfold Crossed at *
  rw [h] at k
  exact k

theorem Crossed.of_regs {s t : State} (h : t = { s with regs := t.regs }) : Crossed s t := by
  unfold Crossed
  rw [h]

theorem Crossed.countRun (s : State) (a n i : Nat) : Crossed s (s.countRun a n i) :=
  .of_regs (forRange_keeps (fun t : State => t = { s with regs := t.regs }) _ _
    (fun _ _ ht => regsOnly_trans ht (State.countAccess_frame ..)) s rfl)

theorem Crossed.carrySpan (s : State) (b : BayId) (a n : Nat) (answered : Bool) : Crossed s (s.carrySpan b a n answered) := by
  refine foldl_keeps (Crossed s) _ (fun t e ht => ht.trans ?_) _ s rfl
  unfold Crossed
  rw [State.carryTo_frame]

theorem Logged.refl (s : State) : Logged s s := ⟨rfl, rfl⟩

theorem Logged.trans {s t u : State} (h : Logged s t) (k : Logged t u) : Logged s u where
  frame := by
    have hframe := k.frame
    rw [h.frame] at hframe
    exact hframe
  keys := k.keys.trans h.keys

section
variable (s : State) (f : FnId) (off len : Nat) (dev : DevAns)

/-- The addresses of a read whose bytes are all reached. -/
def State.readAddrs : List Nat := (List.range len).filterMap fun i => s.bar2Map f (off + i)

/-- A read has crossed the mesh and is counted, its poisoned lines among those that came. -/
def State.readCrossed : State :=
  let p := s.hostPoison dev (s.readAddrs f off len)
  let t := (bar2Runs (p.bar2Map f) off (List.replicate len (some 0))).foldl (fun (t : State) r =>
    (t.countRun r.1 r.2.length 0).carrySpan hostBay r.1 r.2.length true) p
  ((p.hostLines (s.readAddrs f off len)).filter fun l => !(s.hostLate dev (s.readAddrs f off len)).contains l).foldl
    (fun (t : State) l => t.countPoison (64 * l) 1) t

theorem State.readCrossed_crossed : Crossed (s.hostPoison dev (s.readAddrs f off len)) (s.readCrossed f off len dev) :=
  foldl_keeps (Crossed _) _ (fun _ _ ht => ht.trans (.of_regs (State.countPoison_frame ..))) _ _
    (foldl_keeps (Crossed _) _ (fun _ _ ht => ht.trans ((Crossed.countRun ..).trans (.carrySpan ..))) _ _ rfl)

/-- The lines whose request is late have been recorded. -/
def State.readLogged : State :=
  (s.hostLate dev (s.readAddrs f off len)).foldl (fun t l => t.hostTmo false l) (s.readCrossed f off len dev)

theorem State.readLogged_logged : Logged (s.readCrossed f off len dev) (s.readLogged f off len dev) :=
  foldl_keeps (Logged _) _ (fun t _ ht => ht.trans (.hostTmo t _ _)) _ _ (.refl _)

variable (cpls : List Cpl)

theorem State.readLogged_frame : (s.readLogged f off len dev).replyAll cpls =
    { s.hostPoison dev (s.readAddrs f off len) with
      regs := (s.readLogged f off len dev).regs
      host := ((s.readLogged f off len dev).replyAll cpls).host
      mgmt := (s.readLogged f off len dev).mgmt
      mesh := (s.readLogged f off len dev).mesh } := by
  have hcross : s.readCrossed f off len dev = _ := s.readCrossed_crossed f off len dev
  obtain ⟨hlog, -⟩ := s.readLogged_logged f off len dev
  generalize s.readLogged f off len dev = u at *
  generalize s.readCrossed f off len dev = t at *
  rw [hcross] at hlog
  rw [hlog]
  rfl

/-- With no late line nothing is recorded. -/
theorem State.readLogged_quiet (h : s.hostLate dev (s.readAddrs f off len) = []) :
    ((s.readLogged f off len dev).replyAll cpls).mgmt = s.mgmt ∧
      ((s.readLogged f off len dev).replyAll cpls).host = { s.host with cpl := cpls } := by
  have hcross : s.readCrossed f off len dev = _ := s.readCrossed_crossed f off len dev
  rw [State.readLogged, h, List.foldl_nil, hcross]
  exact ⟨rfl, rfl⟩

end

section
variable {s : State} {f : FnId} {off len : Nat} {dev : DevAns}

theorem State.bar2Read_of_unreached (h : ∃ i < len, s.bar2Map f (off + i) = none) : s.bar2Read f off len dev = s.reply urCpl := by
  refine if_pos ?_
  simpa using h

theorem State.bar2Read_of_reached (hlen : 1 ≤ len) (h : ∀ i < len, (s.bar2Map f (off + i)).isSome = true) :
    s.bar2Read f off len dev = (s.readLogged f off len dev).replyAll
      ((splitAtBounds 512 len off (s.readAddrs f off len)).map fun e =>
        (s.hostPoison dev (s.readAddrs f off len)).bar2Cpl (s.keyOf f.val) (s.hostLate dev (s.readAddrs f off len)) e.2) := by
  have hall : ((List.range len).map fun i => s.bar2Map f (off + i)).any (·.isNone) = false := by
    simpa using fun i hi => Option.isSome_iff_ne_none.1 (h i hi)
  have haddrs : ((List.range len).map fun i => s.bar2Map f (off + i)).filterMap id = s.readAddrs f off len := by
    rw [List.filterMap_map]
    rfl
  rw [State.bar2Read]
  dsimp only
  rw [hall, haddrs, if_neg Bool.false_ne_true, if_neg (by omega)]
  rfl

theorem exec_bar2Read (hup : s.hostUp f = true) (hrec : s.recovery = false) (hoff : off + len ≤ s.bar2Bytes f) (atomic : Bool) :
    exec (.bar2Read f off len atomic dev) s = .next (if atomic then s.reply urCpl else s.bar2Read f off len dev) := by
  refine (congrArg Host.Outcome.next (if_pos hup)).trans (congrArg _ ((if_pos hoff).trans ?_))
  rw [hrec]
  rfl

/-- A byte that the host writes and whose line is in time is none of the late lines'. -/
theorem State.not_late {as : List Nat} {o a : Nat} (hm : s.bar2Map f o = some a)
    (h : ¬((s.celPort a).isSome = true ∧ a / 64 ∈ dev.late)) : a / 64 ∉ s.hostLate dev as := fun hin =>
  h ⟨State.celPort_of_reach (State.inCellar_of_hostLate hin) (State.hostReach_of_bar2Map hm), (State.mem_hostLate hin).2⟩

/-- With no late line under a request none is recorded. -/
theorem State.hostLate_eq_nil {data : List (Option Byte)} (h : ∀ e ∈ bar2Puts (s.bar2Map f) off data,
    ¬((s.celPort e.1).isSome = true ∧ e.1 / 64 ∈ dev.late)) : s.hostLate dev (s.bar2Reached f off data) = [] := by
  refine List.eq_nil_iff_forall_not_mem.2 fun n hn => ?_
  obtain ⟨hlines, hdev⟩ := State.mem_hostLate hn
  obtain ⟨a, ha, hp, rfl⟩ := State.mem_hostLines.1 hlines
  obtain ⟨b, hb⟩ := State.exists_put_of_reached ha
  exact h _ hb ⟨hp, hdev⟩

end

/-- Settles O13: a read is answered from memory as its lines came; a write stores its bytes in order, and its late lines or not. -/
theorem bar2 : Obligations.Bar2 := by
  refine ⟨?read, ?write⟩
  case read =>
    intro fn off len atomic dev s hup hrec hoff ads late p
    rw [exec_bar2Read hup hrec hoff]
    refine ⟨fun hat => ?_, fun hat hun => ?_, fun hat hlen hall => ?_⟩ <;> rw [hat]
    · rfl
    · exact congrArg Host.Outcome.next (State.bar2Read_of_unreached hun)
    · have hread := State.bar2Read_of_reached (dev := dev) hlen hall
      exact ⟨_, congrArg _ hread, s.readLogged_frame fn off len dev _, rfl, s.readLogged_quiet fn off len dev _⟩
  case write =>
    intro fn off data ep dev s hup hrec hlen hoff puts lateLine
    have hw := HostWrote.bar2Write (s := s) (f := fn) (off := off) (data := data) ep dev
    have hnot {i a : Nat} {b : Byte} (hp : puts i a b) (hl : ¬lateLine a) : a / 64 ∉ s.hostLate dev (s.bar2Reached fn off data) :=
      State.not_late hp.2 hl
    refine ⟨_, exec_bar2Write hup hrec hlen hoff ep dev, fun i a b hp hlast hl => ?see, fun i a b hp hl hep => ?poison,
      fun a hc hno => ?byte, fun w hc hno => ?word, fun a hc hno => ?line, fun hno => ?quiet, hw.loft, hw.power⟩
    case see => rw [hw.stored.see a (hnot hp hl), lookup_bar2Puts hp hlast, Option.getD_some]
    case poison => exact hw.stored.poison hep _ (.inr ⟨(a, b), mem_bar2Puts.2 ⟨i, hp⟩, rfl, hnot hp hl⟩)
    case byte =>
      have hsee := hw.stored.see a fun h => Bool.false_ne_true (hc.symm.trans (State.inCellar_of_hostLate h))
      rwa [lookup_bar2Puts_of_none hno, Option.getD_none, Mem.see_outside hc, Mem.see_outside hc] at hsee
    case word =>
      refine hw.stored.word w hc fun e he => ?_
      obtain ⟨i, hp⟩ := mem_bar2Puts.1 he
      exact hno i e.1 e.2 hp
    case line =>
      refine hw.stored.line a hc fun e he => ?_
      obtain ⟨i, hp⟩ := mem_bar2Puts.1 he
      exact hno i e.1 e.2 hp
    case quiet =>
      refine hw.quiet (State.hostLate_eq_nil fun e he => ?_)
      obtain ⟨i, hp⟩ := mem_bar2Puts.1 he
      exact hno i e.1 e.2 hp

end Sys2Proof.Machine
end

section
/-! Every command keeps the canonical forms, the queue and the fuses but for the bits that SVN_ADVANCE burns; the state after reset has
the canonical forms, and a step is the command at the front of the queue. -/

namespace Sys2Proof.Machine
open Sys2Proof

/-- A choice between two sound states. -/
theorem Sound.ite {s t u : State} (p : Prop) [Decidable p] (ht : Sound s t) (hu : Sound s u) : Sound s (if p then t else u) := by
  split
  · exact ht
  · exact hu

/-- A choice between two outcomes whose next states are sound. -/
theorem SoundTo.ite {s : State} {p : Prop} [Decidable p] {o o' : Host.Outcome State Fault Refusal} (h : SoundTo s o) (h' : SoundTo s o') :
    SoundTo s (if p then o else o') := by
  split
  · exact h
  · exact h'

/-- What every command keeps: each row is one shared operation, or idles. -/
theorem SoundTo.exec (i : Instr) (s : State) : SoundTo s (exec i s) := by
  cases i with
  | nop => exact SoundTo.command _ _ _ _ _
  | tbuild => exact SoundTo.command _ _ _ _ _
  | tile => exact SoundTo.command _ _ _ _ _
  | stile => exact SoundTo.command _ _ _ _ _
  | drain => exact SoundTo.command _ _ _ _ _
  | move => exact SoundTo.command _ _ _ _ _
  | fill => exact SoundTo.command _ _ _ _ _
  | copy => exact SoundTo.command _ _ _ _ _
  | xpose => exact SoundTo.command _ _ _ _ _
  | fin => exact SoundTo.command _ _ _ _ _
  | opt => exact SoundTo.command _ _ _ _ _
  | signal => exact SoundTo.command _ _ _ _ _
  | wait => exact SoundTo.command _ _ _ _ _
  | barrier => exact SoundTo.command _ _ _ _ _
  | fence => exact SoundTo.command _ _ _ _ _
  | rsignal => exact SoundTo.command _ _ _ _ _
  | phase => exact SoundTo.command _ _ _ _ _
  | rerun => exact SoundTo.command _ _ _ _ _
  | loop => exact SoundTo.command _ _ _ _ _
  | jump => exact SoundTo.command _ _ _ _ _
  | halt => exact SoundTo.command _ _ _ _ _
  | implicitHalt => exact SoundTo.when _ (Sound.streamEnd _ _ (.refl s))
  | commandFetchRangeFault =>
    refine SoundTo.when _ ?_
    split
    · exact .fetchFault _ _ _ (.refl s)
    · exact .refl s
  | issueArbitration => exact SoundTo.when _ (Sound.acStep _ (.refl s))
  | faultRecord => exact SoundTo.when _ (Sound.recordCtxFault _ _ (.refl s))
  | tbuildSweepStart c u => exact SoundTo.unitAct _ _ u.val (f := fun s => s.sweepStart c u.val) fun _ h => h.sweepStart _ _
  | tbuildComplete c u => exact SoundTo.unitAct _ _ u.val (f := fun s => s.buildDone c u.val) fun _ h => h.buildDone _ _
  | tileStart c g => exact SoundTo.unitAct _ _ g.val (f := fun s => s.tileBegin c g.val) fun _ h => h.tileBegin _ _
  | guardedTileEvaluation c g => exact SoundTo.unitAct _ _ g.val (f := fun s => s.evaluate c g.val) fun _ h => h.evaluate _ _
  | tileComplete c g => exact SoundTo.unitAct _ _ g.val (f := fun s => s.tileDone c g.val) fun _ h => h.tileDone _ _
  | stileStart c => exact SoundTo.unitAct _ _ 8 (f := fun s => s.tileBegin c 8) fun _ h => h.tileBegin _ _
  | stileComplete c => exact SoundTo.unitAct _ _ 8 (f := fun s => s.tileDone c 8) fun _ h => h.tileDone _ _
  | drainStart c => exact SoundTo.unitAct _ _ 9 (f := fun s => s.drainBegin c) fun _ h => h.drainBegin _
  | drainComplete c => exact SoundTo.unitAct _ _ 9 (f := fun s => s.drainEnd c) fun _ h => h.drainEnd _
  | finComplete c => exact SoundTo.unitAct _ _ 9 (f := fun s => s.finEnd c) fun _ h => h.finEnd _
  | optComplete c => exact SoundTo.unitAct _ _ 9 (f := fun s => s.optEnd c) fun _ h => h.optEnd _
  | dmaTransactionStart => exact SoundTo.when _ (.settle _ (.dmaStart _ (.refl s)))
  | dmaTransactionComplete => exact SoundTo.when _ (.settle _ (.txnDone _ _ (.refl s)))
  | dmaCommandComplete => exact SoundTo.when _ (Sound.dmaDone _ _ (.refl s))
  | syncSignalArrival => exact SoundTo.when _ (Sound.takeSignal _ _ (.refl s))
  | syncDecrement => exact SoundTo.when _ (Sound.takeSignal _ _ (.refl s))
  | waiterReady => exact SoundTo.when _ (Sound.waiterReady _ _ (.refl s))
  | syncTimeout => exact SoundTo.when _ (Sound.waitTimeout _ _ (.refl s))
  | deadlock => exact SoundTo.when _ (Sound.deadlock _ (.refl s))
  | rafterLineAssert => exact SoundTo.when _ (Sound.lineAssert _ (.refl s))
  | syncDbgAddrWrite => exact SoundTo.when _ (Sound.dbgLatch _ _ (.refl s))
  | syncHostSigWrite => exact SoundTo.when _ (Sound.hostSignal _ _ (.refl s))
  | doorbell => exact SoundTo.hostAct _ (.ite _ (.bar4Read (.refl s)) (.ite _ (.ring _ _ (.refl s)) (.refl s)))
  | contextStart => exact SoundTo.when _ (Sound.startCtx _ _ (.refl s))
  | freeze => exact SoundTo.when _ (Sound.setFreeze _ _ _ (.refl s))
  | contextSave => exact SoundTo.when _ (Sound.startSave _ _ _ (.refl s))
  | contextRestore => exact SoundTo.when _ (Sound.startSave _ _ _ (.refl s))
  | contextReset => exact SoundTo.when _ (Sound.resetCtx _ _ (.refl s))
  | coreReset => exact SoundTo.when _ (Sound.resetCore _ (.refl s))
  | pgEvtClear => exact SoundTo.hostAct _ (.writeReg _ _ _ (.refl s))
  | pgErrCodeRead => exact SoundTo.hostAct _ (.readBar0 _ _ _ (.refl s))
  | highHalfLatchRead => exact SoundTo.hostAct _ (.readBar0 _ _ _ (.refl s))
  | fuMonStatRead => exact SoundTo.hostAct _ (.readBar0 _ _ _ (.refl s))
  | stoCeAddrRead => exact SoundTo.hostAct _ (.readBar0 _ _ _ (.refl s))
  | counterClear => exact SoundTo.hostAct _ (.writeReg _ _ _ (.refl s))
  | dmaQueueResume => exact SoundTo.when _ (Sound.resumeQueue _ _ (.refl s))
  | phaseTableLoad => exact SoundTo.when _ (Sound.setField _ _ _ _ _ (.refl s))
  | phaseTableLoadDone => exact SoundTo.when _ (Sound.loadTables (.refl s))
  | registerWrite => exact SoundTo.hostAct _ (.writeBar0 _ _ _ _ (.refl s))
  | bar2Read => exact SoundTo.hostAct _ (.ite _ (.ite _ (.reply _ (.refl s)) (.bar2Read _ _ _ _ (.refl s))) (.refl s))
  | bar2Write => exact SoundTo.hostAct _ (.ite _ (.bar2Write _ _ _ _ _ (.refl s)) (.refl s))
  | functionLevelReset => exact SoundTo.when _ (Sound.flr _ (.refl s))
  | hotReset => exact SoundTo.when _ (.modHost _ (.ite _ (.flr _ (.refl s)) (.refl s)))
  | packageReset => exact SoundTo.next (.packageReset (.refl s))
  | startUp => exact SoundTo.when _ (Sound.startUp _ (.refl s))
  | storeroomInitDone => exact SoundTo.when _ (Sound.stoInit _ (.refl s))
  | vddMgtUndervoltage => exact SoundTo.next (.undervoltage (.refl s))
  | storeroomEccCorrected => exact SoundTo.when _ (Sound.eccCorrected _ _ _ _ (.refl s))
  | correctionWriteback => exact SoundTo.when _ (Sound.writeBack _ _ (.refl s))
  | stoEccUncorr => exact SoundTo.when _ (Sound.eccUncorrected _ _ _ _ _ _ (.refl s))
  | storeroomScrub => exact SoundTo.when _ (Sound.scrub _ _ (.refl s))
  | shelfGrant => exact SoundTo.when _ (Sound.shelfStep _ _ _ (.refl s))
  | atticEccUncorr => exact SoundTo.when _ (Sound.atticUncorrected _ _ _ _ _ _ (.refl s))
  | atticRefresh => exact SoundTo.when _ (.upd (.refl s) rfl)
  | atticPatrolScrub => exact SoundTo.when _ (Sound.patrolStep _ _ _ (.refl s))
  | arbiterGrant => exact SoundTo.when _ (Sound.arbStep _ _ _ _ (.refl s))
  | cellarResponse => exact SoundTo.when _ (Sound.celResponse _ _ _ (.refl s))
  | cellarTimeout => exact SoundTo.when _ (.settle _ (.celTimeout _ _ _ (.refl s)))
  | cellarLinkDown => exact SoundTo.when _ (Sound.celDown _ (.refl s))
  | linkTrainingComplete => exact SoundTo.when _ (Sound.trained _ _ _ _ (.refl s))
  | flitReceive => exact SoundTo.when _ (Sound.receiveFlit _ _ (.refl s))
  | nakReplay => exact SoundTo.when _ (.modPort _ _ (.bump _ _ _ (.refl s)))
  | idleFlit => exact SoundTo.when _ (Sound.modPort _ _ (.refl s))
  | wr => exact SoundTo.passMsg _ _ _ _ fun _ _ => .applyWr _ _
  | sig => exact SoundTo.passMsg _ _ _ _ fun _ _ => .applySig _ _
  | rd => exact SoundTo.passMsg _ _ _ _ fun _ _ => .applyRd _ _
  | rdr => exact SoundTo.passMsg _ _ _ _ fun _ _ => .applyRdr _ _
  | ack => exact SoundTo.passMsg _ _ _ _ fun _ _ h => (h.applyAck _ _).settle _
  | creditReturn =>
    refine SoundTo.when _ ?_
    split
    · exact .pullPump _ _ (.modPort _ _ (.refl s))
    · exact .refl s
  | lnkPullGo => exact SoundTo.when _ (Sound.pullGo _ (.refl s))
  | pullComplete => exact SoundTo.when _ (Sound.pullFinish _ (.refl s))
  | lossOfSignal => exact SoundTo.when _ (Sound.linkLost _ _ (.refl s))
  | heartbeatTimeout => exact SoundTo.when _ (Sound.linkLost _ _ (.refl s))
  | retryLimit => exact SoundTo.when _ (Sound.linkLost _ _ (.refl s))
  | lnkCtrlWrite => exact SoundTo.when _ (Sound.writeLnkCtrl _ _ (.refl s))
  | phaseDecision => exact SoundTo.when _ (Sound.phaseDecide _ _ (.refl s))
  | poolDecision => exact SoundTo.when _ (Sound.phaseDecide _ _ (.refl s))
  | variantChange => exact SoundTo.when _ (Sound.changeVariant _ (.refl s))
  | currentSample => exact SoundTo.when _ (Sound.currentSample _ (.refl s))
  | junctionSensorSample => exact SoundTo.when _ (Sound.junctionSample _ (.refl s))
  | avsbusRead => exact SoundTo.when _ (Sound.modPower _ (.refl s))
  | powerCapOnset => exact SoundTo.when _ (Sound.capOnset (.refl s))
  | powerCapLift => exact SoundTo.when _ (Sound.capLift (.refl s))
  | thermThrottle => exact SoundTo.when _ (Sound.throttle _ _ (.refl s))
  | throttleLift => exact SoundTo.when _ (Sound.throttleLift (.refl s))
  | thermalTrip => exact SoundTo.when _ (Sound.trip _ _ (.refl s))
  | droopStretch => exact SoundTo.when _ (Sound.droop _ _ (.refl s))
  | droopRestore => exact SoundTo.when _ (Sound.droopEnd _ _ _ _ (.refl s))
  | info => exact SoundTo.next (.serve _ _ (fun _ _ _ => .doInfo _ _) (.refl s))
  | stage => exact SoundTo.next (.serve _ _ (fun _ _ _ => .doStage _ _) (.refl s))
  | recover => exact SoundTo.next (.serve _ _ (fun _ _ _ => .doRecover _ _ _) (.refl s))
  | commit => exact SoundTo.next (.serve _ _ (fun _ _ _ => .doCommit _ _ _) (.refl s))
  | svnAdvance => exact SoundTo.next (.serve _ _ (fun _ _ _ => .doSvn _ _) (.refl s))
  | attest => exact SoundTo.next (.serve _ _ (fun _ _ _ => .doAttest _ _) (.refl s))
  | cert => exact SoundTo.next (.serve _ _ (fun _ _ _ => .doCert _ _) (.refl s))
  | measure => exact SoundTo.next (.serve _ _ (fun _ _ _ => .doMeasure _ _) (.refl s))
  | unmeasure => exact SoundTo.next (.serve _ _ (fun _ _ _ => .doUnmeasure _ _) (.refl s))
  | celKey => exact SoundTo.next (.serve _ _ (fun _ _ _ => .doCelKey _ _) (.refl s))
  | log => exact SoundTo.next (.serve _ _ (fun _ _ _ => .doLog _ _) (.refl s))
  | dbgChallenge => exact SoundTo.next (.serve _ _ (fun _ _ _ => .doChallenge _ _) (.refl s))
  | dbgUnlock => exact SoundTo.next (.serve _ _ (fun _ _ _ => .doUnlock _ _) (.refl s))
  | dbgLock => exact SoundTo.next (.serve _ _ (fun _ _ _ => .doLock _ _) (.refl s))
  | telemetry => exact SoundTo.when _ (Sound.answer7e _ (.refl s))
  | setEndpointId => exact SoundTo.when _ (.answerI3c _ (.modMgmt (.refl s) _ fun _ => rfl))
  | getEndpointId => exact SoundTo.next (.answerI3c _ (.refl s))
  | getMctpVersionSupport => exact SoundTo.next (.answerI3c _ (.refl s))
  | getMessageTypeSupport => exact SoundTo.next (.answerI3c _ (.refl s))
  | logRecord => exact SoundTo.when _ (Sound.writeRecord _ (.refl s))
  | watchdogRestart => exact SoundTo.when _ (Sound.watchdog _ (.refl s))
  | bypass => exact SoundTo.tapAct (.tapBypass (.refl s))
  | idcode => exact SoundTo.tapAct (.setTap _ (.refl s))
  | samplePreload => exact SoundTo.tapAct (.setTap _ (.refl s))
  | extest => exact SoundTo.tapAct (.tapPin _ _ (.refl s))
  | clamp => exact SoundTo.tapAct (.tapPin _ _ (.refl s))
  | highz => exact SoundTo.tapAct (.tapPin _ _ (.refl s))
  | routerGrant => exact SoundTo.when _ (Sound.routerStep _ _ (.refl s))
  | meshAcknowledgement => exact SoundTo.when _ (Sound.takeAck _ (.refl s))
  | configurationRequest => exact SoundTo.when _ (Sound.configure _ _ (.refl s))
  | pcieLinkUp => exact SoundTo.when _ (Sound.modHost _ (.refl s))
  | mailboxCommandComplete => exact SoundTo.when _ (Sound.mbxDone (.refl s))
  | saveRestoreComplete =>
    refine SoundTo.when _ ?_
    split
    · exact .refl s
    · exact .saveDone _ _ (.refl s)
    · exact .restoreDone _ _ _ (.refl s)
  | privateTapInstruction =>
    refine SoundTo.ite ?_ (SoundTo.tapAct (.tapBypass (.refl s)))
    exact fun t h => nomatch h
  | trstNAssertion => exact SoundTo.tapAct (.setTap _ (.refl s))

/-- The memory, the registers and the loft of the state after reset hold no entry. -/
theorem inv_reset : Inv State.reset := ⟨rfl, rfl, rfl⟩

/-- The canonical forms do not speak of the queue. -/
theorem Inv.of_pending {s : State} (h : Inv s) (l : List Instr) : Inv { s with pending := l } := h

/-- Settles O1: both cases of the definition. -/
theorem stepTakesFront : Obligations.StepTakesFront := by
  refine ⟨fun i rest s h => ?_, fun s h => ?_⟩ <;> rw [step, h]

/-- Settles O3. -/
theorem resetSound : Obligations.ResetSound := inv_reset

/-- Settles O4: an empty queue idles; else the step is a command on the state with the queue's rest. -/
theorem stepKeepsSound : Obligations.StepKeepsSound := by
  intro s t hs h
  rcases hq : s.pending with _ | ⟨i, rest⟩
  · rw [stepTakesFront.2 s hq] at h
    cases h
    exact hs
  · rw [stepTakesFront.1 i rest s hq] at h
    exact (SoundTo.exec i _ t h).1 (hs.of_pending rest)

/-- Settles O5. -/
theorem queueAndFusesKept : Obligations.QueueAndFusesKept := fun i s t h => (SoundTo.exec i s t h).2

end Sys2Proof.Machine
end

section
/-! Messages as bytes (R356, R357): where each field of a message stands, and that parsing finds it again. -/

namespace Sys2Proof.Machine
open Sys2Proof

/-! ## The poison bits of a trailer -/

/-- The number whose binary digits are the poison bits, that of the first word lowest. -/
def poisonNat : List Bool → Nat
  | [] => 0
  | b :: r => bn b + 2 * poisonNat r

theorem bn_le_one (b : Bool) : bn b ≤ 1 := by cases b <;> decide

theorem poisonNat_lt (p : List Bool) : poisonNat p < 2 ^ p.length := by
  induction p with
  | nil => simp [poisonNat]
  | cons b r ih =>
    have hb := bn_le_one b
    rw [poisonNat, List.length_cons, Nat.pow_succ]
    omega

theorem testBit_poisonNat (p : List Bool) (i : Nat) : (poisonNat p).testBit i = p.getD i false := by
  induction p generalizing i with
  | nil => simp [poisonNat]
  | cons b r ih =>
    cases i with
    | zero => cases b <;> simp [poisonNat, bn]
    | succ i =>
      have hhalf : (bn b + 2 * poisonNat r) / 2 = poisonNat r := by have := bn_le_one b; omega
      rw [poisonNat, Nat.testBit_succ, hhalf, ih, List.getD_cons_succ]

/-- The sum that a trailer holds, as digits. -/
theorem sum_zipIdx_eq (p : List Bool) (k : Nat) : ((p.zipIdx k).map fun (b, i) => bn b <<< i).sum = 2 ^ k * poisonNat p := by
  induction p generalizing k with
  | nil => simp [poisonNat]
  | cons b r ih =>
    rw [List.zipIdx_cons, List.map_cons, List.sum_cons, ih, poisonNat]
    simp only [Nat.shiftLeft_eq, Nat.pow_succ]
    ring

/-- Bit i of a trailer is the poison of word i: a trailer has room for 256. -/
theorem testBit_trailerBytes (p : List Bool) (h : p.length ≤ 256) (i : Nat) : (leNat (trailerBytes p)).testBit i = p.getD i false := by
  have hlt : poisonNat p < 256 ^ 32 := lt_of_lt_of_le (poisonNat_lt p) (by
    rw [show (256 : Nat) ^ 32 = 2 ^ 256 by norm_num]
    exact Nat.pow_le_pow_right (by decide) h)
  rw [trailerBytes, leNat_toLe, sum_zipIdx_eq, Nat.pow_zero, Nat.one_mul, Nat.mod_eq_of_lt hlt, testBit_poisonNat]

@[simp] theorem length_trailerBytes (p : List Bool) : (trailerBytes p).length = 32 := toLe_length ..

/-! ## The fields of a message's bytes (R356) -/

section
variable (m : Msg) (rest : List Byte)

/-- A run of bytes of a stream that begins with a message. -/
def Msg.field (i n : Nat) : Nat := leNat (((m.bytes ++ rest).drop i).take n)

/-- Flags and status: channel, pm, last, status. -/
def Msg.flags : Nat := m.vc.toNat + bn m.pm <<< 2 + bn m.last <<< 3 + m.status.toNat <<< 4

theorem Msg.flags_eq : m.flags = m.vc.toNat + 4 * bn m.pm + 8 * bn m.last + 16 * m.status.toNat := by
  simp only [Msg.flags, Nat.shiftLeft_eq]
  ring

theorem leNat_of_toLe {l : List Byte} {k n : Nat} (h : l = toLe k n) (hn : n < 256 ^ k) : leNat l = n := by
  rw [h, leNat_toLe, Nat.mod_eq_of_lt hn]

theorem Msg.flags_lt : m.flags < 256 := by
  have hv := m.vc.isLt; have hs := m.status.isLt; have hp := bn_le_one m.pm; have hl := bn_le_one m.last
  rw [m.flags_eq]
  omega

theorem leNat_singleton (b : Byte) : leNat [b] = b.toNat := by simp [leNat]

theorem Msg.field_kind : m.field rest 0 1 = m.kind.toNat := leNat_singleton _
theorem Msg.field_hid : m.field rest 8 1 = m.hid.toNat := leNat_singleton _

theorem Msg.field_flags : m.field rest 1 1 = m.flags := leNat_of_toLe (k := 1) rfl m.flags_lt
theorem Msg.field_gcid : m.field rest 2 2 = m.gcid.toNat := leNat_of_toLe (k := 2) rfl m.gcid.isLt
theorem Msg.field_rid : m.field rest 4 2 = m.rid.toNat := leNat_of_toLe (k := 2) rfl m.rid.isLt
theorem Msg.field_tag : m.field rest 6 2 = m.tag.toNat := leNat_of_toLe (k := 2) rfl m.tag.isLt
theorem Msg.field_off : m.field rest 12 4 = m.off.toNat := leNat_of_toLe (k := 4) rfl m.off.isLt
theorem Msg.field_len : m.field rest 16 1 = m.len.toNat := leNat_of_toLe (k := 1) rfl (by have := m.len.isLt; omega)
theorem Msg.field_sw : m.field rest 20 4 = m.sw.toNat := leNat_of_toLe (k := 4) rfl m.sw.isLt
theorem Msg.field_n : m.field rest 24 4 = m.n.toNat := leNat_of_toLe (k := 4) rfl m.n.isLt
theorem Msg.field_reserved : m.field rest 9 3 = 0 ∧ m.field rest 17 3 = 0 ∧ m.field rest 28 4 = 0 := ⟨rfl, rfl, rfl⟩


/-! ## What the flags say -/

theorem Msg.vc_flags : BitVec.ofNat 2 m.flags = m.vc := by
  apply BitVec.eq_of_toNat_eq
  have hv := m.vc.isLt
  rw [BitVec.toNat_ofNat, m.flags_eq]
  omega

theorem Msg.pm_flags : m.flags.testBit 2 = m.pm := by
  have hv := m.vc.isLt; have hl := bn_le_one m.last
  have hbit : m.flags / 2 ^ 2 % 2 = bn m.pm := by have hp := bn_le_one m.pm; rw [m.flags_eq]; omega
  rw [Nat.testBit_eq_decide_div_mod_eq, hbit]
  cases m.pm <;> rfl

theorem Msg.last_flags : m.flags.testBit 3 = m.last := by
  have hv := m.vc.isLt; have hp := bn_le_one m.pm
  have hbit : m.flags / 2 ^ 3 % 2 = bn m.last := by have hl := bn_le_one m.last; rw [m.flags_eq]; omega
  rw [Nat.testBit_eq_decide_div_mod_eq, hbit]
  cases m.last <;> rfl

theorem Msg.status_flags : m.flags / 16 = m.status.toNat := by
  have hv := m.vc.isLt; have hp := bn_le_one m.pm; have hl := bn_le_one m.last
  rw [m.flags_eq]
  omega

/-! ## Payload and trailer -/

/-- A message without a reserved field, of a known type, with the payload and the poison that its type and length call for. -/
structure Msg.Valid : Prop where
  kind : m.kind ∈ [MSG_WR, MSG_SIG, MSG_RD, MSG_RDR, MSG_ACK]
  good : m.bad = false
  len : m.len.toNat ≤ 32
  gcid : m.gcid.toNat < 0x2000
  status : m.status.toNat ≤ if m.kind = MSG_RDR ∨ m.kind = MSG_ACK then 1 else 0
  pm : m.pm = true → hasPayload m.kind = true
  payload : m.payload.length = if hasPayload m.kind then 64 * m.len.toNat else 0
  poison : m.poison.length = m.payload.length / 8
  unpoisoned : m.pm = false → ∀ b ∈ m.poison, b = false

/-- The bytes behind a message's header: payload, then the trailer. -/
def Msg.tail : List Byte := m.payload ++ if m.pm then trailerBytes m.poison else []

theorem Msg.drop_header : (m.bytes ++ rest).drop 32 = m.tail ++ rest := by
  rw [Msg.tail, List.append_assoc, ← List.append_assoc]
  rfl

theorem Msg.length_bytes : m.bytes.length = 32 + m.tail.length := by
  have h := congrArg List.length (m.drop_header [])
  have hle : 32 ≤ m.bytes.length := by simp [Msg.bytes, toLe_length]; omega
  simp only [List.append_nil, List.length_drop] at h
  omega

variable {m}

theorem Msg.Valid.length_tail (h : m.Valid) : 32 + m.tail.length = msgSize m.kind m.len.toNat m.pm := by
  have hpay := h.payload
  have hpm := h.pm
  rw [Msg.tail, List.length_append, hpay, msgSize]
  cases hp : hasPayload m.kind
  · have hoff : m.pm = false := by simpa [hp] using hpm
    simp [hoff]
  · cases m.pm
    · simp
    · simp; omega

theorem Msg.Valid.drop_all (h : m.Valid) : (m.bytes ++ rest).drop (msgSize m.kind m.len.toNat m.pm) = rest := by
  rw [← h.length_tail, ← m.length_bytes]
  exact List.drop_left

/-- The payload that the parser takes. -/
theorem Msg.Valid.take_payload (h : m.Valid) :
    ((m.bytes ++ rest).drop 32).take (if hasPayload m.kind then 64 * m.len.toNat else 0) = m.payload := by
  rw [m.drop_header, Msg.tail, List.append_assoc, ← h.payload]
  exact List.take_left

/-- The trailer that the parser takes, of a message that has one. -/
theorem Msg.Valid.field_trailer (h : m.Valid) (hpm : m.pm = true) :
    m.field rest (32 + 64 * m.len.toNat) 32 = leNat (trailerBytes m.poison) := by
  have hlen : m.payload.length = 64 * m.len.toNat := by rw [h.payload, if_pos (h.pm hpm)]
  have hdrop : (m.bytes ++ rest).drop (32 + 64 * m.len.toNat) = trailerBytes m.poison ++ rest := by
    rw [← List.drop_drop, m.drop_header, Msg.tail, if_pos hpm, List.append_assoc, ← hlen]
    exact List.drop_left
  rw [Msg.field, hdrop, ← length_trailerBytes m.poison]
  exact congrArg leNat List.take_left

/-- The poison that the parser reads. -/
theorem Msg.Valid.poison_read (h : m.Valid) :
    ((List.range (m.payload.length / 8)).map fun i => m.pm && (m.field rest (32 + 64 * m.len.toNat) 32).testBit i) = m.poison := by
  have hlen := h.len
  have hpois := h.poison
  have hpay : m.payload.length ≤ 64 * m.len.toNat := by rw [h.payload]; split <;> omega
  refine List.ext_getElem (by rw [List.length_map, List.length_range, hpois]) fun i hi hi' => ?_
  rw [List.getElem_map, List.getElem_range]
  cases hpm : m.pm
  · exact (h.unpoisoned hpm _ (List.getElem_mem hi')).symm
  · rw [h.field_trailer rest hpm, testBit_trailerBytes _ (by omega), Bool.true_and, List.getD_eq_getElem _ _ hi']

theorem Msg.Valid.known (h : m.Valid) :
    (m.kind == MSG_WR || m.kind == MSG_SIG || m.kind == MSG_RD || m.kind == MSG_RDR || m.kind == MSG_ACK) = true := by
  simpa [or_assoc] using h.kind

theorem Msg.Valid.status_good (h : m.Valid) :
    (if m.kind == MSG_RDR || m.kind == MSG_ACK then decide (1 < m.flags / 16) else m.flags / 16 != 0) = false := by
  have hs := h.status
  rw [m.status_flags]
  by_cases hr : m.kind = MSG_RDR ∨ m.kind = MSG_ACK
  · rw [if_pos hr] at hs
    rw [if_pos (by simpa using hr)]
    simpa using hs
  · rw [if_neg hr] at hs
    rw [if_neg (by simpa using hr)]
    simpa using hs

/-- Parsing a message's bytes. -/
theorem Msg.Valid.parse (h : m.Valid) : parseMsg (m.bytes ++ rest) = some (m, rest) := by
  have hsize : msgSize m.kind m.len.toNat m.pm ≤ (m.bytes ++ rest).length := by
    rw [List.length_append, m.length_bytes, h.length_tail]
    omega
  have hheader : 32 ≤ (m.bytes ++ rest).length := by rw [List.length_append, m.length_bytes]; omega
  have hlen := m.len.isLt
  obtain ⟨h9, h17, h28⟩ := m.field_reserved rest
  unfold parseMsg
  rw [if_neg (by omega)]
  extract_lets f kind b1 pm len size known status rsp bad body tr
  have hkind : kind = m.kind := by
    rw [show kind = BitVec.ofNat 8 (m.field rest 0 1) from rfl, m.field_kind, BitVec.ofNat_toNat, BitVec.setWidth_eq]
  have hb1 : b1 = m.flags := m.field_flags rest
  have hpm : pm = m.pm := by rw [show pm = b1.testBit 2 from rfl, hb1, m.pm_flags]
  have hlen' : len = m.len.toNat := m.field_len rest
  have hmod : len % 64 = m.len.toNat := by rw [hlen', Nat.mod_eq_of_lt hlen]
  have hsz : size = msgSize m.kind m.len.toNat m.pm := by rw [show size = msgSize kind (len % 64) pm from rfl, hkind, hmod, hpm]
  have hknown : known = true := by
    rw [← h.known, ← hkind]
  have hstatus : (if rsp then decide (1 < status) else status != 0) = false := by
    rw [← h.status_good, ← hkind, ← hb1]
  have hbad : bad = m.bad := by
    have hgcid : f 2 2 / 0x2000 = 0 := by
      rw [show f 2 2 = m.gcid.toNat from m.field_gcid rest]
      exact Nat.div_eq_of_lt h.gcid
    have hl : decide (32 < len) = false := by rw [hlen']; exact decide_eq_false (by have := h.len; omega)
    rw [h.good, show bad = (!known || f 9 3 != 0 || decide (32 < len) || f 17 3 != 0 || f 28 4 != 0 ||
      (if rsp then decide (1 < status) else status != 0) || f 2 2 / 0x2000 != 0) from rfl, hknown, hl, hstatus, hgcid,
      show f 9 3 = 0 from h9, show f 17 3 = 0 from h17, show f 28 4 = 0 from h28]
    rfl
  have hbody : body = m.payload := by
    rw [show body = ((m.bytes ++ rest).drop 32).take (if hasPayload kind then 64 * (len % 64) else 0) from rfl, hkind, hmod,
      h.take_payload]
  have hpoison : ((List.range (body.length / 8)).map fun i => pm && tr.testBit i) = m.poison := by
    rw [show tr = m.field rest (32 + 64 * (len % 64)) 32 from rfl, hbody, hpm, hmod, h.poison_read]
  have hfields : f 2 2 = m.gcid.toNat ∧ f 4 2 = m.rid.toNat ∧ f 6 2 = m.tag.toNat ∧ f 8 1 = m.hid.toNat ∧ f 12 4 = m.off.toNat ∧
      f 20 4 = m.sw.toNat ∧ f 24 4 = m.n.toNat :=
    ⟨m.field_gcid rest, m.field_rid rest, m.field_tag rest, m.field_hid rest, m.field_off rest, m.field_sw rest, m.field_n rest⟩
  obtain ⟨hgcid, hrid, htag, hhid, hoff, hsw, hn⟩ := hfields
  have hstat : BitVec.ofNat 4 status = m.status := by
    rw [show status = b1 / 16 from rfl, hb1, m.status_flags, BitVec.ofNat_toNat, BitVec.setWidth_eq]
  rw [if_neg (by omega), hpoison, hbad, hbody, hkind, hstat, hpm, hb1, m.vc_flags, m.last_flags, hlen', hgcid, hrid, htag, hhid, hoff,
    hsw, hn, hsz, h.drop_all]
  simp only [w32, BitVec.ofNat_toNat, BitVec.setWidth_eq]

end

/-- Settles O50: the fields stand where the parser reads them, and the payload and the trailer fill the rest. -/
theorem messagesRoundTrip : Obligations.MessagesRoundTrip := fun _ rest kind good len gcid status pm payload poison unpoisoned =>
  Msg.Valid.parse rest ⟨kind, good, len, gcid, status, pm, payload, poison, unpoisoned⟩

end Sys2Proof.Machine
end

section
/-! What the operations of a link port leave: messages sent and received, drops, writes through a hatch. -/

namespace Sys2Proof.Machine
open Sys2Proof

section
variable (s : State) (i : PortId) (m : Msg)

@[simp] theorem State.fuses_record (p : Page) (r : Rec) : (s.record p r).mgmt.fuses = s.mgmt.fuses := by
  rw [State.record, State.event_mgmt, State.putCode, State.forward]
  dsimp only [State.modMgmt]
  split <;> rfl

theorem State.sendLink_frame : s.sendLink i m = { s with regs := (s.sendLink i m).regs, ports := (s.sendLink i m).ports } := by
  rw [State.sendLink, State.bump_frame]
  rfl

theorem State.oweCredits_frame : s.oweCredits i m = { s with ports := (s.oweCredits i m).ports } := by
  rw [State.oweCredits]
  split <;> rfl

theorem State.dropMsg_logged (why : Nat) : Logged s (s.dropMsg i m why) := by
  refine .record s ?_ _ _
  rw [State.bump_frame]
  exact regsOnly_trans (s.bump_frame _ _ _) rfl

@[simp] theorem State.fuses_dropMsg (why : Nat) : (s.dropMsg i m why).mgmt.fuses = s.mgmt.fuses := by
  rw [State.dropMsg, State.fuses_record, State.bump_frame, State.bump_frame]

end

end Sys2Proof.Machine
end

section
/-! Hatches confine a partner (R363 to R367): the bytes that a WR may change, and an RD that changes none. -/

namespace Sys2Proof.Machine
open Sys2Proof

/-- From s to t bytes outside a region are as before, and so are the lofts, the fuses and the power manager. -/
structure Confined (region : Nat → Prop) (s t : State) : Prop where
  byte : ∀ a, ¬region a → t.mem.byte a = s.mem.byte a
  loft : t.loft = s.loft
  fuses : t.mgmt.fuses = s.mgmt.fuses
  power : t.power = s.power

section
variable {region : Nat → Prop} {s t u : State}

theorem Confined.refl (s : State) : Confined region s s := ⟨fun _ _ => rfl, rfl, rfl, rfl⟩

theorem Confined.trans (h : Confined region s t) (k : Confined region t u) : Confined region s u where
  byte a ha := (k.byte a ha).trans (h.byte a ha)
  loft := k.loft.trans h.loft
  fuses := k.fuses.trans h.fuses
  power := k.power.trans h.power

/-- A change of registers, cores, mesh and ports. -/
theorem Confined.of_frame (h : t = { s with regs := t.regs, cores := t.cores, mesh := t.mesh, ports := t.ports }) : Confined region s t := by
  rw [h]
  exact ⟨fun _ _ => rfl, rfl, rfl, rfl⟩

theorem Confined.sendLink (h : Confined region s t) (i : PortId) (m : Msg) : Confined region s (t.sendLink i m) :=
  h.trans (.of_frame (by rw [State.sendLink_frame]))

theorem Confined.dropMsg (h : Confined region s t) (i : PortId) (m : Msg) (why : Nat) : Confined region s (t.dropMsg i m why) := by
  refine h.trans ?_
  have hframe := (t.dropMsg_logged i m why).frame
  have hfuses := t.fuses_dropMsg i m why
  generalize t.dropMsg i m why = v at *
  rw [hframe]
  exact ⟨fun _ _ => rfl, rfl, hfuses, rfl⟩

/-- A run written outside the cellar changes its own bytes alone. -/
theorem Confined.pkgWrite (h : Confined region s t) (k : Nat) {a : Nat} {l : List (Byte × Bool)} (hc : inCellar a = false)
    (hin : ∀ b, a ≤ b → b < a + l.length → region b) : Confined region s (t.pkgWrite k a l) := by
  refine h.trans ⟨fun b hb => ?_, ?_, ?_, ?_⟩
  · rw [State.mem_pkgWrite, Mem.byte_write _ _ _ _ _ hc, if_neg fun hr => hb (hin b hr.1 hr.2)]
  all_goals rw [State.pkgWrite_frame]

/-- A link's write outside the cellar changes its own bytes alone. -/
theorem Confined.linkWrite (h : Confined region s t) (i : PortId) {a : Nat} {l : List (Byte × Bool)}
    (hin : ∀ b, a ≤ b → b < a + l.length → inCellar b = false ∧ region b) : Confined region s (t.linkWrite i a l) := by
  have hpieces : Confined region s
      ((splitAtBounds 2048 l.length a l).foldl (fun s p => (s.carryTo (linkBay i) p.1 false).pkgWrite 0 p.1 p.2) t) := by
    refine List.foldlRecOn (motive := Confined region s) _ _ h fun v hv p hp => ?_
    obtain ⟨hne, -⟩ := splitAtBounds_piece (by decide) hp
    obtain ⟨hlo, hhi⟩ := splitAtBounds_within _ _ _ _ p hp
    have hpos := List.length_pos_iff.2 hne
    refine Confined.pkgWrite (hv.trans (.of_frame (by rw [State.carryTo_frame]))) _ (hin p.1 hlo (by omega)).1 fun b hb hb' => ?_
    exact (hin b (by omega) (by omega)).2
  rw [State.linkWrite]
  generalize (splitAtBounds 2048 l.length a l).foldl _ t = v at *
  have htouch : Confined region v (v.touchAt a) := .of_frame (by rw [State.touchAt_frame])
  exact (hpieces.trans htouch).trans (.of_frame (by rw [State.bump_frame]))

end

/-! ## What a hatch maps (R364) -/

section
variable {s : State} {i : PortId} {m : Msg}

/-- The bytes of the open hatches of a port. -/
def State.inHatch (s : State) (i : PortId) (a : Nat) : Prop :=
  ∃ h, s.hatchOpen i h = true ∧ s.hatchBase i h ≤ a ∧ a < s.hatchBase i h + 64 * s.hatchSize i h

/-- The storerooms lie above the cellar. -/
theorem State.base_le_of_sto {a : Nat} {c : CoreId} (h : s.place a = .sto c) : STO_BASE ≤ a := by
  have hout : inCellar a = false := by
    by_contra hin
    obtain hp | ⟨p, hp⟩ := s.place_inCellar (by simpa using hin) <;> simp [hp] at h
  by_contra hlt
  rw [State.place_outside hout] at h
  split_ifs at h with _ hin
  exact hlt hin.1

/-- A run of attic or storeroom bytes is in no cellar window. -/
theorem State.inCellar_of_atticOrSto {a n : Nat} (h : s.atticOrSto a n = true) {b : Nat} (hlo : a ≤ b) (hhi : b < a + n) :
    inCellar b = false := by
  have hattic := s.atticSize_le
  rw [State.atticOrSto] at h
  have hn : (n == 0) = false := by rw [beq_eq_false_iff_ne]; omega
  rw [hn, Bool.false_or] at h
  rw [← Bool.not_eq_true, inCellar_iff]
  simp only [CEL_BASE]
  split at h
  next => simp only [decide_eq_true_eq] at h; omega
  next c hp =>
    have hbase := State.base_le_of_sto hp
    simp only [STO_BASE] at hbase
    omega
  next => cases h

/-- A WR that no check of R365 drops lies in an open hatch. -/
theorem State.inHatch_of_applied (hk : m.kind = MSG_WR) (h : s.hatchDrop i m = none) :
    s.hatchOpen i m.hid.toNat = true ∧ m.off.toNat + m.len.toNat ≤ s.hatchSize i m.hid.toNat := by
  have hsig : (m.kind == MSG_SIG) = false := by rw [hk]; rfl
  have hopen : s.hatchOpen i m.hid.toNat = true := by
    by_contra hclosed
    simp [State.hatchDrop, Bool.eq_false_of_not_eq_true hclosed] at h
  refine ⟨hopen, ?_⟩
  by_contra hlong
  simp only [State.hatchDrop, hopen, hsig, Bool.false_eq_true, if_false, Bool.not_true, if_pos (not_le.1 hlong)] at h
  split at h <;> cases h

/-- A WR is applied within its hatch, or dropped. -/
theorem Confined.applyWr (s : State) (hk : m.kind = MSG_WR) : Confined (s.inHatch i) s (s.applyWr i m) := by
  rw [State.applyWr]
  split
  next why hdrop =>
    exact Confined.sendLink ((Confined.dropMsg (.refl s) i m why).trans (.of_frame rfl)) i _
  next hdrop =>
    obtain ⟨hopen, hsize⟩ := State.inHatch_of_applied hk hdrop
    have hrun : s.atticOrSto (s.hatchBase i m.hid.toNat) (64 * s.hatchSize i m.hid.toNat) = true := by
      simp only [State.hatchOpen, Bool.and_eq_true] at hopen
      exact hopen.2
    refine Confined.sendLink (Confined.trans (Confined.linkWrite (.refl s) i fun b hlo hhi => ?_) (.of_frame rfl)) i _
    have hlen : (withPoison (m.payload.take (64 * m.len.toNat)) m.poison).length ≤ 64 * m.len.toNat := by
      rw [withPoison, List.length_map, List.length_zipIdx, List.length_take]
      exact Nat.min_le_left ..
    exact ⟨State.inCellar_of_atticOrSto hrun (by omega) (by omega), _, hopen, by omega, by omega⟩

/-! ## The commands -/

/-- What a command that passes a message does: nothing, or its action on the message taken. -/
theorem State.passMsg_cases {vc : BitVec 2} {kind : Byte} {f : State → Msg → State} {t : State} (h : s.passMsg i vc kind f = .next t) :
    t = s ∨ ∃ m rest, m.kind = kind ∧
      t = f ((s.modPort i fun p => { p with rxq := p.rxq.set vc.toFin rest }).oweCredits i m) m := by
  rw [State.passMsg] at h
  cases h
  split
  · split
    next m u htake =>
      rw [State.takeMsg] at htake
      split at htake
      next m' rest hq =>
        split at htake
        next hk =>
          cases htake
          exact .inr ⟨_, rest, hk, rfl⟩
        next => cases htake
      next => cases htake
    next => exact .inl rfl
  · exact .inl rfl

/-- The hatches do not depend on a port's buffers. -/
theorem State.inHatch_ports {u : State} (h : u = { s with ports := u.ports }) : u.inHatch i = s.inHatch i := by rw [h]; rfl

/-- Taking a message changes its port alone. -/
theorem State.taken_frame (s : State) (i : PortId) (m : Msg) (f : Port → Port) :
    (s.modPort i f).oweCredits i m = { s with ports := ((s.modPort i f).oweCredits i m).ports } := by
  rw [State.oweCredits_frame]
  rfl

/-- A read through a hatch changes registers, the mesh and its port; a drop is recorded. -/
theorem State.applyRd_frame (s : State) (i : PortId) (m : Msg) : (s.applyRd i m).mem = s.mem ∧ (s.applyRd i m).cores = s.cores ∧
    (s.applyRd i m).loft = s.loft := by
  rw [State.applyRd]
  split
  next why _ =>
    have hdrop := (s.dropMsg_logged i m why).frame
    generalize s.dropMsg i m why = u at *
    rw [State.sendLink_frame, hdrop]
    exact ⟨rfl, rfl, rfl⟩
  next =>
    extract_lets a n d ps
    have hcross : Crossed s ((s.countRun a n 0).carrySpan (linkBay i) a n true) := (Crossed.countRun ..).trans (.carrySpan ..)
    generalize (s.countRun a n 0).carrySpan (linkBay i) a n true = u at *
    rw [State.sendLink_frame, hcross]
    exact ⟨rfl, rfl, rfl⟩

end

/-- Settles O52: a WR is written where its hatch lies, or dropped; an RD reads. -/
theorem hatchesConfine : Obligations.HatchesConfine := by
  refine ⟨fun i ctl s t h => ?write, fun i s t h => ?read⟩
  case write =>
    obtain rfl | ⟨m, rest, hk, rfl⟩ := State.passMsg_cases (f := fun s m => s.applyWr i m) h
    · exact ⟨fun a ha => absurd rfl ha, rfl, rfl, rfl⟩
    · have hframe := s.taken_frame i m fun p => { p with rxq := p.rxq.set (chanOf ctl).toFin rest }
      generalize (s.modPort i _).oweCredits i m = u at *
      obtain ⟨hbyte, hloft, hfuses, hpower⟩ := Confined.applyWr (i := i) u hk
      rw [State.inHatch_ports hframe] at hbyte
      rw [hframe] at hbyte hloft hfuses hpower ⊢
      exact ⟨fun a ha => by by_contra hno; exact ha (hbyte a hno), hloft, hfuses, hpower⟩
  case read =>
    obtain rfl | ⟨m, rest, hk, rfl⟩ := State.passMsg_cases (f := fun s m => s.applyRd i m) h
    · exact ⟨rfl, rfl, rfl⟩
    · have hframe := s.taken_frame i m fun p => { p with rxq := p.rxq.set VC_REQ.toFin rest }
      generalize (s.modPort i _).oweCredits i m = u at *
      obtain ⟨hmem, hcores, hloft⟩ := u.applyRd_frame i m
      exact ⟨hmem.trans (by rw [hframe]), hcores.trans (by rw [hframe]), hloft.trans (by rw [hframe])⟩

end Sys2Proof.Machine
end

section
/-! Recorded events and counters (R411, R413, R454, R460), for every page. -/

namespace Sys2Proof.Machine
open Sys2Proof

section
variable (s : State) (p : Page)

/-- An event latches its bit, whatever it delivers. -/
theorem State.raw_event (b : Nat) : (s.event p b).pg p PG_EVT_RAW = putBits (s.pg p PG_EVT_RAW) b 1 1 := by
  rw [State.event, State.rise]
  split
  · rw [State.pg_deliver (by decide) (by rintro ⟨-, h⟩; exact absurd h (by decide)), State.pg_setField_same]
  · rw [State.pg_setField_same]

theorem State.bit_raw_event (b : Nat) (hb : b < 32) : bit ((s.event p b).pg p PG_EVT_RAW) b = true := by
  rw [State.raw_event, bit_putBits _ _ _ _ _ (by omega)]
  simp

variable (r : Rec)

/-- A recorded event in any page but for the raw bits and the counter of interrupts. -/
theorem State.pg_record_other {q : Page} {o : Nat} (ho : o < 0x1000) (hraw : q ≠ p ∨ o ≠ PG_EVT_RAW)
    (hcnt : ¬(q = .pkg ∧ (o = PG_CNT 3 ∨ o = PG_CNT 3 + 4))) : (s.record p r).pg q o = (s.putCode p r).pg q o :=
  State.pg_event_other ho hcnt hraw

/-- The registers of its page that a recorded event sets. -/
theorem State.record_page : (s.record p r).pg p PG_ERR_CODE = w32 r.code.toNat ∧ (s.record p r).pg p PG_ERR_INFO0 = r.i0 ∧
    (s.record p r).pg p (PG_ERR_INFO0 + 4) = r.i1 ∧ (s.record p r).pg p (PG_ERR_INFO0 + 8) = r.i2 ∧
    (s.record p r).pg p (PG_ERR_INFO0 + 12) = r.i3 ∧ (s.record p r).pg p PG_EVT_RAW = putBits (s.pg p PG_EVT_RAW) 0 1 1 := by
  have hput (o : Nat) (ho : o < 0x40) (hr : o ≠ PG_EVT_RAW) : (s.record p r).pg p o = (s.putCode p r).pg p o :=
    s.pg_record_other p r (by omega) (.inr hr) (by simp only [PG_CNT]; omega)
  refine ⟨?_, ?_, ?_, ?_, ?_, ?raw⟩
  case raw =>
    rw [State.record, State.raw_event, State.pg_putCode _ _ _ _ _ (by decide)]
    simp [PG_EVT_RAW, PG_ERR_INFO0, PG_ERR_CODE, EVT_ERR]
  all_goals
    rw [hput _ (by decide) (by decide), State.pg_putCode _ _ _ _ _ (by decide)]
    simp [PG_ERR_INFO0, PG_ERR_CODE]

/-- The registers that a recorded event leaves. -/
theorem State.pg_record_frame {q : Page} {o : Nat} (ho : o < 0x1000)
    (h : q ≠ p ∨ o < PG_EVT_RAW ∨ (PG_EVT_RAW < o ∧ o < PG_ERR_CODE) ∨ PG_CNT_CTRL ≤ o)
    (hcnt : q ≠ .pkg ∨ (o ≠ PG_CNT 3 ∧ o ≠ PG_CNT 3 + 4)) : (s.record p r).pg q o = s.pg q o := by
  have hraw : q ≠ p ∨ o ≠ PG_EVT_RAW := by
    refine h.imp_right fun h => ?_
    simp only [PG_EVT_RAW, PG_ERR_CODE, PG_CNT_CTRL] at *
    omega
  rw [s.pg_record_other p r ho hraw (by tauto), State.pg_putCode _ _ _ _ _ ho]
  have hne (k : Nat) (h1 : PG_ERR_CODE ≤ k) (h2 : k < PG_CNT_CTRL) : ¬(q = p ∧ o = k) := by
    rintro ⟨hq, rfl⟩
    refine h.elim (fun h => h hq) fun h => ?_
    simp only [PG_EVT_RAW, PG_ERR_CODE, PG_CNT_CTRL] at *
    omega
  rw [if_neg (hne _ (by decide) (by decide)), if_neg (hne _ (by decide) (by decide)), if_neg (hne _ (by decide) (by decide)),
    if_neg (hne _ (by decide) (by decide)), if_neg (hne _ (by decide) (by decide))]

/-- The log's queue of 4,096 takes the record (R454). -/
theorem State.logq_record : (s.record p r).mgmt.logq = if s.mgmt.logq.length < 4096 then
    s.mgmt.logq ++ [{ page := w32 p.base, code := r.code, info := #v[r.i0, r.i1, r.i2, r.i3], wdog := false }] else s.mgmt.logq := by
  rw [State.record, State.event_mgmt, State.putCode, State.forward]
  dsimp only [State.modMgmt, State.setPg_mgmt]
  split <;> rfl

end

/-- Settles O6: an event replaces the five registers of its page's record and sets the raw bit; a counter saturates. -/
theorem recordsAndCounters : Obligations.RecordsAndCounters := by
  refine ⟨fun s p r => ?record, fun s p i n hi hrun => ?counts, fun s p i n hheld => ?held⟩
  case record =>
    refine ⟨s.record_page p r, s.logq_record p r, fun q o ho h hcnt => s.pg_record_frame p r ho h hcnt, ?_⟩
    rw [State.record_frame]
  case held => rw [State.bump, hheld]; rfl
  case counts =>
    by_cases hn : n = 0
    · have hlt := s.pg64_lt p (PG_CNT i)
      rw [State.bump, if_neg (by simp [hn])]
      omega
    · exact State.pg64_bump hi hrun hn

end Sys2Proof.Machine
end

section
/-! The state of a link port, and training (R349, R350, R375, R377). -/

namespace Sys2Proof.Machine
open Sys2Proof

/-! ## LNK_STAT.state -/

section
variable (s : State) (i : PortId)

theorem State.setLnkState_frame (v : Nat) : s.setLnkState i v = { s with regs := (s.setLnkState i v).regs, host := (s.setLnkState i v).host } := by
  rw [State.setLnkState]
  split
  · rfl
  · exact ((Delivered.event (s.setField (.lnk i) LNK_STAT 0 2 v) (.lnk i) EVT_STATE).frame.trans rfl)

/-- The other registers of a port's page, and those of the other pages. -/
theorem State.pg_setLnkState_other (v : Nat) {q : Page} {o : Nat} (ho : o < 0x1000) (h : q ≠ .lnk i ∨ (o ≠ LNK_STAT ∧ o ≠ PG_EVT_RAW))
    (hcnt : q ≠ .pkg ∨ (o ≠ PG_CNT 3 ∧ o ≠ PG_CNT 3 + 4)) : (s.setLnkState i v).pg q o = s.pg q o := by
  rw [State.setLnkState]
  split
  · rfl
  · rw [State.pg_event_other ho (by tauto) (by tauto), State.pg_setField_other _ _ _ _ _ _ _ _ (by decide) ho (by tauto)]

/-- LNK_STAT keeps its other fields. -/
theorem State.stat_setLnkState (v : Nat) : (s.setLnkState i v).pg (.lnk i) LNK_STAT =
    if s.lnkState i = v then s.pg (.lnk i) LNK_STAT else putBits (s.pg (.lnk i) LNK_STAT) 0 2 v := by
  rw [State.setLnkState]
  split
  · rfl
  · rw [State.pg_event_other (by decide) (by rintro ⟨h, -⟩; cases h) (.inr (by decide)), State.pg_setField_same]

theorem State.lnkState_setLnkState {v : Nat} (hv : v < 4) : (s.setLnkState i v).lnkState i = v := by
  rw [State.lnkState, State.stat_setLnkState]
  split
  · assumption
  · rw [bits_putBits_same _ _ _ _ (by decide)]
    exact Nat.mod_eq_of_lt hv

theorem State.field_setLnkState (v : Nat) {lo len : Nat} (hlo : 2 ≤ lo) :
    bits ((s.setLnkState i v).pg (.lnk i) LNK_STAT) lo len = bits (s.pg (.lnk i) LNK_STAT) lo len := by
  rw [State.stat_setLnkState]
  split
  · rfl
  · exact bits_putBits_other _ _ _ _ _ _ (by decide) (.inr hlo)

/-- Of the raw events only the state event is new. -/
theorem State.raw_setLnkState (v : Nat) {b : Nat} (hb : b ≠ EVT_STATE) :
    bit ((s.setLnkState i v).pg (.lnk i) PG_EVT_RAW) b = bit (s.pg (.lnk i) PG_EVT_RAW) b := by
  rw [State.setLnkState]
  split
  · rfl
  · rw [State.raw_event, bit_putBits_other _ _ _ _ _ (by decide) (by simp only [EVT_STATE] at *; omega),
      State.pg_setField_other _ _ _ _ _ _ _ _ (by decide) (by decide) (.inr (by decide))]

end

/-! ## Training -/

section
variable (s : State) (i : PortId) (lanes : Byte) (id : W32)

/-- The port that training ends with, before a degraded link is recorded; `id` is what LNK_PEER_ID shows. -/
def State.trainedUp : State :=
  (((s.modPort i fun _ => Port.trained).setField (.lnk i) LNK_STAT 2 8 lanes.toNat).setPg (.lnk i) LNK_PEER_ID id).setLnkState i LNK_UP

/-- The registers of the port's page that training leaves. -/
theorem State.pg_trainedUp {o : Nat} (ho : o < 0x1000) (h : o ≠ LNK_STAT ∧ o ≠ LNK_PEER_ID ∧ o ≠ PG_EVT_RAW) :
    (s.trainedUp i lanes id).pg (.lnk i) o = s.pg (.lnk i) o := by
  rw [State.trainedUp, State.pg_setLnkState_other _ _ _ ho (.inr ⟨h.1, h.2.2⟩) (.inl (by simp)),
    State.pg_setPg_off _ _ _ _ _ _ (by decide) ho h.2.1, State.pg_setField_other _ _ _ _ _ _ _ _ (by decide) ho (.inr h.1)]
  rfl

theorem State.maxLanes_trainedUp : (s.trainedUp i lanes id).maxLanes i = s.maxLanes i := by
  rw [State.maxLanes, s.pg_trainedUp i lanes id (by decide) (by decide)]
  rfl

variable (peer : W16) (pp : BitVec 4) (hid : id = w32 (peer.toNat + pp.toNat <<< 16 + 1 <<< 31))

include hid in
theorem State.trained_eq : s.trained i lanes peer pp = if laneCount lanes < s.maxLanes i then
    (s.trainedUp i lanes id).record (.lnk i) (mkRec 0x0403 lanes.toNat 0 0 0) else s.trainedUp i lanes id := by
  rw [← s.maxLanes_trainedUp i lanes id, hid]
  rfl

theorem State.trainedUp_frame : s.trainedUp i lanes id =
    { s with ports := (s.trainedUp i lanes id).ports, regs := (s.trainedUp i lanes id).regs,
             host := (s.trainedUp i lanes id).host } := by
  rw [State.trainedUp, State.setLnkState_frame]
  rfl

theorem State.lnkState_trainedUp : (s.trainedUp i lanes id).lnkState i = LNK_UP := State.lnkState_setLnkState _ _ (by decide)

theorem State.lanes_trainedUp : bits ((s.trainedUp i lanes id).pg (.lnk i) LNK_STAT) 2 8 = lanes.toNat := by
  rw [State.trainedUp, State.field_setLnkState _ _ _ (by decide), State.pg_setPg_off _ _ _ _ _ _ (by decide) (by decide) (by decide),
    State.pg_setField_same, bits_putBits_same _ _ _ _ (by decide)]
  exact Nat.mod_eq_of_lt lanes.isLt

theorem State.peer_trainedUp : (s.trainedUp i lanes id).pg (.lnk i) LNK_PEER_ID = id := by
  rw [State.trainedUp, State.pg_setLnkState_other _ _ _ (by decide) (.inr (by decide)) (.inl (by simp)), State.pg_setPg_same]

theorem State.fault_trainedUp : bit ((s.trainedUp i lanes id).pg (.lnk i) PG_EVT_RAW) EVT_FAULT =
    bit (s.pg (.lnk i) PG_EVT_RAW) EVT_FAULT := by
  rw [State.trainedUp, State.raw_setLnkState _ _ _ (by decide), State.pg_setPg_off _ _ _ _ _ _ (by decide) (by decide) (by decide),
    State.pg_setField_other _ _ _ _ _ _ _ _ (by decide) (by decide) (.inr (by decide))]
  rfl

theorem State.ports_trainedUp : (s.trainedUp i lanes id).ports = vmod s.ports i fun _ => Port.trained := by
  rw [State.trainedUp, State.setLnkState_frame]
  rfl

include hid in
/-- A degraded link's record leaves the port, the memory, the cores, LNK_STAT and LNK_PEER_ID. -/
theorem State.trained_keeps {t u : State} (ht : t = s.trained i lanes peer pp) (hu : u = s.trainedUp i lanes id) :
    t.ports = u.ports ∧ t.mem = u.mem ∧ t.cores = u.cores ∧ t.pg (.lnk i) LNK_STAT = u.pg (.lnk i) LNK_STAT ∧
      t.pg (.lnk i) LNK_PEER_ID = u.pg (.lnk i) LNK_PEER_ID := by
  rw [State.trained_eq _ _ _ _ _ _ hid, ← hu] at ht
  split at ht
  · have hreg {o : Nat} (ho : o < 0x1000) (h : PG_CNT_CTRL ≤ o) : t.pg (.lnk i) o = u.pg (.lnk i) o := by
      rw [ht, State.pg_record_frame _ _ _ ho (.inr (.inr (.inr h))) (.inl (by simp))]
    refine ⟨?_, ?_, ?_, hreg (by decide) (by decide), hreg (by decide) (by decide)⟩ <;> rw [ht, State.record_frame]
  · subst ht
    exact ⟨rfl, rfl, rfl, rfl, rfl⟩

end

/-- Settles O46: the port is UP whether or not LINK_DEGRADED is recorded. -/
theorem degradedTraining : Obligations.DegradedTraining := by
  intro i lanes peer pp s hup hstate hen hgroup hmax
  have hexec : exec (.linkTrainingComplete i lanes peer pp) s = .next (s.trained i lanes peer pp) :=
    congrArg Host.Outcome.next (if_pos (by simp [hup, hstate, hen, hgroup, hmax]))
  obtain ⟨id, hid⟩ : ∃ id : W32, id = w32 (peer.toNat + pp.toNat <<< 16 + 1 <<< 31) := ⟨_, rfl⟩
  have hframe := s.trainedUp_frame i lanes id
  obtain ⟨hports, hmem, hcores, hstat, hpeer⟩ := s.trained_keeps i lanes id peer pp hid rfl rfl
  refine ⟨_, hexec, ?state, fun hless => ?degraded, fun hfull => ?full, ?lanes, ?peer, ?port, fun k hk => ?others, ?mem, ?cores⟩
  case state =>
    rw [State.lnkState, hstat]
    exact s.lnkState_trainedUp i lanes id
  case lanes => rw [hstat, State.lanes_trainedUp]
  case peer => rw [hpeer, State.peer_trainedUp, hid]
  case port => simp [hports, State.ports_trainedUp, vmod]
  case others => simp [hports, State.ports_trainedUp, vmod, Fin.val_ne_of_ne hk.symm]
  case mem => rw [hmem, hframe]
  case cores => rw [hcores, hframe]
  case full =>
    rw [State.trained_eq _ _ _ _ _ _ hid, if_neg (by omega), State.pg_trainedUp _ _ _ _ (by decide) (by decide)]
  case degraded =>
    rw [State.trained_eq _ _ _ _ _ _ hid, if_pos hless]
    obtain ⟨hcode, hinfo, -, -, -, hraw⟩ := (s.trainedUp i lanes id).record_page (.lnk i) (mkRec 0x0403 lanes.toNat 0 0 0)
    refine ⟨hcode, hinfo.trans ?_, ?_, ?_⟩
    · exact BitVec.eq_of_toNat_eq (by simp [mkRec, w32])
    · rw [hraw, bit_putBits _ _ _ _ _ (by decide)]; rfl
    · rw [hraw, bit_putBits_other _ _ _ _ _ (by decide) (by decide), State.fault_trainedUp]

end Sys2Proof.Machine
end

section
/-! Flits, messages and pulls at a port (R349 to R369). -/

namespace Sys2Proof.Machine
open Sys2Proof

/-! ## Sending -/

/-- Sending concerns the flits that go out, and the credits that they return. -/
theorem Port.pump_frame (n : Nat) (p : Port) : Port.pump n p =
    { p with txBytes := (Port.pump n p).txBytes, txSeq := (Port.pump n p).txSeq, replay := (Port.pump n p).replay,
             wire := (Port.pump n p).wire, owed := (Port.pump n p).owed } := by
  induction n generalizing p with
  | zero => rfl
  | succ n ih =>
    rw [Port.pump]
    split
    · rfl
    · exact (ih _).trans rfl

/-- Nothing goes out while no message byte waits. -/
theorem Port.pump_of_empty (n : Nat) {p : Port} (h : p.txBytes = []) : Port.pump n p = p := by
  cases n with
  | zero => rfl
  | succ n => rw [Port.pump, if_pos (.inl (by rw [h]; rfl))]

/-! ## Accepting a flit -/

section
variable (p : Port) (f : Flit)

/-- The port with a flit accepted, before message bytes go out in its turn. -/
def Port.taken : Port :=
  { p with rxSeq := p.rxSeq + 1, sendNak := false, replay := dropAcked f.ack p.replay, rxBytes := p.rxBytes ++ f.body,
           nak := if f.nak then some f.ack else p.nak,
           nakRun := if f.nak then (if p.nakRun ≠ 0 ∧ p.nakSeq = f.ack + 1 then p.nakRun + 1 else 1) else 0,
           nakSeq := if f.nak then f.ack + 1 else p.nakSeq,
           creditIn := if f.ccnt != 0 && f.cvc != VC_RSP then p.creditIn ++ [(f.cvc, f.ccnt)] else p.creditIn }

theorem Port.accept_eq : p.accept f = Port.pump 512 (p.taken f) := by
  rw [Port.accept]
  congr 1
  cases hn : f.nak <;> simp only [Port.taken, hn] <;> split <;> simp

theorem Port.accept_frame : p.accept f =
    { p.taken f with txBytes := (p.accept f).txBytes, txSeq := (p.accept f).txSeq, replay := (p.accept f).replay,
                     wire := (p.accept f).wire, owed := (p.accept f).owed } := by
  rw [Port.accept_eq]
  exact Port.pump_frame _ _

theorem Port.accept_of_empty (h : p.txBytes = []) : p.accept f = p.taken f := by
  rw [Port.accept_eq]
  exact Port.pump_of_empty _ h

end

theorem dropAcked_of_mem {a : BitVec 12} {l r : List Flit} {g : Flit} (hg : g.seq = a) (hl : ∀ h ∈ l, h.seq ≠ a) :
    dropAcked a (l ++ g :: r) = r := by
  rw [dropAcked, if_pos (by simp [hg]), List.dropWhile_append_of_pos (by simpa using hl), List.dropWhile_cons_of_neg (by simp [hg])]
  rfl

theorem dropAcked_of_not_mem {a : BitVec 12} {l : List Flit} (hl : ∀ h ∈ l, h.seq ≠ a) : dropAcked a l = l :=
  if_neg (by simpa using hl)

/-- Settles O48: each row is its guard's case, and an accepted flit is `Port.taken` when nothing waits to go out. -/
theorem flits : Obligations.Flits := by
  refine ⟨fun i s hup => ⟨fun f hf => ?receive, fun hnak => ?replay, fun htx hroom => ?idle, fun v n rest hin => ?credit⟩,
    fun p f htx => ?accept⟩
  case receive =>
    have hexec : exec (.flitReceive i f) s = .next (s.receiveFlit i f) := congrArg Host.Outcome.next (if_pos (by simp [hup, hf]))
    have hports : ((s.bump (.lnk i) 3 f.fecCorr).bump (.lnk i) 4 f.fecUncorr).ports = s.ports := by
      rw [State.bump_frame, State.bump_frame]
    simp only [hexec, State.receiveFlit, hports]
    refine ⟨fun hbad => ?_, fun hgood hseq => ?_, fun hgood hseq => ?_⟩
    · rw [if_pos (by simp [hbad])]
    · rw [if_neg (by simp [hgood]), if_pos (by simpa using hseq)]
    · rw [if_neg (by simp [hgood]), if_neg (by simpa using hseq)]
  case replay => exact congrArg Host.Outcome.next (if_pos (by simpa [hup] using Option.isSome_iff_ne_none.2 hnak))
  case idle => exact congrArg Host.Outcome.next (if_pos (by rw [hup, htx, decide_eq_true hroom]; rfl))
  case credit =>
    refine congrArg Host.Outcome.next ((if_pos hup).trans ?_)
    rw [hin]
  case accept =>
    rw [Port.accept_of_empty _ _ htx]
    exact ⟨rfl, rfl, rfl, fun a b g hp hg ha => (congrArg (dropAcked f.ack) hp).trans (dropAcked_of_mem hg ha), dropAcked_of_not_mem, rfl⟩

/-- Settles O49: message bytes that go out leave the count of naks. -/
theorem retryLimit : Obligations.RetryLimit := by
  refine ⟨fun p f => ?_, fun i s hup => ⟨fun h => ?_, fun h => ?_⟩⟩
  · rw [Port.accept_frame]
    exact ⟨fun hn => if_neg (by simp [hn]), fun hn => ⟨if_pos hn, if_pos hn⟩⟩
  · exact congrArg Host.Outcome.next (if_pos (by simpa [hup] using h))
  · exact congrArg Host.Outcome.next (if_neg (by simpa [hup] using h))

/-! ## Messages -/

section
variable {s : State} {i : PortId} (hup : s.portUp i = true) {vc : BitVec 2} {m : Msg} {rest : List Msg}
  (hq : s.ports[i].rxq[vc.toFin] = m :: rest) (kind : Byte) (f : State → Msg → State)
include hup hq

theorem State.passMsg_of_kind (hk : m.kind = kind) : s.passMsg i vc kind f =
    .next (f ((s.modPort i fun p => { p with rxq := p.rxq.set vc.toFin rest }).oweCredits i m) m) := by
  rw [State.passMsg, if_pos hup, State.takeMsg, hq]
  simp only [if_pos hk]

theorem State.passMsg_of_other (hk : m.kind ≠ kind) : s.passMsg i vc kind f = .next s := by
  rw [State.passMsg, if_pos hup, State.takeMsg, hq]
  simp only [if_neg hk]

end

/-- Settles O51: the oldest message of the row's kind is taken; what is done with it follows from `hatchDrop`. -/
theorem linkMessages : Obligations.LinkMessages := by
  refine fun i s hup => ⟨fun ctl m rest hq => ⟨fun hk => ⟨fun hd => ?wr, fun why hd => ?wrMiss⟩,
    fun hk => ⟨fun c hd hc => ?sig, fun why hd => ?sigMiss⟩, s.passMsg_of_other hup hq _ _, s.passMsg_of_other hup hq _ _⟩,
    fun m rest hq hk => s.passMsg_of_kind hup hq _ _ hk,
    fun m rest hq => ⟨fun hk => s.passMsg_of_kind hup hq _ _ hk, fun hk => s.passMsg_of_kind hup hq _ _ hk⟩⟩
  case wr =>
    refine (s.passMsg_of_kind hup hq _ _ hk).trans (congrArg Host.Outcome.next ?_)
    simp only [State.applyWr, hd]
  case wrMiss =>
    refine (s.passMsg_of_kind hup hq _ _ hk).trans (congrArg Host.Outcome.next ?_)
    simp only [State.applyWr, hd]
  case sig =>
    refine (s.passMsg_of_kind hup hq _ _ hk).trans (congrArg Host.Outcome.next ?_)
    simp only [State.applySig, hd, hc]
  case sigMiss =>
    refine (s.passMsg_of_kind hup hq _ _ hk).trans (congrArg Host.Outcome.next ?_)
    simp only [State.applySig, hd, Option.getD_some]

/-! ## LNK_CTRL and pulls -/

section
variable {s : State} (i : PortId)

theorem exec_lnkCtrlWrite (hup : s.pkgUp = true) (hhost : s.hostUp 0 = true) (v : W32) :
    exec (.lnkCtrlWrite 0 i v) s = .next (s.writeLnkCtrl i v) :=
  congrArg Host.Outcome.next (if_pos (by simp [hup, hhost]))

theorem exec_lnkPullGo (hup : s.pkgUp = true) (hhost : s.hostUp 0 = true) : exec (.lnkPullGo 0 i) s = .next (s.pullGo i) :=
  congrArg Host.Outcome.next (if_pos (by simp [hup, hhost]))

theorem exec_pullComplete (hup : s.portUp i = true) : exec (.pullComplete i) s = .next (s.pullFinish i) :=
  congrArg Host.Outcome.next (if_pos hup)

end

/-- Settles O47: the cases of `writeLnkCtrl`, `pullGo` and `pullFinish`. -/
theorem linkRegisterWrites : Obligations.LinkRegisterWrites := by
  refine ⟨fun i v s hup hhost => ?ctrl, fun i s hup => ⟨fun hhost => ?go, fun pl hlink hpull => ?complete⟩⟩
  case ctrl =>
    rw [exec_lnkCtrlWrite i hup hhost]
    refine ⟨fun hen hold => ?_, fun hen hold => ?_, fun hen hst => ?_, fun hen hst => ?_, fun hen hst hst' => ?_, fun fn hfn => ?_⟩
    · simp only [State.writeLnkCtrl, hen, hold, if_pos, Bool.false_eq_true, if_false]
    · simp only [State.writeLnkCtrl, hen, hold, if_pos]
    · simp only [State.writeLnkCtrl, hen, hst, if_pos, Bool.false_eq_true, if_false]
    · simp [State.writeLnkCtrl, hen, hst, LNK_UP, LNK_TRAINING]
    · simp only [State.writeLnkCtrl, hen, hst, hst', Bool.false_eq_true, if_false]
    · exact congrArg Host.Outcome.next (if_neg (by simp [hfn]))
  case go =>
    rw [exec_lnkPullGo i hup hhost]
    refine ⟨fun hbusy => ?_, fun hidle hbad => ?_, fun hidle hgood hdown => ?_, fun hidle hgood hlink => ?_⟩
    · rw [State.pullGo, if_pos hbusy]
    · have hbad' := congrArg (!·) hbad
      simp only [Bool.not_and, Bool.not_not, Bool.not_false] at hbad'
      rw [State.pullGo, if_neg (by simp [hidle]), if_pos (by simpa using hbad')]
    · have hgood' := congrArg (!·) hgood
      simp only [Bool.not_and, Bool.not_not, Bool.not_true] at hgood'
      rw [State.pullGo, if_neg (by simp [hidle]), if_neg (by simpa using hgood'), if_pos (by simp [hdown])]
    · have hgood' := congrArg (!·) hgood
      simp only [Bool.not_and, Bool.not_not, Bool.not_true] at hgood'
      rw [State.pullGo, if_neg (by simp [hidle]), if_neg (by simpa using hgood'), if_neg (by simp [hlink])]
  case complete =>
    rw [exec_pullComplete i (show s.portUp i = true by rw [State.portUp, hup, hlink]; rfl), State.pullFinish, hpull]
    refine ⟨fun hall hout => ?_, fun hopen => ?_⟩
    · simp only [hall, hout, and_self, if_true]
    · simp only [if_neg fun h : pl.total ≤ pl.asked ∧ pl.out = [] => hopen.elim h.1.not_gt (· h.2)]

end Sys2Proof.Machine
end

section
/-! The choice of a variant (R385, R387). -/

namespace Sys2Proof.Machine
open Sys2Proof

/-! ## The first and the last of an ascending list -/

section
variable {l : List (Fin 4)} (hl : l.Pairwise (· < ·)) {v : Fin 4} (hv : v ∈ l)
include hl hv

theorem find?_of_ascending {p : Fin 4 → Bool} (hp : p v = true) (hfirst : ∀ u ∈ l, u < v → p u = false) : l.find? p = some v := by
  obtain ⟨as, bs, rfl⟩ := List.append_of_mem hv
  obtain ⟨-, -, hlt⟩ := List.pairwise_append.1 hl
  exact List.find?_eq_some_iff_append.2 ⟨hp, as, bs, rfl, fun u hu => by
    rw [hfirst u (List.mem_append_left _ hu) (hlt u hu v List.mem_cons_self)]; rfl⟩

theorem getLast?_of_ascending (hlast : ∀ u ∈ l, u ≤ v) : l.getLast? = some v := by
  obtain ⟨as, bs, rfl⟩ := List.append_of_mem hv
  obtain ⟨-, htail, -⟩ := List.pairwise_append.1 hl
  cases bs with
  | nil => exact List.getLast?_concat
  | cons u us =>
    exact absurd (hlast u (by simp)) ((List.pairwise_cons.1 htail).1 u List.mem_cons_self).not_ge

end

/-! ## Candidates -/

section
variable (s : State) (e : PhaseEntry)

/-- R387 lists the variants in the order V0 to V3. -/
theorem ascending_filter (p : Fin 4 → Bool) : ((List.finRange 4).filter p).Pairwise (· < ·) :=
  (List.pairwise_lt_finRange 4).filter p

theorem offers_iff (v : Fin 4) : offers e v = true ↔ (if e.offer = 0 then v = 0 else e.offer.getLsbD v.val = true) ∧ e.dur[v] ≠ 0 := by
  rw [offers, Bool.and_eq_true, bne_iff_ne]
  split <;> simp

/-- PWR_VALLOW and the throttle or cap let variant v run. -/
theorem State.allowed_iff (v : Fin 4) :
    (s.vallow v && (!s.capped || decide (2 ≤ v.val))) = true ↔ s.vallow v = true ∧ (s.capped = true → 2 ≤ v.val) := by
  cases s.capped <;> simp

theorem State.mem_candidates (v : Fin 4) :
    v ∈ s.candidates e ↔ offers e v = true ∧ s.vallow v = true ∧ (s.capped = true → 2 ≤ v.val) := by
  rw [← s.allowed_iff, ← Bool.and_eq_true, ← Bool.and_assoc, State.candidates, List.mem_filter]
  simp only [List.mem_finRange, true_and]

theorem State.slowestAllowed_of_last {v : Fin 4} (hv : s.vallow v = true ∧ (s.capped = true → 2 ≤ v.val))
    (hlast : ∀ u, (s.vallow u = true ∧ (s.capped = true → 2 ≤ u.val)) → u ≤ v) : s.slowestAllowed = v := by
  rw [State.slowestAllowed, getLast?_of_ascending (ascending_filter _) (List.mem_filter.2 ⟨List.mem_finRange v, (s.allowed_iff v).2 hv⟩)
    fun u hu => hlast u ((s.allowed_iff u).1 (List.mem_filter.1 hu).2)]
  rfl

theorem State.slowestAllowed_of_none (h : ∀ v, ¬(s.vallow v = true ∧ (s.capped = true → 2 ≤ v.val))) : s.slowestAllowed = 3 := by
  rw [State.slowestAllowed, List.filter_eq_nil_iff.2 fun v _ hv => h v ((s.allowed_iff v).1 hv)]
  rfl

end

/-! ## The projected power -/

section
variable (s : State) (m : W64)

theorem State.maskPower_eq : s.maskPower m = ((List.finRange 64).map fun c => if m.getLsbD c.val then s.power.pCore c else 0).sum := by
  rw [State.maskPower, List.sum_eq_foldl, List.foldl_map]
  congr 1
  funext n c
  cases h : m.getLsbD c.val <;> simp only [maskHas, h, Bool.false_eq_true, if_false, if_true, Nat.add_zero]

theorem State.choose_of_nil {e : PhaseEntry} (h : s.candidates e = []) : s.choose m e = (s.slowestAllowed, s.emptyCause e, false) := by
  rw [State.choose, h]
  rfl

end

/-- Settles O55: the candidates ascend from V0 to V3, so that `find?` gives the fastest that fits and `getLast?` the slowest. -/
theorem choosesVariants : Obligations.ChoosesVariants := by
  intro s m e
  have hasc : (s.candidates e).Pairwise (· < ·) := ascending_filter _
  refine ⟨fun v => ?candidate, fun v => ?fits, fun v hv hfit hfirst => ?first, fun v hv hnone hlast => ?slowest,
    fun hnil v hv hlast => ?allowed, fun hnil hnone => ?v3⟩
  case candidate => rw [State.mem_candidates, offers_iff]
  case fits => rw [State.fits, decide_eq_true_iff, State.maskPower_eq]; push_cast; rfl
  case first => rw [State.choose, find?_of_ascending hasc hv hfit hfirst]
  case slowest =>
    rw [State.choose, List.find?_eq_none.2 fun u hu => by simp [hnone u hu], getLast?_of_ascending hasc hv hlast]
  case allowed => rw [s.choose_of_nil m hnil]; exact s.slowestAllowed_of_last hv hlast
  case v3 => rw [s.choose_of_nil m hnil]; exact s.slowestAllowed_of_none hnone

end Sys2Proof.Machine
end

section
/-! Register reads by the host: where a read goes, and the reads that change state (R13, R241, R244, R288, R400, R411). -/

namespace Sys2Proof.Machine
open Sys2Proof

/-! ## Where a read goes -/

section
variable {fn : FnId} {s : State} {p : Page} {o : Nat}

theorem exec_read (hup : s.hostUp fn = true) (off : BitVec 26) (size : Nat) :
    exec (.highHalfLatchRead fn off size) s = .next (s.readBar0 fn off.toNat size) :=
  congrArg Host.Outcome.next (if_pos hup)

/-- Four aligned bytes are one register. -/
theorem readBar0_four (s : State) (fn : FnId) (p : Page) (h4 : o % 4 = 0) : s.readBar0 fn (p.base + o) 4 =
    (s.readReg fn (p.base + o)).1.reply (dataCpl (toLe 4 (s.readReg fn (p.base + o)).2.toNat)) := by
  have := pageBase_mod p
  rw [State.readBar0, if_pos ⟨rfl, by omega⟩]

theorem exec_read_four (hup : s.hostUp fn = true) (ho : o < 0x1000) (h4 : o % 4 = 0) :
    exec (.highHalfLatchRead fn (BitVec.ofNat 26 (p.base + o)) 4) s =
      .next ((s.readReg fn (p.base + o)).1.reply (dataCpl (toLe 4 (s.readReg fn (p.base + o)).2.toNat))) := by
  rw [exec_read hup, toNat_pageOffset p o ho, readBar0_four s fn p h4]

variable (hrec : s.recovery = false) (hp : s.pageThere p = true) (hm : s.mayRead fn p o = true) (ho : o < 0x1000)
include hrec hp hm ho

/-- A high half that its low half has latched (R13). -/
theorem readReg_latched {v : W32} (hhigh : (s.high.find? fun e => e.1 == p.base + o) = some (p.base + o, v)) :
    s.readReg fn (p.base + o) = ({ s with high := s.high.filter fun e => e.1 != p.base + o }, v) := by
  have := pageBase_range p
  rw [State.readReg, if_neg (by simp [hrec]), if_neg (by omega), if_neg (by omega), pageAt_base p o ho]
  simp only [hp, hm, hhigh, Bool.not_true, Bool.or_self, Bool.false_eq_true, if_false]

/-- A register whose value is not latched. -/
theorem readReg_shown (hhigh : (s.high.find? fun e => e.1 == p.base + o) = none) :
    s.readReg fn (p.base + o) =
      (if lowHalf p o then
        { s.readEffect p o with
          high := (p.base + o + 4, s.shown p (o + 4)) :: (s.readEffect p o).high.filter fun e => e.1 != p.base + o + 4 }
       else s.readEffect p o, s.shown p o) := by
  have := pageBase_range p
  rw [State.readReg, if_neg (by simp [hrec]), if_neg (by omega), if_neg (by omega), pageAt_base p o ho]
  simp only [hp, hm, hhigh, Bool.not_true, Bool.or_self, Bool.false_eq_true, if_false]

/-- A register that is no low half, read as four bytes. -/
theorem readBar0_shown (hhigh : (s.high.find? fun e => e.1 == p.base + o) = none) (hlow : lowHalf p o = false) (h4 : o % 4 = 0) :
    s.readBar0 fn (p.base + o) 4 = (s.readEffect p o).reply (dataCpl (toLe 4 (s.shown p o).toNat)) := by
  rw [readBar0_four s fn p h4, readReg_shown hrec hp hm ho hhigh, hlow]
  rfl

end

/-- A register set, and the read answered. -/
theorem State.reply_setPg (s : State) (p : Page) (o : Nat) (v : W32) (c : Cpl) :
    (s.setPg p o v).reply c = { s.setPg p o v with host := { s.host with cpl := [c] } } := rfl

/-! ## PG_ERR_CODE (R411) -/

section
variable (s : State) (p : Page)

/-- The details of a page's code. -/
def State.details : Vector W32 4 :=
  #v[s.pg p PG_ERR_INFO0, s.pg p (PG_ERR_INFO0 + 4), s.pg p (PG_ERR_INFO0 + 8), s.pg p (PG_ERR_INFO0 + 12)]

theorem State.details_get (i : Fin 4) : (s.details p)[i] = s.pg p (PG_ERR_INFO0 + 4 * i.val) := by
  match i with
  | 0 | 1 | 2 | 3 => rfl

theorem readEffect_errCode : s.readEffect p PG_ERR_CODE =
    { s with info := (p.base, s.details p) :: s.info.filter fun e => e.1 != p.base }.setPg p PG_ERR_CODE 0 := rfl

theorem shown_errCode : s.shown p PG_ERR_CODE = s.pg p PG_ERR_CODE := rfl

theorem lowHalf_errCode : lowHalf p PG_ERR_CODE = false := by cases p <;> rfl

variable {s p}

/-- Latched details are what software reads. -/
theorem State.errInfo_of_latched {v : Vector W32 4} {l : List (Nat × Vector W32 4)} (h : s.info = (p.base, v) :: l) (i : Fin 4) :
    s.errInfo p i = v[i] := by
  rw [State.errInfo, h, List.find?_cons_of_pos (by simp)]

end

/-! ## Low halves (R13) -/

/-- The storeroom's and the finishing unit's pages hold no 64-bit quantity but their counters. -/
theorem readEffect_lowHalf (s : State) {p : Page} {o : Nat} (h : lowHalf p o = true) : s.readEffect p o = s := by
  have hcode : o ≠ PG_ERR_CODE := by
    rintro rfl
    rw [lowHalf_errCode] at h
    cases h
  have hrun (hout : inRun o 0x40 8 24 = true) : o < 0x100 := by
    simp [inRun] at hout
    omega
  unfold State.readEffect
  rw [if_neg hcode]
  cases p with
  | sto c =>
    have := hrun (by simpa [lowHalf] using h)
    exact if_neg (by simp only [STO_CE_ADDR]; omega)
  | fu c =>
    have := hrun (by simpa [lowHalf] using h)
    have hno : inRun o 0x40C 16 64 = false := by simp [inRun]; omega
    simp only [hno, Bool.false_eq_true, if_false]
  | _ => rfl

/-! ## FU_MON_STAT (R241, R244) -/

section
variable (s : State) (c : CoreId) (n : Fin 64)

/-- What a read of a monitor's STAT latches. -/
def State.monLatchOf : MonLatch :=
  { n := n.val, usq := s.monOld c n.val 0, wsq := s.monOld c n.val 1, ratio := s.monOld c n.val 2,
    fresh := ((s.core c).monNew n.val).isNone }

/-- The state with a monitor's values latched. -/
def State.monRead : State :=
  s.modCore c fun k => { k with monLatch := s.monLatchOf c n :: k.monLatch.filter fun e => e.n != n.val
                                monAc := k.monAc.map fun o => if o.n = n.val then { o with latched := true } else o }

theorem readEffect_monStat : s.readEffect (.fu c) (FU_MON_STAT n.val) = s.monRead c n := by
  have hrun : inRun (FU_MON_STAT n.val) 0x40C 16 64 = true := inRun_of 0x40C 16 64 n.val n.isLt (by decide)
  have hidx : (FU_MON_STAT n.val - 0x40C) / 16 = n.val := by simp only [FU_MON_STAT]; omega
  rw [State.readEffect, if_neg (by simp only [FU_MON_STAT, PG_ERR_CODE]; omega)]
  simp only [hrun, hidx, if_true]
  rfl

theorem shown_monStat : s.shown (.fu c) (FU_MON_STAT n.val) = s.monOld c n.val 3 := by
  have hrun : inRun (FU_MON_STAT n.val) 0x400 4 256 = true := by
    rw [show FU_MON_STAT n.val = 0x400 + 4 * (4 * n.val + 3) by simp only [FU_MON_STAT]; omega]
    exact inRun_of 0x400 4 256 _ (by omega) (by decide)
  have hidx : (FU_MON_STAT n.val - 0x400) / 16 = n.val := by simp only [FU_MON_STAT]; omega
  have hfield : (FU_MON_STAT n.val - 0x400) / 4 % 4 = 3 := by simp only [FU_MON_STAT]; omega
  rw [State.shown, if_neg (by simp only [FU_MON_STAT]; omega)]
  simp only [State.blockShown, hrun, hidx, hfield, if_true]

theorem lowHalf_monStat : lowHalf (.fu c) (FU_MON_STAT n.val) = false := by
  refine Bool.eq_false_iff.2 fun h => ?_
  simp [lowHalf, inRun, FU_MON_STAT] at h
  omega

theorem monRead_frame : s.monRead c n = s.modCore c fun k =>
    { k with monLatch := ((s.monRead c n).core c).monLatch, monAc := ((s.monRead c n).core c).monAc } := by
  refine congrArg (fun v => { s with cores := v }) ?_
  rw [State.monRead, State.core_modCore]
  rfl

/-- An OPT of this ac on the monitor counts as read. -/
theorem monNew_monRead : (((s.monRead c n).core c).monNew n.val).all (·.latched) = true := by
  rw [State.monRead, State.core_modCore, Core.monNew, Option.all_eq_true]
  intro o ho
  obtain ⟨e, -, rfl⟩ := List.mem_map.1 (List.mem_of_find?_eq_some ho)
  have hn := List.find?_some ho
  by_cases he : e.n = n.val
  · rw [if_pos he]
  · rw [if_neg he] at hn
    exact absurd (by simpa using hn) he

theorem monShown_monRead {f : Nat} (hf : f < 3) : (s.monRead c n).monShown c n.val f = s.monOld c n.val f := by
  have hlatch : (((s.monRead c n).core c).monLatch.find? fun e => e.n == n.val) = some (s.monLatchOf c n) := by
    rw [State.monRead, State.core_modCore, List.find?_cons_of_pos (by simp [State.monLatchOf])]
  rw [State.monShown, hlatch]
  simp only [if_pos (monNew_monRead s c n)]
  match f, hf with
  | 0, _ | 1, _ | 2, _ => rfl

variable {s c n}

theorem monOld_of_live (h : ∀ o ∈ (s.core c).monAc, o.n ≠ n.val) (f : Nat) :
    s.monOld c n.val f = s.pg (.fu c) (FU_MON_USQ n.val + 4 * f) := by
  rw [State.monOld, Core.monNew, List.find?_eq_none.2 fun o ho => by simpa using h o ho]

theorem monOld_of_opt {o : MonOld} (h : (s.core c).monAc.find? (fun o => o.n == n.val) = some o) (f : Nat) :
    s.monOld c n.val f = if f = 0 then o.usq else if f = 1 then o.wsq else if f = 2 then o.ratio else o.stat := by
  rw [State.monOld, Core.monNew, h]

end

/-! ## STO_CE_ADDR (R288) -/

theorem lowHalf_correctable (c : CoreId) : lowHalf (.sto c) STO_CE_ADDR = false := rfl

theorem shown_correctable (s : State) (c : CoreId) : s.shown (.sto c) STO_CE_ADDR = s.pg (.sto c) STO_CE_ADDR := rfl

theorem readEffect_correctable (s : State) (c : CoreId) : s.readEffect (.sto c) STO_CE_ADDR = s.setPg (.sto c) STO_CE_ADDR 0 := rfl

/-- Settles O12: each read by `readReg`, then by what it shows and what it changes. -/
theorem readsWithEffects : Obligations.ReadsWithEffects := by
  refine fun fn s hup hrec => ⟨fun p hp hm hhigh => ?errCode, fun p o ho h4 hp hm hlow hhigh => ?low,
    fun p o v ho h4 hp hm hhigh => ?high, fun off size h4 h8 => ?misaligned, fun c n hen hm hhigh => ?monitor,
    fun c hen hm hhigh => ?correctable⟩
  case errCode =>
    have hexec : exec (.pgErrCodeRead fn p) s = .next ((s.readEffect p PG_ERR_CODE).reply (dataCpl (toLe 4 (s.pg p PG_ERR_CODE).toNat))) := by
      rw [← shown_errCode, ← readBar0_shown hrec hp hm (by decide) hhigh (lowHalf_errCode p) (by decide)]
      exact congrArg Host.Outcome.next (if_pos hup)
    rw [readEffect_errCode] at hexec
    refine ⟨_, hexec, rfl, State.pg_setPg_same .., fun i => ?_, fun r i => ?_, rfl⟩
    · exact (State.errInfo_of_latched rfl i).trans (s.details_get p i)
    · refine (State.errInfo_of_latched (l := s.info.filter fun e => e.1 != p.base) ?_ i).trans (s.details_get p i)
      rw [State.record_frame]
      rfl
  case low =>
    refine ⟨_, exec_read_four hup ho h4, ?_⟩
    rw [readReg_shown hrec hp hm ho hhigh, if_pos hlow, readEffect_lowHalf s hlow]
    exact ⟨rfl, List.find?_cons_of_pos (by simp), rfl⟩
  case high =>
    rw [exec_read_four hup ho h4, readReg_latched hrec hp hm ho hhigh]
    rfl
  case misaligned =>
    rw [exec_read hup, State.readBar0, if_neg h4, if_neg h8]
    rfl
  case monitor =>
    have hp : s.pageThere (.fu c) = true := by simp [State.pageThere, Page.core?, hen, hrec]
    have hexec : exec (.fuMonStatRead fn c n) s = .next ((s.monRead c n).reply (dataCpl (toLe 4 (s.monOld c n.val 3).toNat))) := by
      rw [← shown_monStat, ← readEffect_monStat, ← readBar0_shown hrec hp hm (by simp only [FU_MON_STAT]; omega) hhigh (lowHalf_monStat c n)
        (by simp only [FU_MON_STAT]; omega)]
      exact congrArg Host.Outcome.next (if_pos hup)
    refine ⟨_, hexec, rfl, fun f hf => monShown_monRead s c n hf, fun hno => ?_, fun o ho => ?_, ?_⟩
    · have hreg (k : Nat) : FU_MON_USQ n.val + k = 0x400 + k + 16 * n.val := Nat.add_right_comm ..
      rw [monOld_of_live hno, monOld_of_live hno, monOld_of_live hno, monOld_of_live hno, hreg, hreg, hreg, hreg]
      exact ⟨rfl, rfl, rfl, rfl⟩
    · exact ⟨monOld_of_opt ho 0, monOld_of_opt ho 1, monOld_of_opt ho 2, monOld_of_opt ho 3⟩
    · exact (congrArg (fun u : State => u.reply _) (monRead_frame s c n)).trans rfl
  case correctable =>
    have hp : s.pageThere (.sto c) = true := by simp [State.pageThere, Page.core?, hen, hrec]
    have hexec : exec (.stoCeAddrRead fn c) s = .next ((s.readEffect (.sto c) STO_CE_ADDR).reply
        (dataCpl (toLe 4 (s.pg (.sto c) STO_CE_ADDR).toNat))) := by
      rw [← shown_correctable, ← readBar0_shown hrec hp hm (by decide) hhigh (lowHalf_correctable c) (by decide)]
      exact congrArg Host.Outcome.next (if_pos hup)
    rw [hexec, readEffect_correctable, State.reply_setPg]

end Sys2Proof.Machine
end

section
/-! What the shared operations leave of the links and of the host's functions: the ports and their registers, the transactions and queued
commands of the DMA (none is new), and of the host interface all but the vectors sent and pending. -/

namespace Sys2Proof.Machine
open Sys2Proof

/-! ## The host interface under interrupts (R409) -/

/-- t is s after vectors have been sent or held back: one is pending only for a function whose MSI-X is enabled. -/
structure Signalled (s t : HostIf) : Prop where
  frame : t = { s with pba := t.pba, msixSent := t.msixSent }
  pending : ∀ e ∈ t.pba, e ∈ s.pba ∨ ∃ f : FnId, (s.fns[f]).msixEn = true ∧ e / 128 = f.val

namespace Signalled
variable {s t u : HostIf}

theorem refl (s : HostIf) : Signalled s s := ⟨rfl, fun _ he => .inl he⟩

theorem fns (h : Signalled s t) : t.fns = s.fns := by rw [h.frame]

theorem trans (h : Signalled s t) (k : Signalled t u) : Signalled s u where
  frame := by
    have e := k.frame
    rw [h.frame] at e
    exact e
  pending e he := by
    rcases k.pending e he with hold | ⟨f, hen, hf⟩
    · exact h.pending e hold
    · exact .inr ⟨f, by rwa [← h.fns], hf⟩

/-- One vector of a function. -/
theorem put {f : FnId} {v : Nat} (hen : (s.fns[f]).msixEn = true) (hv : v < 128) (on : Bool) (l : List MsixMsg) :
    Signalled s { s with pba := nsPut (128 * f.val + v) on s.pba, msixSent := l } where
  frame := rfl
  pending e he := by
    have hmem := (nsPut_mem ..).1 he
    split at hmem
    next heq => exact .inr ⟨f, hen, by omega⟩
    next => exact .inl hmem

end Signalled

theorem Signalled.sendVector (s : State) (f : FnId) {v : Nat} (hv : v < 128) : Signalled s.host (s.sendVector f v).host := by
  unfold State.sendVector
  dsimp only
  split
  · exact .refl _
  next hen =>
    have hen' : (s.host.fns[f]).msixEn = true := by simpa using hen
    split
    · exact .put hen' hv true s.host.msixSent
    · rw [State.bump_frame]
      exact .put hen' hv false _

theorem Signalled.deliver (s : State) (n : Nat) : Signalled s.host (s.deliver n).host := by
  unfold State.deliver
  dsimp only
  split
  · exact .sendVector s _ (bits_lt _ 0 7)
  · exact .refl _

theorem Signalled.event (s : State) (p : Page) (b : Nat) : Signalled s.host (s.event p b).host := by
  unfold State.event State.rise
  split
  · exact .deliver (s.setField p PG_EVT_RAW b 1 1) p.source
  · exact .refl s.host

/-! ## The relation -/

/-- t is s but for what no link port and no function of the host sees. -/
structure Inward (s t : State) : Prop where
  ports : t.ports = s.ports
  lnk : ∀ (i : PortId) (o : Nat), o < 0x1000 → t.pg (.lnk i) o = s.pg (.lnk i) o
  txns : ∀ (c : CoreId), ∀ x ∈ (t.core c).txns, ∃ y ∈ (s.core c).txns, y.body = x.body
  queue : ∀ (c : CoreId) (q : QId), ∀ j ∈ ((t.core c).dmaq[q]).queue, j ∈ ((s.core c).dmaq[q]).queue
  host : Signalled s.host t.host

namespace Inward
variable {s t : State}

theorem refl (s : State) : Inward s s :=
  ⟨rfl, fun _ _ _ => rfl, fun _ x hx => ⟨x, hx, rfl⟩, fun _ _ _ hj => hj, .refl _⟩

theorem trans {u : State} (h : Inward s t) (k : Inward t u) : Inward s u where
  ports := k.ports.trans h.ports
  lnk i o ho := (k.lnk i o ho).trans (h.lnk i o ho)
  txns c x hx := by
    obtain ⟨y, hy, hyx⟩ := k.txns c x hx
    obtain ⟨z, hz, hzy⟩ := h.txns c y hy
    exact ⟨z, hz, hzy.trans hyx⟩
  queue c q j hj := h.queue c q j (k.queue c q j hj)
  host := h.host.trans k.host

/-- A change of none of these. -/
theorem set {u : State} (h : Inward s t) (hp : u.ports = t.ports) (hr : u.regs = t.regs) (hc : u.cores = t.cores) (hh : u.host = t.host) :
    Inward s u := by
  refine h.trans ⟨hp, fun i o _ => ?_, fun c x hx => ⟨x, ?_, rfl⟩, fun c q j hj => ?_, by rw [hh]; exact .refl _⟩
  · rw [State.pg, State.reg, hr]; rfl
  · rwa [State.core, hc] at hx
  · rwa [State.core, hc] at hj

theorem setFree (h : Inward s t) (n : Nat) : Inward s { t with free := n } := h.set rfl rfl rfl rfl

theorem modPower (h : Inward s t) (f : Power → Power) : Inward s (t.modPower f) := h.set rfl rfl rfl rfl

theorem foldl {β : Type} {f : State → β → State} (hf : ∀ t b, Inward s t → Inward s (f t b)) (l : List β) (h : Inward s t) :
    Inward s (l.foldl f t) := foldl_keeps (Inward s) f hf l t h

/-! ## Registers -/

/-- A change of registers that are on no port's page. -/
theorem setRegs {u : State} (h : Inward s t) (hu : u = { t with regs := u.regs })
    (hr : ∀ (i : PortId) (o : Nat), o < 0x1000 → u.pg (.lnk i) o = t.pg (.lnk i) o) : Inward s u := by
  refine h.trans ⟨by rw [hu], hr, fun c x hx => ⟨x, ?_, rfl⟩, fun c q j hj => ?_, ?_⟩
  · rw [hu] at hx; exact hx
  · rw [hu] at hj; exact hj
  · rw [hu]; exact .refl _

section
variable {p : Page} {o : Nat}

theorem setPg (h : Inward s t) (v : W32) (hp : ∀ i, .lnk i ≠ p := by nofun) (ho : o < 0x1000 := by decide) : Inward s (t.setPg p o v) :=
  h.setRegs rfl fun i _ ho' => State.pg_setPg_page _ _ _ _ _ _ ho ho' (hp i)

theorem setPg64 (h : Inward s t) (v : Nat) (hp : ∀ i, .lnk i ≠ p := by nofun) (ho : o + 4 < 0x1000 := by decide) :
    Inward s (t.setPg64 p o v) := (h.setPg _ hp (by omega)).setPg _ hp ho

theorem bump (h : Inward s t) {i : Nat} (n : Nat) (hp : ∀ i, .lnk i ≠ p := by nofun) (hi : i < 24 := by decide) : Inward s (t.bump p i n) :=
  h.setRegs (State.bump_frame ..) fun k _ ho' => State.pg_bump _ _ _ _ _ _ hi ho' (.inl (hp k))

theorem event (h : Inward s t) (b : Nat) (hp : ∀ i, .lnk i ≠ p := by nofun) : Inward s (t.event p b) := by
  have hframe := (Delivered.event t p b).frame
  refine h.trans ⟨by rw [hframe]; rfl, fun i o ho => ?_, fun c x hx => ⟨x, ?_, rfl⟩, fun c q j hj => ?_, .event t p b⟩
  · exact State.pg_event_other ho (by nofun) (.inl (hp i))
  · rw [hframe] at hx; exact hx
  · rw [hframe] at hj; exact hj

theorem putCode (h : Inward s t) (r : Rec) (hp : ∀ i, .lnk i ≠ p := by nofun) : Inward s (t.putCode p r) :=
  (((((h.setPg (o := PG_ERR_CODE) _ hp).setPg (o := PG_ERR_INFO0) _ hp).setPg (o := PG_ERR_INFO0 + 4) _ hp).setPg
    (o := PG_ERR_INFO0 + 8) _ hp).setPg (o := PG_ERR_INFO0 + 12) _ hp).set rfl rfl rfl rfl

theorem record (h : Inward s t) (r : Rec) (hp : ∀ i, .lnk i ≠ p := by nofun) : Inward s (t.record p r) := (h.putCode r hp).event _ hp

end

/-! ## Cores -/

/-- A change of a core that starts no transaction and queues no command of the DMA. -/
theorem modCoreOf (h : Inward s t) (c : CoreId) (f : Core → Core)
    (ht : ∀ x ∈ (f (t.core c)).txns, ∃ y ∈ (t.core c).txns, y.body = x.body)
    (hq : ∀ q : QId, ∀ j ∈ ((f (t.core c)).dmaq[q]).queue, j ∈ ((t.core c).dmaq[q]).queue) : Inward s (t.modCore c f) := by
  refine h.trans ⟨rfl, fun _ _ _ => rfl, fun d x hx => ?_, fun d q j hj => ?_, .refl _⟩
  all_goals by_cases hd : d = c
  · subst hd
    rw [State.core_modCore] at hx
    exact ht x hx
  · rw [State.core_modCore_other _ _ _ _ hd] at hx
    exact ⟨x, hx, rfl⟩
  · subst hd
    rw [State.core_modCore] at hj
    exact hq q j hj
  · rwa [State.core_modCore_other _ _ _ _ hd] at hj

theorem modCore (h : Inward s t) (c : CoreId) (f : Core → Core) (ht : ∀ k, (f k).txns = k.txns := by intro k; rfl)
    (hq : ∀ k, (f k).dmaq = k.dmaq := by intro k; rfl) : Inward s (t.modCore c f) :=
  h.modCoreOf c f (fun x hx => ⟨x, ht (t.core c) ▸ hx, rfl⟩) fun q j hj => by rwa [hq] at hj

theorem modCtx (h : Inward s t) (c : CoreId) (x : CtxId) (f : Ctx → Ctx) : Inward s (t.modCtx c x f) := h.modCore c _

/-! ## Memory and mesh -/

theorem modMem (h : Inward s t) (f : Mem → Mem) : Inward s (t.modMem f) := h.set rfl rfl rfl rfl

theorem countAccess (h : Inward s t) (a n : Nat) {i : Nat} (hi : i < 24 := by decide) : Inward s (t.countAccess a n i) := by
  unfold State.countAccess
  split
  · exact h.bump _ (by nofun) hi
  · exact h.bump _ (by nofun) hi
  · exact h

theorem countMerge (h : Inward s t) (a n : Nat) : Inward s (t.countMerge a n) := by
  unfold State.countMerge
  split
  · exact h.bump _
  · exact h

theorem pkgWrite (h : Inward s t) (k a : Nat) (l : List (Byte × Bool)) : Inward s (t.pkgWrite k a l) :=
  ((h.countMerge _ _).modMem _).countAccess _ _

theorem coreWrite (h : Inward s t) (c : CoreId) (k a : Nat) (l : List (Byte × Bool)) : Inward s (t.coreWrite c k a l) := by
  have hw := h.pkgWrite k a l
  unfold State.coreWrite
  split
  · split
    · exact hw
    · exact hw.modCore _ _
  · exact hw

theorem touchAt (h : Inward s t) (a : Nat) : Inward s (t.touchAt a) := by
  unfold State.touchAt
  split
  · exact h.modCore _ _
  · exact h

theorem writeSegs (h : Inward s t) (c : CoreId) (segs : List OutSeg) : Inward s (t.writeSegs c segs) := by
  refine foldl (fun t g ht => foldl (fun t p ht => ?_) _ ht) _ h
  split
  · exact ht.coreWrite _ _ _ _
  · exact ht

theorem carry (h : Inward s t) (a b : BayId) (answered : Bool) : Inward s (t.carry a b answered) := h.set rfl rfl rfl rfl

/-! ## Sync units and lines -/

theorem putSync (h : Inward s t) (c : CoreId) (word : Nat) (w : SyncWord) : Inward s (t.putSync c word w) := h.set rfl rfl rfl rfl

theorem retire (h : Inward s t) (c : CoreId) (uid : Nat) : Inward s (t.retire c uid) := h.modCore _ _

theorem dropWaits (h : Inward s t) (c : CoreId) (ws : List Wait) : Inward s (t.dropWaits c ws) := h.modCore _ _

theorem postRemote (h : Inward s t) (c : CoreId) (x : CtxId) (g : SigTarget) (n : Nat) (dec : Bool) (job : Option Job) :
    Inward s (t.postRemote c x g n dec job).1 :=
  (h.modCore c (fun k => { k with nextPost := (t.core c).nextPost + 1,
                                  posts := k.posts ++ [{ ctx := x, num := (t.core c).nextPost, job := job }] })).set rfl rfl rfl rfl

theorem released {post : State → CtxId → SigTarget → State} (hp : ∀ u x g, Inward s u → Inward s (post u x g))
    (h : Inward s t) (c : CoreId) (w : Wait) : Inward s (State.released post t c w) := by
  have hctx : Inward s (t.modCtx c w.ctx fun x => { x with hold := .released, pre := x.pre || w.kind == .preWait }) := h.modCtx _ _ _
  unfold State.released
  dsimp only
  split
  · have hret := hctx.retire c w.job.uid
    split
    · split
      · exact hret
      · exact hp _ _ _ hret
    · exact hret
  · exact hctx

theorem releaseLoop (h : Inward s t) (c : CoreId) (word n : Nat) : Inward s (t.releaseLoop c word n).1 := by
  unfold State.releaseLoop
  split
  · exact h
  · exact h.dropWaits _ _

theorem syncSignal (f : Nat) (h : Inward s t) (c : CoreId) (word n : Nat) (g : W16) : Inward s (State.syncSignal f t c word n g) := by
  induction f generalizing t word n g with
  | zero => exact h
  | succ f ih =>
    unfold State.syncSignal
    split
    · exact h
    · refine foldl (fun u w hu => released (fun v x g hv => ?_) hu c w) _ ((((h.releaseLoop _ _ _).putSync _ _ _).bump _).bump _)
      split
      · exact ih hv _ _ _
      · exact hv.postRemote _ _ _ _ _ _

theorem signal (h : Inward s t) (c : CoreId) (x : CtxId) (g : SigTarget) (n : Nat) (job : Option Job) : Inward s (t.signal c x g n job) := by
  unfold State.signal
  split
  · exact h.syncSignal _ _ _ _ _
  · exact h.postRemote _ _ _ _ _ _

theorem rerunQueue (h : Inward s t) (c : CoreId) (word : Nat) (tmo : Bool) : Inward s (t.rerunQueue c word tmo) := by
  have hloop := h.releaseLoop c word (t.syncAt c word).count
  unfold State.rerunQueue
  dsimp only
  split
  · exact hloop
  · exact foldl (fun u w hu => released (fun v x g hv => hv.signal _ _ _ _ _) hu c w) _ ((hloop.putSync _ _ _).bump _)

theorem enqueueWait (h : Inward s t) (c : CoreId) (w : Wait) : Inward s (t.enqueueWait c w) :=
  ((h.modCore c (fun k => { k with waits := k.waits ++ [w] })).modCtx _ _ _).bump _

theorem arrive (h : Inward s t) (l : LineId) (c : CoreId) (on : Bool) : Inward s (t.arrive l c on) := by
  have hl : RAF_ARR l.val + 4 < 0x1000 := by simp only [RAF_ARR]; omega
  unfold State.arrive
  dsimp only
  split
  · exact h
  · split <;> exact h.setPg64 _ (by nofun) hl

theorem leaveLine (h : Inward s t) (c : CoreId) (l : LineId) : Inward s (t.leaveLine c l) := by
  unfold State.leaveLine
  split
  · exact h
  · exact h.arrive _ _ _

theorem removeWait (h : Inward s t) (c : CoreId) (x : CtxId) : Inward s (t.removeWait c x) := by
  unfold State.removeWait
  split
  · exact h
  next w _ =>
    have hdrop := h.dropWaits c [w]
    have hret : Inward s (if w.kind = .preWait then t.dropWaits c [w] else (t.dropWaits c [w]).retire c w.job.uid) := by
      split
      · exact hdrop
      · exact hdrop.retire _ _
    dsimp only
    split
    · exact hret.leaveLine _ _
    · exact hret.rerunQueue _ _ _

/-! ## Faults and completions -/

theorem present (h : Inward s t) (c : CoreId) : Inward s (t.present c) := by
  unfold State.present
  exact (h.writeSegs c _).setFree _

theorem foundFault (h : Inward s t) (c : CoreId) (x : CtxId) (r : Rec) (off : Nat) (w : Option Cmd) : Inward s (t.foundFault c x r off w) :=
  h.modCtx _ _ _

theorem setPc (h : Inward s t) (c : CoreId) (x : CtxId) (v : Nat) : Inward s (t.setPc c x v) := h.setPg _

theorem stepPc (h : Inward s t) (c : CoreId) (x : CtxId) (off : Nat) : Inward s (t.stepPc c x off) := (h.modCtx _ _ _).setPc _ _ _

theorem complete (h : Inward s t) (c : CoreId) (j : Job) : Inward s (t.complete c j) := by
  have hret := h.retire c j.uid
  unfold State.complete
  dsimp only
  split
  · split
    · exact hret
    · exact hret.signal _ _ _ _ _
  · exact hret

theorem unholdCtx (h : Inward s t) (c : CoreId) (x : CtxId) : Inward s (t.unholdCtx c x) := h.modCtx _ _ _

theorem setRerun (h : Inward s t) (c : CoreId) (j : Job) (pooled taken fault : Bool) (value : Nat) :
    Inward s (t.setRerun c j pooled taken fault value) := (h.setPg _).setPg _

theorem rerunSnap (h : Inward s t) (c : CoreId) (j : Job) : Inward s (t.rerunSnap c j) := by
  have htag : satTag j.cmd < 64 := bits_lt _ 0 6
  have hsnap := h.setPg (p := .fu c) (o := FU_QSAT_SNAP (satTag j.cmd)) (t.pg (.fu c) (FU_QSAT_CNT (satTag j.cmd))) (by nofun)
    (by simp only [FU_QSAT_SNAP]; omega)
  unfold State.rerunSnap
  dsimp only
  split
  · exact hsnap.setPg _ (by nofun) (by simp only [FU_QSAT_CNT]; omega)
  · exact hsnap

theorem rerunOutcome {go : State → State} (hgo : ∀ u, Inward s u → Inward s (go u)) (h : Inward s t) (c : CoreId) (j : Job)
    (value : Nat) (pooled : Bool) : Inward s (t.rerunOutcome c j value pooled go) := by
  unfold State.rerunOutcome
  dsimp only
  split
  · exact (hgo _ ((h.setRerun _ _ _ _ _ _).stepPc _ _ _)).complete _ _
  · split
    · exact ((h.setRerun _ _ _ _ _ _).retire _ _).foundFault _ _ _ _ _
    · exact (hgo _ ((h.setRerun _ _ _ _ _ _).setPc _ _ _)).complete _ _

theorem rerunRun (h : Inward s t) (c : CoreId) (j : Job) : Inward s (t.rerunRun c j) := by
  have hsnap := h.rerunSnap c j
  have hgo : ∀ u, Inward s u → Inward s (u.unholdCtx c j.ctx) := fun u hu => hu.unholdCtx c j.ctx
  unfold State.rerunRun
  dsimp only
  split
  · split
    · exact (hsnap.enqueueWait _ _).arrive _ _ _
    · exact rerunOutcome hgo (hsnap.bump _) _ _ _ _
  · exact rerunOutcome hgo hsnap _ _ _ _

/-! ## Settling -/

theorem haltDone (h : Inward s t) (c : CoreId) (j : Job) (code : W16) : Inward s (t.haltDone c j code) :=
  (((h.modCtx c j.ctx fun t => { (t.go .halted) with hold := .free }).setPg _).event _).complete _ _

theorem resetDone (h : Inward s t) (c : CoreId) (x : CtxId) : Inward s (t.resetDone c x) := (h.modCtx _ _ _).setPg _

/-- A queue without some of its commands. -/
theorem dropHalted (h : Inward s t) (c : CoreId) (x : CtxId) : Inward s (t.dropHalted c x) := by
  refine h.modCoreOf c _ (fun y hy => ⟨y, hy, rfl⟩) fun q j hj => ?_
  simp only [Fin.getElem_fin, Vector.getElem_map] at hj ⊢
  split at hj
  · exact (List.mem_filter.1 hj).1
  · exact hj

theorem settleCtx (h : Inward s t) (c : CoreId) (x : CtxId) : Inward s (t.settleCtx c x).1 := by
  have hdrop : Inward s (if (t.ctx c x).resetting then t.dropHalted c x else t) := by
    split
    · exact h.dropHalted _ _
    · exact h
  unfold State.settleCtx
  generalize (if (t.ctx c x).resetting then t.dropHalted c x else t) = u at hdrop ⊢
  dsimp only
  split
  · split
    · exact hdrop
    · exact (hdrop.unholdCtx _ _).complete _ _
  · split
    · exact hdrop.rerunRun _ _
    · exact hdrop
  · split
    · exact hdrop.haltDone _ _ _
    · exact hdrop
  · split
    · exact hdrop.resetDone _ _
    · exact hdrop

theorem startFin (h : Inward s t) (c : CoreId) : Inward s (t.startFin c).1 := by
  unfold State.startFin
  dsimp only
  split
  · split
    · exact h.modCore _ _
    · exact h
  · exact h

theorem settleOnce (h : Inward s t) (c : CoreId) : Inward s (t.settleOnce c).1 := by
  unfold State.settleOnce
  refine foldl_keeps (fun a : State × Bool => Inward s a.1) _ (fun a x ha => ?_) _ _ (h.startFin c)
  have hctx := ha.settleCtx c x
  generalize a.1.settleCtx c x = p at hctx ⊢
  exact hctx

theorem settleN (f : Nat) (h : Inward s t) (c : CoreId) : Inward s (State.settleN f t c) := by
  induction f generalizing t with
  | zero => exact h
  | succ f ih =>
    unfold State.settleN
    split
    · exact h
    · have honce := h.settleOnce c
      generalize t.settleOnce c = p at honce ⊢
      dsimp only
      split
      · exact ih honce
      · exact honce

theorem restoreVar (h : Inward s t) (c : CoreId) : Inward s (t.restoreVar c) := by
  unfold State.restoreVar
  split
  · exact h
  · exact h.modCore _ _

/-- The registers that a core reset clears are the core's own. -/
theorem coreCleared (h : Inward s t) (c : CoreId) (l : List (Nat × W64)) :
    Inward s { t with regs := t.regs.filter fun e => !coreBlockReg c e.1, loft := l } := by
  refine h.trans ⟨rfl, fun i o ho => ?_, fun d x hx => ⟨x, hx, rfl⟩, fun d q j hj => hj, .refl _⟩
  have hkept : (!coreBlockReg c ((Page.lnk i).base + o)) = true := by
    rw [Bool.not_eq_true', ← Bool.not_eq_true, coreBlockReg_iff c _ ho]
    nofun
  exact (smGet_filter regReset (fun k => !coreBlockReg c k) t.regs _).trans (if_pos hkept)

theorem coreResetDone (h : Inward s t) (c : CoreId) : Inward s (t.coreResetDone c) := by
  have hpresent : Inward s (if (t.core c).fault then t else t.present c) := by
    split
    · exact h
    · exact h.present c
  unfold State.coreResetDone
  dsimp only
  refine modPower (foldl (fun u l hu => hu.arrive l c false) _ ?_) _
  refine modCoreOf (setPg (coreCleared (hpresent.restoreVar c) c _) 1) c _ (fun x hx => absurd hx List.not_mem_nil) fun q j hj => ?_
  simp [Core.reset] at hj

theorem settle (h : Inward s t) (c : CoreId) : Inward s (t.settle c) := by
  unfold State.settle
  split
  · split
    · exact h.coreResetDone c
    · exact h
  · exact h.settleN 8 c

/-! ## Context resets -/

theorem resetCtx (h : Inward s t) (c : CoreId) (x : CtxId) : Inward s (t.resetCtx c x) := by
  unfold State.resetCtx
  split
  · exact h
  · exact ((h.modCtx c x fun t => { t with resetting := true, head := none, bad := none, again := none }).removeWait c x).settle c

theorem resetCtxs (h : Inward s t) (cs : List CoreId) : Inward s (t.resetCtxs cs) :=
  foldl (fun _ c hu => foldl (fun _ x hv => hv.resetCtx c x) _ hu) cs h

end Inward

end Sys2Proof.Machine
end

section
/-! The host link (R398, R401, R404, R405, R433, R435): function resets, configuration requests. -/

namespace Sys2Proof.Machine
open Sys2Proof

/-! ## The MSI-X state of a function -/

/-- Function g has MSI-X off, the table of the reset and nothing pending. -/
structure MsixClear (h : HostIf) (g : FnId) : Prop where
  en : (h.fns[g]).msixEn = false
  mask : (h.fns[g]).msixMask = false
  table : ∀ k, k / 512 = g.val → smGet msixReset h.msix k = msixReset k
  pending : ∀ e ∈ h.pba, e / 128 ≠ g.val

theorem MsixClear.signalled {h h' : HostIf} {g : FnId} (hg : MsixClear h g) (hs : Signalled h h') : MsixClear h' g := by
  have hmsix : h'.msix = h.msix := by rw [hs.frame]
  refine ⟨by rw [hs.fns]; exact hg.en, by rw [hs.fns]; exact hg.mask, by rw [hmsix]; exact hg.table, fun e he heq => ?_⟩
  rcases hs.pending e he with hold | ⟨f, hen, hf⟩
  · exact hg.pending e hold heq
  · rw [Fin.ext (hf.symm.trans heq), hg.en] at hen
    cases hen

section
variable (s : State) (f g : FnId)

theorem clearMsix_frame : s.clearMsix f = { s with host := (s.clearMsix f).host } := rfl

theorem fns_clearMsix : ((s.clearMsix f).host.fns[g]).d3 = (s.host.fns[g]).d3 ∧
    ((s.host.fns[g]).msixEn = false → ((s.clearMsix f).host.fns[g]).msixEn = false) ∧
    ((s.host.fns[g]).msixMask = false → ((s.clearMsix f).host.fns[g]).msixMask = false) := by
  change ((vmod s.host.fns f fun t => { t with msixEn := false, msixMask := false })[g]).d3 = _ ∧
    (_ → ((vmod s.host.fns f fun t => { t with msixEn := false, msixMask := false })[g]).msixEn = false) ∧
    (_ → ((vmod s.host.fns f fun t => { t with msixEn := false, msixMask := false })[g]).msixMask = false)
  by_cases hg : g = f
  · subst hg
    rw [vmod_same]
    exact ⟨rfl, fun _ => rfl, fun _ => rfl⟩
  · rw [vmod_other _ _ _ _ hg]
    exact ⟨rfl, id, id⟩

theorem msix_clearMsix (k : Nat) : smGet msixReset (s.clearMsix f).host.msix k =
    if (k / 512 != f.val) = true then smGet msixReset s.host.msix k else msixReset k :=
  smGet_filter msixReset (fun k => k / 512 != f.val) s.host.msix k

theorem mem_pba_clearMsix {e : Nat} : e ∈ (s.clearMsix f).host.pba ↔ e ∈ s.host.pba ∧ e / 128 ≠ f.val := by
  refine List.mem_filter.trans ?_
  rw [bne_iff_ne]

theorem MsixClear.clearMsix_same : MsixClear (s.clearMsix f).host f where
  en := congrArg Fn.msixEn (vmod_same ..)
  mask := congrArg Fn.msixMask (vmod_same ..)
  table k hk := by rw [msix_clearMsix, if_neg (by simpa using hk)]
  pending e he := ((mem_pba_clearMsix s f).1 he).2

variable {s g} in
theorem MsixClear.clearMsix (h : MsixClear s.host g) : MsixClear (s.clearMsix f).host g where
  en := (fns_clearMsix s f g).2.1 h.en
  mask := (fns_clearMsix s f g).2.2 h.mask
  table k hk := by rw [msix_clearMsix, h.table k hk, ite_self]
  pending e he := h.pending e ((mem_pba_clearMsix s f).1 he).1

/-- The words and the pending bits of a function without MSI-X state. -/
theorem MsixClear.words {t : State} {g : FnId} (h : MsixClear t.host g) :
    (∀ v d, v < 128 → d < 4 → t.msixWord g.val v d = msixReset d) ∧ ∀ v, v < 128 → (128 * g.val + v) ∉ t.host.pba := by
  refine ⟨fun v d hv hd => ?_, fun v hv hmem => h.pending _ hmem (by omega)⟩
  rw [State.msixWord, h.table _ (by omega), msixReset, msixReset]
  exact if_congr (by omega) rfl rfl

end

/-! ## Virtual functions disabled (R404) -/

/-- The virtual functions of a list lose their MSI-X state. -/
def State.clearVfs (l : List FnId) (s : State) : State := l.foldl (fun s f => if f = 0 then s else s.clearMsix f) s

section
variable (s : State)

theorem State.setVfEn_false : s.setVfEn false = State.clearVfs (List.finRange 16)
    (s.modHost fun h => { h with vfEn := false, fns := Vector.ofFn fun f => if f.val = 0 then h.fns[f] else Fn.reset }) := rfl

/-- A property of the state that clearing a function's MSI-X state keeps. -/
theorem State.clearVfs_keeps {P : State → Prop} (hP : ∀ u f, P u → P (u.clearMsix f)) (l : List FnId) (h : P s) : P (s.clearVfs l) := by
  refine foldl_keeps P _ (fun u f hu => ?_) l s h
  split
  · exact hu
  · exact hP u f hu

theorem State.clearVfs_frame (l : List FnId) : (s.clearVfs l) = { s with host := (s.clearVfs l).host } ∧
    (s.clearVfs l).host.vfEn = s.host.vfEn ∧ ∀ g : FnId, ((s.clearVfs l).host.fns[g]).d3 = (s.host.fns[g]).d3 := by
  refine s.clearVfs_keeps (P := fun u => u = { s with host := u.host } ∧ u.host.vfEn = s.host.vfEn ∧
    ∀ g : FnId, (u.host.fns[g]).d3 = (s.host.fns[g]).d3) (fun u f ⟨hu, hen, hd⟩ => ⟨?_, hen, fun g => ?_⟩) l ⟨rfl, rfl, fun _ => rfl⟩
  · rw [clearMsix_frame]
    exact congrArg (fun v : State => { v with host := (u.clearMsix f).host }) hu
  · exact ((fns_clearMsix u f g).1).trans (hd g)

theorem MsixClear.clearVfs {l : List FnId} {g : FnId} (hg : g ∈ l) (h0 : g ≠ 0) : MsixClear (s.clearVfs l).host g := by
  induction l generalizing s with
  | nil => cases hg
  | cons f l ih =>
    rcases List.mem_cons.1 hg with rfl | hl
    · refine State.clearVfs_keeps _ (P := fun u => MsixClear u.host g) (fun u f hu => hu.clearMsix f) l ?_
      simp only [if_neg h0]
      exact .clearMsix_same s g
    · exact ih _ hl

end

/-! ## The reset of function 0 (R404) -/

section
variable (s : State)

/-- The state with the virtual functions disabled. -/
def State.vfsDisabled : State := (s.setVfEn false).modHost fun h => { h with numVFs := 0 }

theorem State.vfsDisabled_frame : s.vfsDisabled = { s with host := s.vfsDisabled.host } := by
  have hframe := (State.clearVfs_frame (s.modHost fun h =>
    { h with vfEn := false, fns := Vector.ofFn fun f => if f.val = 0 then h.fns[f] else Fn.reset }) (List.finRange 16)).1
  rw [← State.setVfEn_false] at hframe
  exact congrArg (fun v : State => { v with host := s.vfsDisabled.host }) hframe

theorem State.vfsDisabled_host : s.vfsDisabled.host.vfEn = false ∧ s.vfsDisabled.host.numVFs = 0 ∧
    (∀ g : FnId, (s.vfsDisabled.host.fns[g]).d3 = (if g = 0 then (s.host.fns[g]).d3 else false)) ∧
    ∀ g : FnId, g ≠ 0 → MsixClear s.vfsDisabled.host g := by
  obtain ⟨-, hen, hd⟩ := State.clearVfs_frame (s.modHost fun h =>
    { h with vfEn := false, fns := Vector.ofFn fun f => if f.val = 0 then h.fns[f] else Fn.reset }) (List.finRange 16)
  rw [← State.setVfEn_false] at hen hd
  refine ⟨hen, rfl, fun g => (hd g).trans ?_, fun g hg => ?_⟩
  · simp only [State.modHost, Fin.getElem_fin, Vector.getElem_ofFn, Fin.ext_iff, Fin.val_zero]
    split <;> rfl
  · obtain ⟨h1, h2, h3, h4⟩ := MsixClear.clearVfs (s.modHost fun h =>
      { h with vfEn := false, fns := Vector.ofFn fun f => if f.val = 0 then h.fns[f] else Fn.reset }) (List.mem_finRange g) hg
    exact ⟨h1, h2, h3, h4⟩

end

/-! ## Vectors that are no longer masked -/

theorem State.fns_sendVector (s : State) (f : FnId) (v : Nat) : (s.sendVector f v).host.fns = s.host.fns := by
  unfold State.sendVector
  dsimp only
  split
  · rfl
  · split
    · rfl
    · rw [State.bump_frame]
      rfl

theorem State.fns_flushPending (s : State) (f : FnId) : (s.flushPending f).host.fns = s.host.fns := by
  unfold State.flushPending
  refine forRange_keeps (fun u : State => u.host.fns = s.host.fns) 128 _ (fun v u hu => ?_) s rfl
  split
  · exact (State.fns_sendVector ..).trans hu
  · exact hu

/-! ## Configuration requests -/

section
variable {s : State} {f : FnId} {r : CfgReq}

theorem exec_configurationRequest (halive : s.alive = true) (hlink : s.host.linkUp = true) :
    exec (.configurationRequest f r) s = .next (s.configure f r) :=
  congrArg Host.Outcome.next (if_pos (by rw [halive, hlink]; rfl))

theorem configure_read (hready : s.devReady = true) (hex : s.fnExists f.val = true) (hr : r.write = false) :
    s.configure f r = s.reply (dataCpl (s.cfgRead f r.reg)) := by
  simp only [State.configure, hready, hex, hr, Bool.not_true, Bool.false_eq_true, if_false]

theorem configure_write (hready : s.devReady = true) (hex : s.fnExists f.val = true) (hr : r.write = true) :
    s.configure f r = (s.cfgWrite f r.reg r.value).reply (dataCpl []) := by
  simp only [State.configure, hready, hex, hr, Bool.not_true, Bool.false_eq_true, if_false, if_true]

/-- The MSI-X control bits as written, and what was pending behind the mask (log entry 15). -/
theorem cfgWrite_msixControl (s : State) (f : FnId) (v : W64) :
    ∃ t : State, (Host.Outcome.next ((s.cfgWrite f .msixControl v).reply (dataCpl [])) : Host.Outcome State Fault Refusal) = .next t ∧
      (t.host.fns[f]).msixEn = v.getLsbD 15 ∧ (t.host.fns[f]).msixMask = v.getLsbD 14 ∧ t.host.cpl = [dataCpl []] ∧
      t = { s with regs := t.regs, host := t.host } := by
  obtain ⟨u, hu⟩ : ∃ u, u = s.modHost fun h =>
      { h with fns := vmod h.fns f fun t => { t with msixEn := v.getLsbD 15, msixMask := v.getLsbD 14 } } := ⟨_, rfl⟩
  have hfn : (u.host.fns[f]).msixEn = v.getLsbD 15 ∧ (u.host.fns[f]).msixMask = v.getLsbD 14 := by
    rw [hu]
    exact ⟨congrArg Fn.msixEn (vmod_same ..), congrArg Fn.msixMask (vmod_same ..)⟩
  have hwrite : s.cfgWrite f .msixControl v = u.flushPending f := by rw [hu]; rfl
  have hfns := u.fns_flushPending f
  have hframe := (Delivered.flushPending u f).frame
  rw [hwrite]
  generalize u.flushPending f = w at hfns hframe
  rw [← hfns] at hfn
  refine ⟨_, rfl, hfn.1, hfn.2, rfl, ?_⟩
  rw [hu] at hframe
  exact congrArg (fun w : State => w.reply (dataCpl [])) hframe

end

/-- Settles O10: a function's reset by what `Inward` leaves of the host interface, a configuration request by its register. -/
theorem hostLink : Obligations.HostLink := by
  refine ⟨⟨fun f s halive hready hrec hlink hex h0 => ?flr, fun s halive hready hrec hlink => ?flr0, fun s halive => ?hot,
    fun rate lanes s halive hdown hwf => ?linkUp⟩, fun f r s halive hlink => ?config⟩
  case flr =>
    refine congrArg Host.Outcome.next ((if_pos (by rw [halive, hready, hlink, hex]; rfl)).trans ?_)
    simp only [State.flr, hrec, if_neg h0, Bool.false_eq_true, if_false]
    rfl
  case flr0 =>
    obtain ⟨hen, hnum, hd3, hclear⟩ := s.vfsDisabled_host
    have hexec : exec (.functionLevelReset 0) s = .next ((s.vfsDisabled.resetCtxs s.enabledCores).clearMsix 0) := by
      refine congrArg Host.Outcome.next ((if_pos (by rw [halive, hready, hlink]; rfl)).trans ?_)
      simp only [State.flr, hrec, if_true, Bool.false_eq_true, if_false]
      rfl
    have hsent : Signalled s.vfsDisabled.host (s.vfsDisabled.resetCtxs s.enabledCores).host := ((Inward.refl _).resetCtxs _).host
    refine ⟨_, hexec, rfl, s.vfsDisabled_frame, ?_, ?_, fun g => ?_⟩
    · exact (congrArg HostIf.vfEn hsent.frame).trans hen
    · exact (congrArg HostIf.numVFs hsent.frame).trans hnum
    · have hg : MsixClear ((s.vfsDisabled.resetCtxs s.enabledCores).clearMsix 0).host g := by
        by_cases h0 : g = 0
        · rw [h0]
          exact .clearMsix_same _ 0
        · exact ((hclear g h0).signalled hsent).clearMsix 0
      refine ⟨hg.en, hg.mask, ?_, hg.words⟩
      rw [(fns_clearMsix _ 0 g).1, hsent.fns]
      exact hd3 g
  case hot => exact congrArg Host.Outcome.next (if_pos halive)
  case linkUp => exact congrArg Host.Outcome.next (if_pos (by rw [halive, hdown, hwf]; rfl))
  case config =>
    rw [exec_configurationRequest halive hlink]
    refine ⟨fun hdown => ?_, fun hready hno => ?_, fun hready hex => ⟨fun hr => ?_, fun hr hreg hf hvf hv => ?_, fun hr hreg hf hvf => ?_,
      fun hr hreg hf hv => ?_, fun hr hreg hv => ?_, fun hr hreg => ?_⟩⟩
    · simp only [State.configure, hdown, Bool.not_false, if_true]
      rfl
    · simp only [State.configure, hready, hno, Bool.not_true, Bool.not_false, Bool.false_eq_true, if_false, if_true]
      rfl
    · rw [configure_read hready hex hr]
      rfl
    · rw [configure_write hready hex hr, hreg, State.cfgWrite, if_pos ⟨hf, by rw [hvf]; rfl, hv⟩]
      rfl
    · rw [configure_write hready hex hr, hreg, State.cfgWrite, if_neg (by simp [hvf])]
      rfl
    · rw [configure_write hready hex hr, hreg, State.cfgWrite, if_pos ⟨hf, hv⟩]
      rfl
    · rw [configure_write hready hex hr, hreg, State.cfgWrite, if_pos hv]
      rfl
    · rw [configure_write hready hex hr, hreg]
      exact cfgWrite_msixControl s f r.value

end Sys2Proof.Machine
end

section
/-! The loss of a partner (R371 to R373), step by step. -/

namespace Sys2Proof.Machine
open Sys2Proof

/-! ## Hatches close (step 2) -/

section
variable (s : State) (i : PortId)

/-- The first n hatches closed. -/
def State.shutHatches (n : Nat) : State := forRange n (fun h s => s.setField (.lnk i) (HT_CFG h) 0 1 0) s

theorem State.shutHatches_frame (n : Nat) : s.shutHatches i n = { s with regs := (s.shutHatches i n).regs } :=
  forRange_keeps (fun t : State => t = { s with regs := t.regs }) n _ (fun h t ht => by rw [State.setField_frame, ht]) s rfl

theorem State.pg_shutHatches {n o : Nat} (hn : n ≤ 64) (ho : o < 0x400) : (s.shutHatches i n).pg (.lnk i) o = s.pg (.lnk i) o := by
  induction n with
  | zero => rfl
  | succ n ih =>
    rw [State.shutHatches, forRange_succ, ← State.shutHatches, State.pg_setField_other _ _ _ _ _ _ _ _ (by simp only [HT_CFG]; omega)
      (by omega) (.inr (by simp only [HT_CFG]; omega))]
    exact ih (by omega)

theorem State.hatch_shutHatches {n h : Nat} (hn : n ≤ 64) (hh : h < n) : bit ((s.shutHatches i n).pg (.lnk i) (HT_CFG h)) 0 = false := by
  induction n with
  | zero => omega
  | succ n ih =>
    rw [State.shutHatches, forRange_succ, ← State.shutHatches]
    by_cases hlast : h = n
    · rw [hlast, State.pg_setField_same, bit_putBits _ _ _ _ _ (by decide)]
      rfl
    · rw [State.pg_setField_other _ _ _ _ _ _ _ _ (by simp only [HT_CFG]; omega) (by simp only [HT_CFG]; omega)
        (.inr (by simp only [HT_CFG]; omega))]
      exact ih (by omega) (by omega)

/-- A port whose received messages are dropped and that sends nothing more. -/
def Port.closed (p : Port) : Port :=
  { p with rxq := Vector.replicate 4 [], rxBytes := [], creditIn := [], txBytes := [], replay := [], nak := none }

theorem State.closePort_eq : s.closePort i = (s.modPort i Port.closed).shutHatches i 64 := rfl

theorem State.ports_closePort : (s.closePort i).ports = vmod s.ports i Port.closed := by
  rw [State.closePort_eq, State.shutHatches_frame]
  rfl

end

/-! ## The pull ends (step 3) -/

theorem Inward.poisonRange {s t : State} (h : Inward s t) (a n : Nat) : Inward s (t.poisonRange a n) := by
  unfold State.poisonRange
  split
  · exact h
  · exact (Inward.foldl (fun u p hu => hu.pkgWrite 0 p.1 p.2) _ h).touchAt a

section
variable (s : State) (i : PortId) (status : Nat)

theorem State.ports_pullEnds : (s.pullEnds i status).ports = vmod s.ports i fun p => { p with pull := none } := by
  rw [State.pullEnds, (Delivered.event _ _ _).frame]
  rfl

theorem State.pg_pullEnds {o : Nat} (ho : o < 0x1000) (h : o ≠ LNK_PULL_STAT ∧ o ≠ PG_EVT_RAW) :
    (s.pullEnds i status).pg (.lnk i) o = s.pg (.lnk i) o := by
  rw [State.pullEnds, State.pg_event_other ho (by nofun) (.inr h.2)]
  exact State.pg_setPg_off _ _ _ _ _ _ (by decide) ho h.1

/-- A port that pulls nothing: the others, and the registers but for the pull's status and its event, are as before. -/
theorem State.losePull_spec : (s.losePull i).ports[i] = { s.ports[i] with pull := none } ∧
    (∀ k : PortId, k ≠ i → (s.losePull i).ports[k] = s.ports[k]) ∧
    ∀ o, o < 0x1000 → (o ≠ LNK_PULL_STAT ∧ o ≠ PG_EVT_RAW) → (s.losePull i).pg (.lnk i) o = s.pg (.lnk i) o := by
  unfold State.losePull
  split
  next hpull => exact ⟨by rw [← hpull], fun _ _ => rfl, fun _ _ _ => rfl⟩
  next p _ =>
    have hin : Inward s ((p.out.foldl (fun s e => s.poisonRange e.2.1 (64 * e.2.2)) s).poisonRange (p.dst + 64 * p.asked)
        (64 * (p.total - p.asked))) :=
      (Inward.foldl (fun u e hu => hu.poisonRange _ _) _ (.refl s)).poisonRange _ _
    dsimp only
    generalize (p.out.foldl (fun s e => s.poisonRange e.2.1 (64 * e.2.2)) s).poisonRange (p.dst + 64 * p.asked)
      (64 * (p.total - p.asked)) = u at hin
    refine ⟨?_, fun k hk => ?_, fun o ho h => ?_⟩
    · rw [State.ports_pullEnds, vmod_same, hin.ports]
    · rw [State.ports_pullEnds, vmod_other _ _ _ _ hk, hin.ports]
    · rw [State.pg_pullEnds _ _ _ ho h, hin.lnk i o ho]

end

/-! ## RSIGNALs end (step 4) -/

section
variable {s t : State}

theorem Inward.dropTxn (h : Inward s t) (c : CoreId) (tag : Nat) : Inward s (t.dropTxn c tag) :=
  (h.modCoreOf c (fun k => { k with txns := k.txns.filter fun t => t.tag != tag }) (fun x hx => ⟨x, (List.mem_filter.1 hx).1, rfl⟩)
    fun _ _ hj => hj).set rfl rfl rfl rfl

theorem Inward.dropTxns (h : Inward s t) (c : CoreId) (p : Txn → Bool) : Inward s (t.dropTxns c p) :=
  Inward.foldl (fun _ _ hu => hu.dropTxn c _) _ h

/-- A change of the runs of a queue, and of whether it is halted. -/
theorem Inward.modQueue (h : Inward s t) (c : CoreId) (q : QId) (f : DmaQueue → DmaQueue)
    (hf : ∀ j ∈ (f ((t.core c).dmaq[q])).queue, j ∈ ((t.core c).dmaq[q]).queue) : Inward s (t.modCore c fun k => k.modQueue q f) := by
  refine h.modCoreOf c _ (fun x hx => ⟨x, hx, rfl⟩) fun q' j hj => ?_
  by_cases hq : q' = q
  · subst hq
    rw [Core.modQueue, vmod_same] at hj
    exact hf j hj
  · rwa [Core.modQueue, vmod_other _ _ _ _ hq] at hj

theorem Inward.endRsignal (h : Inward s t) (c : CoreId) (q : QId) (r : DmaRun) (rec_ : Rec) : Inward s (t.endRsignal c q r rec_) :=
  (h.modQueue c q (fun d => { d with halted := true, run := d.run.map fun t =>
    if t.job.uid = r.job.uid then { t with withheld := true, started := true } else t }) fun _ hj => hj).record _

theorem Inward.unqueue (h : Inward s t) (i : PortId) (c : CoreId) (q : QId) : Inward s (t.unqueue i c q) :=
  h.modQueue c q _ fun _ hj => (List.mem_filter.1 hj).1

theorem Inward.loseQueue {a : State × Nat} (h : Inward s a.1) (i : PortId) (c : CoreId) (q : QId) :
    Inward s (State.loseQueue i c a q).1 :=
  foldl_keeps (fun a : State × Nat => Inward s a.1) _ (fun _ r hb => (hb.dropTxns c _).endRsignal c q r _) _ _ (h.unqueue i c q)

theorem Inward.loseRuns (h : Inward s t) (i : PortId) : Inward s (t.loseRuns i).1 :=
  foldl_keeps (fun a : State × Nat => Inward s a.1) _
    (fun _ c ha => foldl_keeps (fun a : State × Nat => Inward s a.1) _ (fun _ q hb => hb.loseQueue i c q) _ _ ha) _ _ h

end

/-- No RSIGNAL for the port waits in a queue. -/
def QueueClear (i : PortId) (c : CoreId) (q : QId) (s : State) : Prop := ∀ j ∈ ((s.core c).dmaq[q]).queue, namesPort i j = false

theorem QueueClear.inward {i : PortId} {c : CoreId} {q : QId} {s t : State} (h : QueueClear i c q s) (k : Inward s t) :
    QueueClear i c q t := fun j hj => h j (k.queue c q j hj)

theorem QueueClear.unqueue (s : State) (i : PortId) (c : CoreId) (q : QId) : QueueClear i c q (s.unqueue i c q) := by
  intro j hj
  rw [State.unqueue, State.core_modCore, Core.modQueue, vmod_same] at hj
  simpa using (List.mem_filter.1 hj).2

theorem QueueClear.loseQueue (i : PortId) (c : CoreId) (a : State × Nat) (q : QId) : QueueClear i c q (State.loseQueue i c a q).1 :=
  (QueueClear.unqueue a.1 i c q).inward
    (foldl_keeps (fun b : State × Nat => Inward (a.1.unqueue i c q) b.1) _ (fun _ r hb => (hb.dropTxns c _).endRsignal c q r _) _ _ (.refl _))

theorem QueueClear.loseRuns (s : State) (i : PortId) (c : CoreId) (q : QId) : QueueClear i c q (s.loseRuns i).1 := by
  refine foldl_establishes (fun a : State × Nat => QueueClear i c q a.1) _ c (fun a => ?_) (fun a d ha => ?_) _ (List.mem_finRange c) (s, 0)
  · exact foldl_establishes (fun a : State × Nat => QueueClear i c q a.1) _ q (fun a => .loseQueue i c a q)
      (fun a q' ha => ha.inward ((Inward.refl a.1).loseQueue i c q')) _ (List.mem_finRange q) a
  · exact foldl_keeps (fun b : State × Nat => QueueClear i c q b.1) _
      (fun b q' hb => hb.inward ((Inward.refl b.1).loseQueue i d q')) _ _ ha

/-! ## Transactions end (step 4) -/

/-- No WR or SIG that core c sent on the port is outstanding. -/
def RemoteClear (i : PortId) (c : CoreId) (s : State) : Prop := ∀ x ∈ (s.core c).txns, x.onPort i = false

theorem Txn.onPort_congr {i : PortId} {x y : Txn} (h : y.body = x.body) : x.onPort i = y.onPort i := by
  rw [Txn.onPort, Txn.onPort, h]

theorem RemoteClear.inward {i : PortId} {c : CoreId} {s t : State} (h : RemoteClear i c s) (k : Inward s t) : RemoteClear i c t := by
  intro x hx
  obtain ⟨y, hy, hyx⟩ := k.txns c x hx
  rw [Txn.onPort_congr hyx]
  exact h y hy

/-- Dropping transactions one after the other leaves those of the others. -/
theorem State.mem_foldl_dropTxn (c : CoreId) (l : List Txn) (s : State) {x : Txn}
    (hx : x ∈ ((l.foldl (fun s t => s.dropTxn c t.tag) s).core c).txns) : x ∈ (s.core c).txns ∧ ∀ t ∈ l, x.tag ≠ t.tag := by
  induction l generalizing s with
  | nil => exact ⟨hx, fun t ht => absurd ht List.not_mem_nil⟩
  | cons t l ih =>
    obtain ⟨hmem, htags⟩ := ih _ hx
    have hcore : ((s.dropTxn c t.tag).core c).txns = (s.core c).txns.filter fun u => u.tag != t.tag :=
      congrArg Core.txns (State.core_modCore s c fun k => { k with txns := k.txns.filter fun u => u.tag != t.tag })
    rw [hcore, List.mem_filter, bne_iff_ne] at hmem
    exact ⟨hmem.1, List.forall_mem_cons.2 ⟨hmem.2, htags⟩⟩

theorem RemoteClear.dropTxns (s : State) (i : PortId) (c : CoreId) : RemoteClear i c (s.dropTxns c (Txn.onPort i)) := by
  intro x hx
  obtain ⟨hmem, htags⟩ := State.mem_foldl_dropTxn c _ s hx
  refine Bool.eq_false_iff.2 fun hon => htags x (List.mem_filter.2 ⟨hmem, hon⟩) rfl

theorem Inward.dropRemote {s t : State} (h : Inward s t) (i : PortId) : Inward s (t.dropRemote i) :=
  Inward.foldl (fun _ c hu => (hu.dropTxns c _).settle c) _ h

theorem RemoteClear.dropRemote (s : State) (i : PortId) (c : CoreId) : RemoteClear i c (s.dropRemote i) :=
  foldl_establishes (RemoteClear i c) (fun s c => (s.dropTxns c (Txn.onPort i)).settle c) c
    (fun a => (RemoteClear.dropTxns a i c).inward ((Inward.refl _).settle c))
    (fun a d ha => ha.inward (((Inward.refl a).dropTxns d _).settle d)) _ (List.mem_finRange c) s

/-! ## The record and the signals (steps 5 and 6) -/

theorem Inward.linkSignal {s t : State} (h : Inward s t) (i : PortId) (v n : W32) : Inward s (t.linkSignal i v n) := by
  unfold State.linkSignal
  dsimp only
  split
  · exact (((h.carry _ _ _).modCore _ _).syncSignal _ _ _ _ _).settle _
  · exact h

theorem Inward.lostSignals {s t : State} (h : Inward s t) (i : PortId) : Inward s (t.lostSignals i) := by
  unfold State.lostSignals
  refine forRange_keeps (Inward s) 4 _ (fun k u hu => ?_) t h
  dsimp only
  split
  · exact hu.linkSignal i _ _
  · exact hu

section
variable (s : State) (i : PortId) (why dropped ended : Nat)

/-- The registers of the port that its loss is written in. -/
structure LossTold (t : State) : Prop where
  state : t.lnkState i = LNK_LOST
  reason : why < 8 → bits (t.pg (.lnk i) LNK_STAT) 10 3 = why
  code : t.pg (.lnk i) PG_ERR_CODE = 0x0401
  info0 : t.pg (.lnk i) PG_ERR_INFO0 = w32 why
  info1 : t.pg (.lnk i) (PG_ERR_INFO0 + 4) = w32 (bits (s.pg (.lnk i) LNK_PEER_ID) 0 20)
  info2 : t.pg (.lnk i) (PG_ERR_INFO0 + 8) = w32 dropped
  raw : bit (t.pg (.lnk i) PG_EVT_RAW) EVT_ERR = true

/-- What the loss recorded leaves of the rest. -/
theorem State.recordLost_frame : (s.recordLost i why dropped ended).ports = s.ports ∧ (s.recordLost i why dropped ended).cores = s.cores ∧
    ∀ o, 0x110 ≤ o → o < 0x1000 → (s.recordLost i why dropped ended).pg (.lnk i) o = s.pg (.lnk i) o := by
  refine ⟨?_, ?_, fun o hlo ho => ?_⟩
  · rw [State.recordLost, State.record_frame, State.setLnkState_frame]; rfl
  · rw [State.recordLost, State.record_frame, State.setLnkState_frame]; rfl
  · rw [State.recordLost, State.pg_record_frame _ _ _ ho (.inr (.inr (.inr (by simp only [PG_CNT_CTRL]; omega)))) (.inl (by simp)),
      State.pg_setLnkState_other _ _ _ ho (.inr (by simp only [LNK_STAT, PG_EVT_RAW]; omega)) (.inl (by simp)),
      State.pg_setField_other _ _ _ _ _ _ _ _ (by decide) ho (.inr (by simp only [LNK_STAT]; omega))]

theorem State.recordLost_told : LossTold s i why dropped (s.recordLost i why dropped ended) := by
  obtain ⟨hcode, hinfo0, hinfo1, hinfo2, -, hraw⟩ := ((s.setField (.lnk i) LNK_STAT 10 3 why).setLnkState i LNK_LOST).record_page (.lnk i)
    (mkRec 0x0401 why (bits (s.pg (.lnk i) LNK_PEER_ID) 0 20) dropped ended)
  have hstat : (s.recordLost i why dropped ended).pg (.lnk i) LNK_STAT =
      ((s.setField (.lnk i) LNK_STAT 10 3 why).setLnkState i LNK_LOST).pg (.lnk i) LNK_STAT :=
    State.pg_record_frame _ _ _ (by decide) (.inr (.inr (.inr (by decide)))) (.inl (by simp))
  refine ⟨?_, fun hwhy => ?_, hcode, hinfo0, hinfo1, hinfo2, ?_⟩
  · rw [State.lnkState, hstat]
    exact State.lnkState_setLnkState _ _ (by decide)
  · rw [hstat, State.field_setLnkState _ _ _ (by decide), State.pg_setField_same, bits_putBits_same _ _ _ _ (by decide)]
    exact Nat.mod_eq_of_lt hwhy
  · rw [State.recordLost, hraw, bit_putBits _ _ _ _ _ (by decide)]
    rfl

variable {s i why dropped} in
theorem LossTold.inward {t u : State} (h : LossTold s i why dropped t) (k : Inward t u) : LossTold s i why dropped u where
  state := by rw [State.lnkState, k.lnk i _ (by decide)]; exact h.state
  reason hw := by rw [k.lnk i _ (by decide)]; exact h.reason hw
  code := by rw [k.lnk i _ (by decide)]; exact h.code
  info0 := by rw [k.lnk i _ (by decide)]; exact h.info0
  info1 := by rw [k.lnk i _ (by decide)]; exact h.info1
  info2 := by rw [k.lnk i _ (by decide)]; exact h.info2
  raw := by rw [k.lnk i _ (by decide)]; exact h.raw

end

/-! ## The loss as a whole -/

section
variable (s : State) (i : PortId) (why : Nat)

/-- The state before the loss is recorded, and the number of RSIGNALs that it ended. -/
def State.lossRuns : State × Nat := ((s.closePort i).losePull i).loseRuns i

/-- Messages received and not passed on. -/
def State.undelivered : Nat := (s.ports[i].rxq.toList.map List.length).sum

theorem State.linkLost_eq : s.linkLost i why =
    (((s.lossRuns i).1.dropRemote i).recordLost i why (s.undelivered i) (s.lossRuns i).2).lostSignals i := rfl

/-- Ports and registers before the record are those of the port closed and its pull ended. -/
theorem State.lossRuns_inward : Inward ((s.closePort i).losePull i) ((s.lossRuns i).1.dropRemote i) :=
  ((Inward.refl _).loseRuns i).dropRemote i

theorem State.linkLost_ports : (s.linkLost i why).ports[i] = { s.ports[i].closed with pull := none } ∧
    ∀ k : PortId, k ≠ i → (s.linkLost i why).ports[k] = s.ports[k] := by
  have hports : (s.linkLost i why).ports = ((s.closePort i).losePull i).ports := by
    rw [State.linkLost_eq, ((Inward.refl _).lostSignals i).ports, (State.recordLost_frame ..).1, (s.lossRuns_inward i).ports]
  obtain ⟨hsame, hother, -⟩ := (s.closePort i).losePull_spec i
  rw [hports]
  refine ⟨?_, fun k hk => ?_⟩
  · rw [hsame, State.ports_closePort, vmod_same]
  · rw [hother k hk, State.ports_closePort, vmod_other _ _ _ _ hk]

theorem State.linkLost_hatch {h : Nat} (hh : h < 64) : (s.linkLost i why).hatchOpen i h = false := by
  have ho : 0x110 ≤ HT_CFG h ∧ HT_CFG h < 0x1000 ∧ HT_CFG h ≠ LNK_PULL_STAT ∧ HT_CFG h ≠ PG_EVT_RAW := by
    simp only [HT_CFG, LNK_PULL_STAT, PG_EVT_RAW]
    omega
  have hcfg : bit ((s.linkLost i why).pg (.lnk i) (HT_CFG h)) 0 = false := by
    rw [State.linkLost_eq, ((Inward.refl _).lostSignals i).lnk i _ ho.2.1, (State.recordLost_frame ..).2.2 _ ho.1 ho.2.1,
      (s.lossRuns_inward i).lnk i _ ho.2.1, ((s.closePort i).losePull_spec i).2.2 _ ho.2.1 ho.2.2, State.closePort_eq]
    exact State.hatch_shutHatches _ i le_rfl hh
  rw [State.hatchOpen, hcfg, Bool.and_false, Bool.false_and, Bool.false_and]

theorem State.linkLost_told : LossTold s i why (s.undelivered i) (s.linkLost i why) := by
  have hpeer : ((s.lossRuns i).1.dropRemote i).pg (.lnk i) LNK_PEER_ID = s.pg (.lnk i) LNK_PEER_ID := by
    rw [(s.lossRuns_inward i).lnk i _ (by decide), ((s.closePort i).losePull_spec i).2.2 _ (by decide) (by decide), State.closePort_eq,
      State.pg_shutHatches _ _ le_rfl (by decide)]
    rfl
  obtain ⟨h1, h2, h3, h4, h5, h6, h7⟩ :=
    (State.recordLost_told ((s.lossRuns i).1.dropRemote i) i why (s.undelivered i) (s.lossRuns i).2).inward ((Inward.refl _).lostSignals i)
  rw [hpeer] at h5
  exact ⟨h1, h2, h3, h4, h5, h6, h7⟩

/-- The signals and the record at the end touch no transaction and no queue. -/
theorem State.linkLost_clear (c : CoreId) : RemoteClear i c (s.linkLost i why) ∧ ∀ q, QueueClear i c q (s.linkLost i why) := by
  have hremote := RemoteClear.dropRemote (s.lossRuns i).1 i c
  have hqueue (q : QId) : QueueClear i c q ((s.lossRuns i).1.dropRemote i) :=
    (QueueClear.loseRuns _ i c q).inward ((Inward.refl _).dropRemote i)
  have hcore : (((s.lossRuns i).1.dropRemote i).recordLost i why (s.undelivered i) (s.lossRuns i).2).core c =
      ((s.lossRuns i).1.dropRemote i).core c := congrArg (fun v : Vector Core 64 => v[c]) (State.recordLost_frame ..).2.1
  rw [State.linkLost_eq]
  refine ⟨RemoteClear.inward (fun x hx => hremote x (hcore ▸ hx)) ((Inward.refl _).lostSignals i),
    fun q => QueueClear.inward (fun j hj => hqueue q j (hcore ▸ hj)) ((Inward.refl _).lostSignals i)⟩

end

/-- Settles O53: nothing after the port is closed and its pull ended touches the port; the RSIGNALs and transactions that end with it stay
ended. -/
theorem linkLost : Obligations.LinkLost := by
  intro i s hup
  refine ⟨congrArg Host.Outcome.next (if_pos hup), congrArg Host.Outcome.next (if_pos hup), fun why hlo hhi => ?_⟩
  obtain ⟨hstate, hwhy, hcode, hinfo0, hinfo1, hinfo2, hraw⟩ := s.linkLost_told i why
  obtain ⟨hport, hothers⟩ := s.linkLost_ports i why
  refine ⟨hstate, hwhy (by omega), fun v => ?_, ?_, ?_, fun h hh => s.linkLost_hatch i why hh, hcode, hinfo0, hinfo1, hinfo2, hraw,
    fun c x hx off => ?_, fun c q j hj hop hportOf => ?_, hothers⟩
  · rw [hport]
    simp [Port.closed]
  · rw [hport]; rfl
  · rw [hport]
  · have hon := (s.linkLost_clear i why c).1 x hx
    refine ⟨fun hbody => ?_, fun hbody => ?_⟩ <;> simp [Txn.onPort, hbody] at hon
  · have hclear := (s.linkLost_clear i why c).2 q j hj
    simpa [namesPort, hop, hportOf] using hclear

end Sys2Proof.Machine
end

section
/-! Flash and PSRAM cells, the log ring, the watchdog and the test access port (R453 to R455, R458, R460). -/

namespace Sys2Proof.Machine
open Sys2Proof

/-! ## Memories of cells -/

section
variable (d : Nat → Byte)

/-- A byte after a write of some bytes: the byte written, or what was there. -/
theorem cellByte_putCells (l : List Host.Cell) (a : Nat) (bs : List Byte) (x : Nat) :
    cellByte d (putCells l a bs) x = if a ≤ x ∧ x < a + bs.length then bs.getD (x - a) 0 else cellByte d l x := by
  induction bs generalizing l a with
  | nil => rw [if_neg (by simp only [List.length_nil]; omega)]; rfl
  | cons b bs ih =>
    rw [putCells, ih, List.length_cons]
    by_cases hin : a + 1 ≤ x ∧ x < a + 1 + bs.length
    · rw [if_pos hin, if_pos (by omega), show x - a = x - (a + 1) + 1 by omega, List.getD_cons_succ]
    · rw [if_neg hin]
      by_cases hx : x = a
      · subst hx
        rw [if_pos (by omega), Nat.sub_self, List.getD_cons_zero]
        exact smGet_put_same d l x b
      · rw [if_neg (by omega)]
        exact smGet_put_other d l a x b hx

end

section
variable {m m' : Mgmt} {a : Nat} {bs : List Byte} (hpsr : m'.psr = putCells m.psr a bs) (hdev : m'.psram = m.psram)
include hpsr hdev

/-- The PSRAM after a write of some bytes. -/
theorem Mgmt.psrByte_put (x : Nat) : m'.psrByte x = if a ≤ x ∧ x < a + bs.length then bs.getD (x - a) 0 else m.psrByte x := by
  rw [Mgmt.psrByte, hpsr, hdev, cellByte_putCells]
  rfl

/-- Bytes read back where they were written. -/
theorem Mgmt.run_put : run m'.psrByte a bs.length = bs := by
  refine List.ext_getElem (by simp [run]) fun i hi hi' => ?_
  simp only [run, List.getElem_map, List.getElem_range]
  rw [Mgmt.psrByte_put hpsr hdev, if_pos (by omega), Nat.add_sub_cancel_left, List.getD_eq_getElem _ _ hi']

end

theorem run_congr {f g : Nat → Byte} {a n : Nat} (h : ∀ x, a ≤ x → x < a + n → f x = g x) : run f a n = run g a n :=
  List.map_congr_left fun i hi => h _ (by omega) (by have := List.mem_range.1 hi; omega)

/-! ## Records of the log (R454) -/

section
variable {b : List Byte} (hb : b.length = 60)
include hb

theorem withCrc_length : (withCrc b).length = 64 := by rw [withCrc, List.length_append, toLe_length, hb]

theorem crcOk_withCrc : crcOk (withCrc b) = true := by
  have hcrc : (crc32 b).toNat < 256 ^ 4 := (crc32 b).isLt
  have hdrop : (withCrc b).drop 60 = toLe 4 (crc32 b).toNat := by rw [withCrc, ← hb]; exact List.drop_left
  have htake : (withCrc b).take 60 = b := by rw [withCrc, ← hb]; exact List.take_left
  have hfour : (toLe 4 (crc32 b).toNat).take 4 = toLe 4 (crc32 b).toNat := List.take_of_length_le (by rw [toLe_length])
  rw [crcOk, hdrop, htake, hfour, leNat_toLe, Nat.mod_eq_of_lt hcrc, beq_self_eq_true]

end

section
variable (l : LogSrc) (time : W64) (boot : Nat) (lost : Bool)

/-- A record without its CRC. -/
def recordBody : List Byte :=
  toLe 8 time.toNat ++ toLe 4 boot ++ toLe 4 l.page.toNat ++ toLe 2 l.code.toNat ++ toLe 2 (bn lost + bn l.wdog <<< 1) ++
    l.info.toList.flatMap (fun v => toLe 4 v.toNat) ++ toLe 24 0

theorem recordBytes_eq : recordBytes l time boot lost = withCrc (recordBody l time boot lost) := rfl

theorem recordBody_length : (recordBody l time boot lost).length = 60 := by
  simp only [recordBody, List.length_append, List.length_flatMap, toLe_length, List.map_const', List.sum_replicate, Vector.length_toList]
  rfl

theorem recordBytes_length : (recordBytes l time boot lost).length = 64 := withCrc_length (recordBody_length ..)

theorem crcOk_recordBytes : crcOk (recordBytes l time boot lost) = true := crcOk_withCrc (recordBody_length ..)

end

/-- The header of the log without its CRC. -/
def Mgmt.headerBody (m : Mgmt) : List Byte := toLe 4 m.boot ++ toLe 4 ((m.logNext + LOG_RING - 1) % LOG_RING) ++ toLe 52 0

section
variable (m : Mgmt)

theorem Mgmt.headerBody_length : m.headerBody.length = 60 := by simp only [Mgmt.headerBody, List.length_append, toLe_length]

theorem Mgmt.putHeader_eq : m.putHeader = { m with psr := putCells m.psr LOG_HEADER (withCrc m.headerBody) } := rfl

theorem Mgmt.psr_putHeader : m.putHeader.psr = putCells m.psr LOG_HEADER (withCrc m.headerBody) := by
  rw [Mgmt.putHeader_eq]

theorem Mgmt.psram_putHeader : m.putHeader.psram = m.psram := by rw [Mgmt.putHeader_eq]

/-- The header in place carries its CRC. -/
theorem Mgmt.crcOk_putHeader : crcOk (run m.putHeader.psrByte LOG_HEADER 64) = true := by
  have hrun := Mgmt.run_put (m := m) (m' := m.putHeader) m.psr_putHeader m.psram_putHeader
  rw [withCrc_length m.headerBody_length] at hrun
  rw [hrun, crcOk_withCrc m.headerBody_length]

theorem Mgmt.psrByte_putHeader {x : Nat} (h : x < LOG_HEADER ∨ LOG_HEADER + 64 ≤ x) : m.putHeader.psrByte x = m.psrByte x := by
  rw [Mgmt.psrByte_put (m := m) (m' := m.putHeader) m.psr_putHeader m.psram_putHeader, withCrc_length m.headerBody_length, if_neg (by omega)]

/-- The record behind the newest one, as it enters the ring. -/
def Mgmt.logged (l : LogSrc) (rest : List LogSrc) (time : W64) : Mgmt :=
  { m with logq := rest, lost := false, psr := putCells m.psr (LOG_AT + 64 * m.logNext) (recordBytes l time m.boot m.lost),
           logNext := (m.logNext + 1) % LOG_RING, logNew := min LOG_RING (m.logNew + 1), ibi := m.ibi + 1 }

variable (l : LogSrc) (rest : List LogSrc) (time : W64)

theorem State.writeRecord_of_cons {s : State} (h : s.mgmt.logq = l :: rest) :
    s.writeRecord time = { s with mgmt := (s.mgmt.logged l rest time).putHeader } := by
  simp only [State.writeRecord, State.modMgmt, h]
  rfl

theorem Mgmt.psr_logged : (m.logged l rest time).psr =
    putCells m.psr (LOG_AT + 64 * m.logNext) (recordBytes l time m.boot m.lost) := by
  rw [Mgmt.logged]

variable (hn : m.logNext < LOG_RING)
include hn

theorem Mgmt.newest_logged : (m.logged l rest time).putHeader.newest = m.logNext := by
  have hnext : (m.logged l rest time).putHeader.logNext = (m.logNext + 1) % LOG_RING := rfl
  have hnew : (m.logged l rest time).putHeader.logNew = min LOG_RING (m.logNew + 1) := rfl
  have hring : LOG_RING = 262143 := rfl
  rw [hring] at hn hnext hnew
  rw [Mgmt.newest, hnext, hnew, hring, if_neg (by omega)]
  omega

theorem Mgmt.recordAt_logged :
    (m.logged l rest time).putHeader.recordAt (m.logged l rest time).putHeader.newest = some (recordBytes l time m.boot m.lost) := by
  have hring : LOG_RING = 262143 := rfl
  have hat : LOG_HEADER = LOG_AT + 64 * LOG_RING := rfl
  have hnew : (m.logged l rest time).putHeader.logNew = min LOG_RING (m.logNew + 1) := rfl
  have hrun : run (m.logged l rest time).putHeader.psrByte (LOG_AT + 64 * m.logNext) 64 = recordBytes l time m.boot m.lost := by
    have hput := Mgmt.run_put (m := m) (m' := m.logged l rest time) (m.psr_logged l rest time) rfl
    rw [recordBytes_length] at hput
    rw [run_congr fun x _ hx => (m.logged l rest time).psrByte_putHeader (.inl (by omega)), hput]
  rw [m.newest_logged l rest time hn, Mgmt.recordAt, hrun, m.newest_logged l rest time hn, hnew]
  rw [if_neg (by omega), if_pos (.inl (by rw [Nat.add_sub_cancel_left, Nat.mod_self]; omega))]

omit hn in
theorem Mgmt.psrByte_logged {x : Nat} (h : x < LOG_AT + 64 * m.logNext ∨ LOG_AT + 64 * m.logNext + 64 ≤ x)
    (hh : x < LOG_HEADER ∨ LOG_HEADER + 64 ≤ x) : (m.logged l rest time).putHeader.psrByte x = m.psrByte x := by
  rw [Mgmt.psrByte_putHeader _ hh, Mgmt.psrByte_put (m := m) (m' := m.logged l rest time) (m.psr_logged l rest time) rfl, recordBytes_length, if_neg (by omega)]

end

end Sys2Proof.Machine
end

section
/-! Rejected images, recovery mode and the watchdog (R440, R442, R455, R459, R460). -/

namespace Sys2Proof.Machine
open Sys2Proof

/-! ## What a record leaves of the management state -/

section
variable (s : State)

theorem State.forward_frame (l : LogSrc) : s.forward l =
    { s with mgmt := { s.mgmt with logq := (s.forward l).mgmt.logq, lost := (s.forward l).mgmt.lost } } := by
  unfold State.forward State.modMgmt
  dsimp only
  split <;> rfl

/-- A record enters the log's queue, or marks it as short of one. -/
theorem State.mgmt_record (p : Page) (r : Rec) : (s.record p r).mgmt =
    { s.mgmt with logq := (s.record p r).mgmt.logq, lost := (s.record p r).mgmt.lost } := by
  rw [State.record, State.event_mgmt, State.putCode]
  exact congrArg State.mgmt (State.forward_frame _ _)

/-! ## Verification of the flash -/

variable {s} in
/-- The verification reads fuses, flash and the marks of slots cut short. -/
theorem State.verifyFlash_congr {t : State} {ty : Nat} (hfuses : t.mgmt.fuses = s.mgmt.fuses) (hflash : t.mgmt.flash = s.mgmt.flash)
    (hbad : t.mgmt.flashBad[slotIx ty] = s.mgmt.flashBad[slotIx ty]) (hfree : t.free = s.free) (readOk : Bool) :
    t.verifyFlash ty readOk = s.verifyFlash ty readOk := by
  have hread : t.mgmt.inFlash ty = s.mgmt.inFlash ty := by
    funext i
    rw [Mgmt.inFlash, Mgmt.flashByte, hflash]
    rfl
  simp only [State.verifyFlash, hfuses, hbad, hfree, hread]

/-! ## IMAGE_REJECT -/

theorem State.reject_page (ty k : Nat) (v : W32) : (s.reject ty k v).pg .sec PG_ERR_CODE = 0x0601 ∧
    (s.reject ty k v).pg .sec PG_ERR_INFO0 = w32 (ty + k <<< 4) ∧ (s.reject ty k v).pg .sec (PG_ERR_INFO0 + 4) = v := by
  obtain ⟨hcode, hinfo, hsvn, -⟩ := s.record_page .sec
    { code := 0x0601, i0 := w32 (ty + k <<< 4), i1 := v, i2 := w32 (s.mgmt.fuses.minSvn ty), i3 := 0 }
  exact ⟨hcode, hinfo, hsvn⟩

theorem State.reject_frame (ty k : Nat) (v : W32) : s.reject ty k v =
    { s with regs := (s.reject ty k v).regs, host := (s.reject ty k v).host,
             mgmt := { s.mgmt with logq := (s.reject ty k v).mgmt.logq, lost := (s.reject ty k v).mgmt.lost } } :=
  (State.record_frame ..).trans (congrArg (fun m : Mgmt => { s with regs := (s.reject ty k v).regs, host := (s.reject ty k v).host, mgmt := m })
    (State.mgmt_record ..))

theorem State.pg_reject {q : Page} {o : Nat} (ty k : Nat) (v : W32) (ho : o < 0x1000) (h : PG_CNT_CTRL ≤ o)
    (hcnt : q ≠ .pkg ∨ (o ≠ PG_CNT 3 ∧ o ≠ PG_CNT 3 + 4)) : (s.reject ty k v).pg q o = s.pg q o :=
  State.pg_record_frame _ _ _ ho (.inr (.inr (.inr h))) hcnt

/-! ## Recovery mode (R442) -/

theorem State.pg_recover (q : Page) {o : Nat} (ho : o < 0x1000) : s.recover.pg q o =
    if q = .sec ∧ o = SEC_STAT then putBits (s.pg .sec SEC_STAT) 0 1 1 else if q = .pkg ∧ o = PKG_STAT then 3 else s.pg q o := by
  have hstat : (s.setPg .pkg PKG_STAT 3).pg .sec SEC_STAT = s.pg .sec SEC_STAT :=
    State.pg_setPg_page _ _ _ _ _ _ (by decide) (by decide) (by nofun)
  change ((s.setPg .pkg PKG_STAT 3).setField .sec SEC_STAT 0 1 1).pg q o = _
  rw [State.setField, hstat, State.pg_setPg _ _ _ _ _ _ (by decide) ho, State.pg_setPg _ _ _ _ _ _ (by decide) ho]

/-- Recovery mode asserts ALERT_N. -/
theorem State.recover_frame : s.recover =
    { s with regs := s.recover.regs, mgmt := { s.mgmt with up := true }, pins := { s.pins with alert := true } } := by
  have hrec : s.recover.recovery = true := by
    rw [State.recovery, s.pg_recover .pkg (by decide), if_neg (by rintro ⟨h, -⟩; cases h), if_pos ⟨rfl, rfl⟩]
    rfl
  have halert : s.recover.pins = { s.pins with alert := s.recover.capped || s.recover.recovery } := rfl
  rw [hrec, Bool.or_true] at halert
  rw [← halert]
  rfl

end

/-! ## The watchdog (R455, R460) -/

section
variable (s : State)

/-- The restart of the controller before the firmware is verified again: a COMMIT under way is cut short. -/
def State.cutShort : State :=
  let cut := s.mgmt.committing[0] || s.mgmt.committing[1]
  let t := ((s.setField .sec SEC_STAT 5 1 1).modMgmt fun m =>
    { m with flashBad := Vector.ofFn fun i => m.flashBad[i] || m.committing[i], committing := #v[false, false],
             served := if cut then some (fail ST_FLASH_ERR) else m.served }).forward (ctlLog 0 true)
  if cut then t.forward (ctlLog (Config.flashErrCode t.free) false) else t

theorem State.watchdog_eq (fw : Bool) : s.watchdog fw =
    if s.mgmt.committing[0] then s.cutShort
    else match s.cutShort.verifyFlash 1 fw with
      | some (k, v) => (s.cutShort.reject 1 k v).fallBack
      | none => s.cutShort := rfl

theorem State.cutShort_frame : s.cutShort = { s with
    regs := (s.setField .sec SEC_STAT 5 1 1).regs
    mgmt := { s.mgmt with
      flashBad := Vector.ofFn fun i => s.mgmt.flashBad[i] || s.mgmt.committing[i]
      committing := #v[false, false]
      served := if s.mgmt.committing[0] || s.mgmt.committing[1] then some (fail ST_FLASH_ERR) else s.mgmt.served
      logq := s.cutShort.mgmt.logq
      lost := s.cutShort.mgmt.lost } } := by
  unfold State.cutShort
  dsimp only
  split
  · rw [State.forward_frame, State.forward_frame]
    rfl
  · rw [State.forward_frame]
    rfl

theorem State.pg_cutShort (q : Page) {o : Nat} (ho : o < 0x1000) : s.cutShort.pg q o =
    if q = .sec ∧ o = SEC_STAT then putBits (s.pg .sec SEC_STAT) 5 1 1 else s.pg q o := by
  rw [State.cutShort_frame]
  exact State.pg_setPg _ _ _ _ _ _ (by decide) ho

/-- A verification that finds no COMMIT of the firmware cut short reads what it read before. -/
theorem State.verifyFlash_cutShort (h : s.mgmt.committing[0] = false) (fw : Bool) : s.cutShort.verifyFlash 1 fw = s.verifyFlash 1 fw := by
  refine State.verifyFlash_congr ?_ ?_ ?_ ?_ fw <;> rw [State.cutShort_frame]
  change (Vector.ofFn fun i => s.mgmt.flashBad[i] || s.mgmt.committing[i])[0] = s.mgmt.flashBad[0]
  rw [Vector.getElem_ofFn]
  exact (congrArg (s.mgmt.flashBad[0] || ·) h).trans (Bool.or_false _)

/-- The registers that the end of the firmware's verification leaves. -/
theorem State.pg_fallBack (q : Page) {o : Nat} (ho : o < 0x1000) : s.fallBack.pg q o =
    if q = .sec ∧ o = SEC_STAT then putBits (putBits (putBits (s.pg .sec SEC_STAT) 1 1 0) 2 1 0) 0 1 1
    else if q = .pkg ∧ o = PKG_STAT then 3 else s.pg q o := by
  rw [State.fallBack, State.pg_recover _ _ ho]
  split
  · rw [State.pg_setField_same, State.pg_setField_same]
  next hsec =>
    split
    · rfl
    · rw [State.pg_setField_other _ _ _ _ _ _ _ _ (by decide) ho (by tauto), State.pg_setField_other _ _ _ _ _ _ _ _ (by decide) ho (by tauto)]

theorem State.fallBack_frame : s.fallBack =
    { s with regs := s.fallBack.regs, mgmt := { s.mgmt with up := true }, pins := { s.pins with alert := true } } :=
  State.recover_frame _

end

/-- What a restart leaves of the management state, of memory and cores, whatever the verification finds. -/
structure Restarted (s t : State) : Prop where
  committing : t.mgmt.committing = #v[false, false]
  flashBad : ∀ i : Fin 2, t.mgmt.flashBad[i] = (s.mgmt.flashBad[i] || s.mgmt.committing[i])
  served : t.mgmt.served = if s.mgmt.committing[0] || s.mgmt.committing[1] then some (fail ST_FLASH_ERR) else s.mgmt.served
  mem : t.mem = s.mem
  cores : t.cores = s.cores
  flagged : bit (t.pg .sec SEC_STAT) 5 = true

theorem Restarted.cutShort (s : State) : Restarted s s.cutShort := by
  refine ⟨by rw [State.cutShort_frame], fun i => ?_, by rw [State.cutShort_frame], by rw [State.cutShort_frame], by rw [State.cutShort_frame], ?_⟩
  · rw [State.cutShort_frame]
    simp
  · rw [State.pg_cutShort _ _ (by decide), if_pos ⟨rfl, rfl⟩, bit_putBits _ _ _ _ _ (by decide)]
    rfl

theorem Restarted.fallBack {s t : State} (h : Restarted s t) (k : Nat) (v : W32) : Restarted s (t.reject 1 k v).fallBack := by
  refine ⟨?_, fun i => ?_, ?_, ?_, ?_, ?_⟩
  · rw [State.fallBack_frame, State.reject_frame]; exact h.committing
  · rw [State.fallBack_frame, State.reject_frame]; exact h.flashBad i
  · rw [State.fallBack_frame, State.reject_frame]; exact h.served
  · rw [State.fallBack_frame, State.reject_frame]; exact h.mem
  · rw [State.fallBack_frame, State.reject_frame]; exact h.cores
  · rw [State.pg_fallBack _ _ (by decide), if_pos ⟨rfl, rfl⟩, bit_putBits_other _ _ _ _ _ (by decide) (by decide),
      bit_putBits_other _ _ _ _ _ (by decide) (by decide), bit_putBits_other _ _ _ _ _ (by decide) (by decide),
      State.pg_reject _ _ _ _ (by decide) (by decide) (.inl (by simp))]
    exact h.flagged

theorem Restarted.watchdog (s : State) (fw : Bool) : Restarted s (s.watchdog fw) := by
  rw [State.watchdog_eq]
  split
  · exact .cutShort s
  · split
    · exact (Restarted.cutShort s).fallBack _ _
    · exact .cutShort s

/-- A rejected firmware ends in recovery mode. -/
theorem State.watchdog_rejected {s : State} {fw : Bool} {k : Nat} {v : W32} (hc : s.mgmt.committing[0] = false)
    (hv : s.verifyFlash 1 fw = some (k, v)) : (s.watchdog fw).pg .pkg PKG_STAT = 3 ∧ (s.watchdog fw).pg .sec PG_ERR_CODE = 0x0601 ∧
      bit ((s.watchdog fw).pg .sec SEC_STAT) 1 = false ∧ bit ((s.watchdog fw).pg .sec SEC_STAT) 2 = false ∧
      bit ((s.watchdog fw).pg .sec SEC_STAT) 0 = true := by
  have hend : s.watchdog fw = (s.cutShort.reject 1 k v).fallBack := by
    rw [State.watchdog_eq, if_neg (by rw [hc]; decide), State.verifyFlash_cutShort _ hc, hv]
  rw [hend]
  have hstat := (s.cutShort.reject 1 k v).pg_fallBack .sec (o := SEC_STAT) (by decide)
  rw [if_pos ⟨rfl, rfl⟩] at hstat
  refine ⟨?_, ?_, ?_, ?_, ?_⟩
  · rw [State.pg_fallBack _ _ (by decide), if_neg (by rintro ⟨h, -⟩; cases h), if_pos ⟨rfl, rfl⟩]
  · rw [State.pg_fallBack _ _ (by decide), if_neg (by decide), if_neg (by decide)]
    exact (State.reject_page ..).1
  · rw [hstat, bit_putBits_other _ _ _ _ _ (by decide) (by decide), bit_putBits_other _ _ _ _ _ (by decide) (by decide),
      bit_putBits _ _ _ _ _ (by decide)]
    rfl
  · rw [hstat, bit_putBits_other _ _ _ _ _ (by decide) (by decide), bit_putBits _ _ _ _ _ (by decide)]
    rfl
  · rw [hstat, bit_putBits _ _ _ _ _ (by decide)]
    rfl

/-- Without a verification that fails the package goes on as it was. -/
theorem State.watchdog_goesOn {s : State} {fw : Bool} (h : s.mgmt.committing[0] = true ∨ s.verifyFlash 1 fw = none) :
    (s.watchdog fw).pg .pkg PKG_STAT = s.pg .pkg PKG_STAT := by
  have hend : s.watchdog fw = s.cutShort := by
    rw [State.watchdog_eq]
    split
    · rfl
    next hc =>
      rw [State.verifyFlash_cutShort _ (by simpa using hc), h.resolve_left hc]
  rw [hend, State.pg_cutShort _ _ (by decide), if_neg (by rintro ⟨h, -⟩; cases h)]

end Sys2Proof.Machine
end

section
/-! The controller's own commands and the test access port (R452 to R455, R458, R460). -/

namespace Sys2Proof.Machine
open Sys2Proof

/-! ## The test access port (R458) -/

/-- Each cell of the chain is found where it stands. -/
theorem findIdx_chainPins : ∀ i : Fin 31, chainPins.findIdx? (· == chainPins[i]) = some i.val := by decide

theorem findIdx_of_chainPin {i : Nat} {p : Pin} (h : chainPins[i]? = some p) : chainPins.findIdx? (· == p) = some i := by
  obtain ⟨hi, rfl⟩ := List.getElem?_eq_some_iff.1 h
  exact findIdx_chainPins ⟨i, hi⟩

section
variable (s : State)

theorem State.tapAct_of_powered (h : s.pins.vddMgt = true) (t : State) : s.tapAct t = .next t := congrArg Host.Outcome.next (if_pos h)

/-- A pin of the chain under an instruction. -/
theorem State.pinAt_chain {i : Nat} {p : Pin} (h : chainPins[i]? = some p) (t : Tap) :
    ((t.ir = .extest ∨ t.ir = .clamp) → p ≠ .avsSdata → (s.setTap t).pinAt p = if t.cells.getD i false then .high else .low) ∧
    (t.ir = .highz → (s.setTap t).pinAt p = .highZ) ∧
    ((t.ir = .bypass ∨ t.ir = .idcode ∨ t.ir = .sample) → (s.setTap t).pinAt p = s.pinLevel p) := by
  have hidx := findIdx_of_chainPin h
  have htap : (s.setTap t).mgmt.tap = t := rfl
  have hlevel : (s.setTap t).pinLevel p = s.pinLevel p := rfl
  refine ⟨fun hir hp => ?_, fun hir => ?_, fun hir => ?_⟩
  · have hdrive : drivable p = true := by simpa [drivable] using hp
    rcases hir with hir | hir <;> simp only [State.pinAt, htap, hidx, hir, hdrive, if_true]
  · simp only [State.pinAt, htap, hidx, hir]
  · rcases hir with hir | hir | hir <;> simp only [State.pinAt, htap, hidx, hir, hlevel]

end

/-- Settles O60: each answer as its row gives it, the record by the ring, the restart by `Restarted`, the TAP by its instruction. -/
theorem controllerCommands : Obligations.ControllerCommands := by
  refine ⟨fun s hserves => ⟨?telemetry, fun e h0 hff => ?setEid, ?getEid, fun y => ?versions, ?types, fun l rest time hq hn => ?log,
    fun fw => ?watchdog⟩, fun s hvdd => ⟨?bypass, ?idcode, fun ps cs => ?sample, fun hrst => ⟨?extest, ?clamp, ?highz⟩,
    fun i p hp t => s.pinAt_chain hp t, fun hrst i hi => ?released, fun op hl => ?below, fun op hl => ?refused, ?trst⟩⟩
  case telemetry => exact congrArg Host.Outcome.next (if_pos hserves)
  case setEid =>
    refine congrArg Host.Outcome.next ((if_pos (by rw [hserves, bne_iff_ne.2 h0, bne_iff_ne.2 hff]; rfl)).trans ?_)
    exact if_pos hserves
  case getEid => exact congrArg Host.Outcome.next (if_pos hserves)
  case versions => exact congrArg Host.Outcome.next (if_pos hserves)
  case types => exact congrArg Host.Outcome.next (if_pos hserves)
  case log =>
    have hexec : exec (.logRecord time) s = .next { s with mgmt := (s.mgmt.logged l rest time).putHeader } := by
      rw [← State.writeRecord_of_cons l rest time hq]
      exact congrArg Host.Outcome.next (if_pos hserves)
    have hheader := (s.mgmt.logged l rest time).putHeader_eq
    refine ⟨_, hexec, ?_, ?_, ?_, recordBytes_length .., crcOk_recordBytes .., s.mgmt.newest_logged l rest time hn,
      s.mgmt.recordAt_logged l rest time hn, Mgmt.crcOk_putHeader _, fun a hring hhead => s.mgmt.psrByte_logged l rest time hring hhead, rfl⟩
    · exact congrArg Mgmt.logq hheader
    · exact congrArg Mgmt.ibi hheader
    · exact congrArg Mgmt.lost hheader
  case watchdog =>
    obtain ⟨hcommit, hbad, hserved, hmem, hcores, hflag⟩ := Restarted.watchdog s fw
    exact ⟨_, congrArg Host.Outcome.next (if_pos hserves), hflag, hcommit, hbad, hmem, hcores, hserved,
      fun k v hc hv => State.watchdog_rejected hc hv, State.watchdog_goesOn⟩
  case bypass => exact s.tapAct_of_powered hvdd _
  case idcode => exact s.tapAct_of_powered hvdd _
  case sample => exact s.tapAct_of_powered hvdd _
  case extest => exact (s.tapAct_of_powered hvdd _).trans (congrArg Host.Outcome.next (if_pos hrst))
  case clamp => exact (s.tapAct_of_powered hvdd _).trans (congrArg Host.Outcome.next (if_pos hrst))
  case highz => exact (s.tapAct_of_powered hvdd _).trans (congrArg Host.Outcome.next (if_pos hrst))
  case released =>
    have hno : ¬s.pins.perst = true := by simp [hrst]
    have hpin (ir : TapIr) (dr : List Bool) : s.tapAct (s.tapPin ir dr) = s.tapAct s.tapBypass := congrArg s.tapAct (if_neg hno)
    simp only [List.mem_cons, List.not_mem_nil, or_false] at hi
    rcases hi with rfl | rfl | rfl
    · exact hpin _ _
    · exact hpin _ _
    · exact hpin _ _
  case below => exact if_neg hl
  case refused => exact if_pos hl
  case trst => exact s.tapAct_of_powered hvdd _

end Sys2Proof.Machine
end

section
/-! Management commands: which row carries one out, and how its result is published (R442, R450 to R452, R455). -/

namespace Sys2Proof.Machine
open Sys2Proof

/-! ## The rows -/

/-- Every row hands its operation to `serve`. -/
theorem exec_mgtRow {e : StartEnv} {okf : Bool} {r : MgtRow} (hr : r ∈ mgtRows e okf) (q : MgtReq) (s : State) :
    exec (r.row q) s = .next (s.serve q r.op r.act) := by
  simp only [mgtRows, mgtRow, List.mem_cons, List.not_mem_nil, or_false] at hr
  rcases hr with rfl | rfl | rfl | rfl | rfl | rfl | rfl | rfl | rfl | rfl | rfl | rfl | rfl | rfl <;> rfl

section
variable {s : State} (hserves : s.serves = true) {op : Nat} {f : State → W32 → List Byte → State × Served}
include hserves

theorem State.serve_mailbox (hbusy : s.mbxBusy = true) (hnew : s.mgmt.served = none) (hop : s.mbxOp = op)
    (hmode : s.recovery = false ∨ op ∈ recoveryOps) : s.serve .mailbox op f =
      (f s (s.pg .mbx MBX_ARG0) s.mbxData).1.modMgmt fun m => { m with served := some (f s (s.pg .mbx MBX_ARG0) s.mbxData).2 } := by
  have hguard : (s.recovery && !recoveryOps.contains op) = false := by
    rcases hmode with h | h
    · rw [h]; rfl
    · rw [List.contains_iff_mem.2 h, Bool.not_true, Bool.and_false]
  simp only [State.serve, hserves, hbusy, hnew, hop, hguard, Bool.not_true, Bool.false_eq_true, if_false, Option.isNone_none, beq_self_eq_true,
    Bool.and_self, if_true]

theorem State.serve_mailbox_notInMode (hbusy : s.mbxBusy = true) (hnew : s.mgmt.served = none) (hop : s.mbxOp = op)
    (hrec : s.recovery = true) (hno : op ∉ recoveryOps) : s.serve .mailbox op f =
      s.modMgmt fun m => { m with served := some (fail ST_NOT_IN_MODE) } := by
  have hguard : (s.recovery && !recoveryOps.contains op) = true := by
    rw [hrec, Bool.true_and, Bool.not_eq_true', ← Bool.not_eq_true, List.contains_iff_mem]
    exact hno
  simp only [State.serve, hserves, hbusy, hnew, hop, hguard, Bool.not_true, Bool.false_eq_true, if_false, Option.isNone_none, beq_self_eq_true,
    Bool.and_self, if_true]

theorem State.serve_mailbox_idle (h : s.mbxBusy = false ∨ s.mgmt.served ≠ none ∨ s.mbxOp ≠ op) : s.serve .mailbox op f = s := by
  have hguard : (s.mbxBusy && s.mgmt.served.isNone && s.mbxOp == op) = false := by
    rcases h with h | h | h
    · rw [h]; rfl
    · rw [Option.isNone_eq_false_iff.2 (Option.isSome_iff_ne_none.2 h), Bool.and_false, Bool.false_and]
    · rw [beq_eq_false_iff_ne.2 h, Bool.and_false]
  simp only [State.serve, hserves, hguard, Bool.not_true, Bool.false_eq_true, if_false]

variable (o : Byte) (a0 a1 : W32) (d : List Byte)

theorem State.serve_i3c_unknown (hno : o.toNat ∉ i3cOps) (ht : o.toNat ≠ OP_TELEMETRY) : s.serve (.i3c o a0 a1 d) op f =
    s.modMgmt fun m => { m with i3c := some { fail ST_BAD_CMD with vendor := some m.fuses.vendor } } := by
  have hguard : (!i3cOps.contains o.toNat && o.toNat != OP_TELEMETRY) = true := by
    rw [bne_iff_ne.2 ht, Bool.and_true, Bool.not_eq_true', ← Bool.not_eq_true, List.contains_iff_mem]
    exact hno
  simp only [State.serve, hserves, hguard, Bool.not_true, Bool.false_eq_true, if_false, if_true]
  rfl

theorem State.serve_i3c_guard (h : o.toNat ∈ i3cOps ∨ o.toNat = OP_TELEMETRY) : s.serve (.i3c o a0 a1 d) op f =
    if o.toNat = op then (f s a0 d).1.answer7e (f s a0 d).2 else s := by
  have hguard : (!i3cOps.contains o.toNat && o.toNat != OP_TELEMETRY) = false := by
    rcases h with h | h
    · rw [List.contains_iff_mem.2 h]; rfl
    · rw [h, bne_self_eq_false, Bool.and_false]
  simp only [State.serve, hserves, hguard, Bool.not_true, Bool.false_eq_true, if_false]

end

/-! ## Bytes of the mailbox -/

theorem leNat_lt (l : List Byte) : leNat l < 256 ^ l.length := by
  induction l with
  | nil => exact Nat.one_pos
  | cons b l ih =>
    have hb : b.toNat < 256 := b.isLt
    rw [leNat, List.length_cons, Nat.pow_succ]
    omega

theorem leNat_byte (l : List Byte) (j : Nat) : leNat l / 256 ^ j % 256 = (l.getD j 0).toNat := by
  induction l generalizing j with
  | nil => simp [leNat]
  | cons b l ih =>
    have hb : b.toNat < 256 := b.isLt
    cases j with
    | zero => rw [leNat, Nat.pow_zero, Nat.div_one, List.getD_cons_zero]; omega
    | succ j =>
      rw [leNat, List.getD_cons_succ, ← ih, Nat.pow_succ', ← Nat.div_div_eq_div_mul]
      congr 2
      omega

/-- A byte of a register that holds four bytes. -/
theorem bits_leNat {l : List Byte} (hl : l.length = 4) (j : Nat) : bits (w32 (leNat l)) (8 * j) 8 = (l.getD j 0).toNat := by
  have hlt := leNat_lt l
  rw [hl] at hlt
  have hw : (w32 (leNat l)).toNat = leNat l := by
    rw [w32, BitVec.toNat_ofNat]
    exact Nat.mod_eq_of_lt hlt
  rw [bits, hw, Nat.shiftRight_eq_div_pow, Nat.pow_mul]
  exact leNat_byte l j

/-- Four bytes of a response from 4 k on, over what the register held. -/
def mbxBytes (w : W32) (d : List Byte) (k : Nat) : List Byte :=
  (d.drop (4 * k)).take 4 ++ (toLe 4 w.toNat).drop ((d.drop (4 * k)).take 4).length

theorem mbxBytes_length (w : W32) (d : List Byte) (k : Nat) : (mbxBytes w d k).length = 4 := by
  have : ((d.drop (4 * k)).take 4).length ≤ 4 := List.length_take_le ..
  rw [mbxBytes, List.length_append, List.length_drop, toLe_length]
  omega

theorem mbxBytes_getD (w : W32) {d : List Byte} {k j : Nat} (hj : j < 4) (h : 4 * k + j < d.length) :
    (mbxBytes w d k).getD j 0 = d.getD (4 * k + j) 0 := by
  have hchunk : j < ((d.drop (4 * k)).take 4).length := by
    rw [List.length_take, List.length_drop]
    omega
  rw [mbxBytes, List.getD_append _ _ _ _ hchunk, List.getD_eq_getElem _ _ hchunk, List.getElem_take, List.getElem_drop,
    List.getD_eq_getElem _ _ h]

section
variable (s : State) (d : List Byte)

/-- The first n registers of a response. -/
def State.mbxFilled (n : Nat) : State :=
  forRange n (fun i s => s.setPg .mbx (MBX_DATA i) (w32 (leNat (mbxBytes (s.pg .mbx (MBX_DATA i)) d i)))) s

theorem State.setMbxData_eq : s.setMbxData d = s.mbxFilled d (cdiv d.length 4) := rfl

theorem State.mbxFilled_frame (n : Nat) : s.mbxFilled d n = { s with regs := (s.mbxFilled d n).regs } :=
  forRange_keeps (fun t : State => t = { s with regs := t.regs }) n _ (fun i t ht => by rw [State.setPg_frame, ht]) s rfl

/-- Two registers of the mailbox. -/
theorem State.pg_setPg_mbx {o o' : Nat} (v : W32) (h : o' ≠ o) : (s.setPg .mbx o v).pg .mbx o' = s.pg .mbx o' :=
  smGet_set_other regReset s.regs (Page.mbx.base + o) (Page.mbx.base + o') v fun he => h (Nat.add_left_cancel he)

theorem State.pg_mbxFilled_other (n : Nat) {o : Nat} (h : ∀ i, o ≠ MBX_DATA i) : (s.mbxFilled d n).pg .mbx o = s.pg .mbx o :=
  forRange_keeps (fun t : State => t.pg .mbx o = s.pg .mbx o) n _
    (fun i t ht => (State.pg_setPg_mbx t _ (h i)).trans ht) s rfl

theorem State.pg_mbxFilled (n k : Nat) : (s.mbxFilled d n).pg .mbx (MBX_DATA k) =
    if k < n then w32 (leNat (mbxBytes (s.pg .mbx (MBX_DATA k)) d k)) else s.pg .mbx (MBX_DATA k) := by
  induction n with
  | zero => rfl
  | succ n ih =>
    rw [State.mbxFilled, forRange_succ, ← State.mbxFilled]
    by_cases hk : k = n
    · subst hk
      rw [State.pg_setPg_same, ih, if_neg (lt_irrefl k), if_pos (Nat.lt_succ_self k)]
    · rw [State.pg_setPg_mbx _ _ (by simp only [MBX_DATA]; omega), ih]
      exact if_congr (by omega) rfl rfl

/-- A byte of the response. -/
theorem State.bits_setMbxData {i : Nat} (hi : i < d.length) :
    bits ((s.setMbxData d).pg .mbx (MBX_DATA (i / 4))) (8 * (i % 4)) 8 = (d.getD i 0).toNat := by
  have hsplit : 4 * (i / 4) + i % 4 = i := Nat.div_add_mod i 4
  rw [State.setMbxData_eq, State.pg_mbxFilled, if_pos (by simp only [cdiv]; omega), bits_leNat (mbxBytes_length ..),
    mbxBytes_getD _ (Nat.mod_lt _ (by decide)) (by omega), hsplit]

end

/-! ## The result is published (R450) -/

section
variable (s : State) (v : Served)

/-- The registers of a result. -/
def State.withResult : State :=
  let t := (s.setPg .mbx MBX_STAT (w32 (v.status <<< 8 + v.data.length % 4096 <<< 16))).setMbxData v.data
  match v.ret0 with
  | some r => t.setPg .mbx MBX_RET0 r
  | none => t

/-- The mailbox with a result published. -/
def State.published : State := ((s.withResult v).modMgmt fun m => { m with served := none, committing := #v[false, false] }).event .mbx EVT_DONE

theorem State.mbxDone_of_served (h : s.mgmt.served = some v) : s.mbxDone = s.published v := by
  rw [State.mbxDone, h]
  rfl

theorem State.mbxDone_of_undefined (h : s.mgmt.served = none) (hop : definedOp s.mbxOp = false) : s.mbxDone = s.published (fail ST_BAD_CMD) := by
  rw [State.mbxDone, h, hop]
  rfl

theorem State.mbxDone_of_defined (h : s.mgmt.served = none) (hop : definedOp s.mbxOp = true) : s.mbxDone = s := by
  rw [State.mbxDone, h, hop]
  rfl

theorem State.withResult_frame : s.withResult v = { s with regs := (s.withResult v).regs } := by
  have hdata : ∀ t : State, t.setMbxData v.data = { t with regs := (t.setMbxData v.data).regs } := fun t => t.mbxFilled_frame _ _
  unfold State.withResult
  dsimp only
  split <;> rw [hdata] <;> rfl

/-- A register that is neither the return value nor a byte of the response. -/
theorem State.pg_withResult {o : Nat} (hret : o ≠ MBX_RET0) : (s.withResult v).pg .mbx o =
    ((s.setPg .mbx MBX_STAT (w32 (v.status <<< 8 + v.data.length % 4096 <<< 16))).setMbxData v.data).pg .mbx o := by
  unfold State.withResult
  split
  · exact State.pg_setPg_mbx _ _ hret
  · rfl

theorem State.pg_published {o : Nat} (ho : o < 0x1000) (hraw : o ≠ PG_EVT_RAW) : (s.published v).pg .mbx o = (s.withResult v).pg .mbx o := by
  rw [State.published, State.pg_event_other ho (by nofun) (.inr hraw)]
  rfl

theorem State.published_stat : (s.published v).pg .mbx MBX_STAT = w32 (v.status <<< 8 + v.data.length % 4096 <<< 16) := by
  rw [State.pg_published _ _ (by decide) (by decide), State.pg_withResult _ _ (by decide), State.setMbxData_eq,
    State.pg_mbxFilled_other _ _ _ (by intro i; simp only [MBX_STAT, MBX_DATA]; omega), State.pg_setPg_same]

theorem State.published_data {i : Nat} (hi : i < v.data.length) (h : i < 2048) :
    bits ((s.published v).pg .mbx (MBX_DATA (i / 4))) (8 * (i % 4)) 8 = (v.data.getD i 0).toNat := by
  rw [State.pg_published _ _ (by simp only [MBX_DATA]; omega) (by simp only [MBX_DATA, PG_EVT_RAW]; omega),
    State.pg_withResult _ _ (by simp only [MBX_DATA, MBX_RET0]; omega), State.bits_setMbxData _ _ hi]

theorem State.published_ret0 {r : W32} (h : v.ret0 = some r) : (s.published v).pg .mbx MBX_RET0 = r := by
  rw [State.pg_published _ _ (by decide) (by decide), State.withResult, h]
  exact State.pg_setPg_same ..

theorem State.published_raw : bit ((s.published v).pg .mbx PG_EVT_RAW) EVT_DONE = true := State.bit_raw_event _ _ _ (by decide)

theorem State.published_frame : (s.published v).mgmt.served = none ∧ (s.published v).mem = s.mem := by
  rw [State.published, (Delivered.event _ _ _).frame, State.withResult_frame]
  exact ⟨rfl, rfl⟩

end

/-- Settles O58: a row by `serve`, a result by the registers that it is published in. -/
theorem managementServed : Obligations.ManagementServed := by
  refine ⟨fun e okf r hr s hserves => ⟨fun hbusy hnew hop => ⟨fun hmode => ?_, fun hrec hno => ?_⟩, fun hidle => ?_,
    fun o a0 a1 d => ⟨fun hno ht => ?_, fun hyes hop => ?_, fun hyes hop => ?_⟩⟩, fun s hserves => ⟨fun hbusy => ?done, fun hidle => ?idle,
    fun hhost hidle => ?go⟩⟩
  · rw [exec_mgtRow hr, State.serve_mailbox hserves hbusy hnew hop hmode]
  · rw [exec_mgtRow hr, State.serve_mailbox_notInMode hserves hbusy hnew hop hrec hno]
  · rw [exec_mgtRow hr, State.serve_mailbox_idle hserves hidle]
  · rw [exec_mgtRow hr, State.serve_i3c_unknown hserves o a0 a1 d hno ht]
  · rw [exec_mgtRow hr, State.serve_i3c_guard hserves o a0 a1 d (.inl hyes), if_pos hop]
    rfl
  · rw [exec_mgtRow hr, State.serve_i3c_guard hserves o a0 a1 d hyes, if_neg hop]
  case done =>
    have hexec : exec .mailboxCommandComplete s = .next s.mbxDone := congrArg Host.Outcome.next (if_pos (by rw [hserves, hbusy]; rfl))
    refine ⟨fun v hv => ?_, fun hnew hop => ?_, fun hnew hop => ?_⟩
    · rw [s.mbxDone_of_served v hv] at hexec
      exact ⟨_, hexec, s.published_stat v, (s.published_frame v).1, fun i hi h => s.published_data v hi h,
        fun r hret => s.published_ret0 v hret, s.published_raw v, (s.published_frame v).2⟩
    · rw [s.mbxDone_of_undefined hnew hop] at hexec
      exact ⟨_, hexec, s.published_stat _, s.published_raw _⟩
    · rw [hexec, s.mbxDone_of_defined hnew hop]
  case idle => exact congrArg Host.Outcome.next (if_neg (by simp [hidle]))
  case go =>
    have hthere : s.pageThere .mbx = true := by
      cases hrec : s.recovery <;> simp [State.pageThere, Page.core?, hrec]
    rw [exec_write_block hhost hthere rfl MBX_GO 1 (by decide) (by decide) (by decide)]
    change Host.Outcome.next (if s.mbxBusy then s else if MBX_GO = MBX_GO then (if bit ((1 : W64).setWidth 32) 0 then s.mbxGo else s) else _) = _
    rw [if_neg (by simp [hidle]), if_pos rfl, if_pos (by decide), State.mbxGo, if_neg (by simp [hidle])]

end Sys2Proof.Machine
end

section
/-! What management commands do to the management state (R443, R444, R448, R449, R451, R453, R456, R457). -/

namespace Sys2Proof.Machine
open Sys2Proof

/-! ## Thermometer fields (R439, R444) -/

/-- A thermometer field with k bits burned. -/
def thermometer (k : Nat) : W64 := BitVec.ofNat 64 (2 ^ k - 1)

theorem getLsbD_thermometer (k i : Nat) : (thermometer k).getLsbD i = (decide (i < 64) && decide (i < k)) := by
  rw [thermometer, BitVec.getLsbD_ofNat, Nat.testBit_two_pow_sub_one]

theorem burned_thermometer {k : Nat} (hk : k ≤ 64) : burned (thermometer k) = k := by
  have hfilter : (List.range 64).filter (fun i => (thermometer k).getLsbD i) = List.range k := by
    rw [List.filter_congr (q := fun i => decide (i < k)) fun i hi => by
      rw [getLsbD_thermometer, decide_eq_true (List.mem_range.1 hi), Bool.true_and]]
    rw [show List.range 64 = List.range k ++ (List.range (64 - k)).map (k + ·) by rw [← List.range_add, Nat.add_sub_cancel' hk],
      List.filter_append, List.filter_eq_self.2 fun i hi => by simpa using hi,
      List.filter_eq_nil_iff.2 fun i hi => by obtain ⟨j, -, rfl⟩ := List.mem_map.1 hi; simp, List.append_nil]
  rw [burned, hfilter, List.length_range]

theorem thermometer_or {j k : Nat} (h : j ≤ k) : thermometer j ||| thermometer k = thermometer k := by
  refine BitVec.eq_of_getLsbD_eq fun i hi => ?_
  rw [BitVec.getLsbD_or, getLsbD_thermometer, getLsbD_thermometer, ← Bool.and_or_distrib_left, ← Bool.decide_or]
  congr 2
  exact propext ⟨fun h' => by omega, .inr⟩

/-- Burning goes up to n, at most 64, and never back. -/
theorem burnTo_thermometer {k : Nat} (hk : k ≤ 64) (n : Nat) : burnTo (thermometer k) n = thermometer (max k (min n 64)) := by
  rw [burnTo, burned_thermometer hk]
  split
  · rw [Nat.max_eq_left (by omega)]
  · rw [Nat.max_eq_right (by omega), Nat.one_shiftLeft]
    exact thermometer_or (by omega)

/-! ## Cellar keys (R449) -/

section
variable (s : State) (f : FnId) (on : Bool)

/-- The bit of a function in CEL_XTS_EN of every port. -/
def State.setXts : State := (List.finRange 4).foldl (fun s p => s.setField (.cel p) CEL_XTS_EN f.val 1 (bn on)) s

theorem State.setXts_frame : s.setXts f on = { s with regs := (s.setXts f on).regs } :=
  foldl_keeps (fun t : State => t = { s with regs := t.regs }) _ (fun t p ht => by rw [State.setField_frame, ht]) (List.finRange 4) s rfl

theorem State.bit_setXts (p : CelId) : bit ((s.setXts f on).pg (.cel p) CEL_XTS_EN) f.val = on := by
  refine foldl_establishes (fun t : State => bit (t.pg (.cel p) CEL_XTS_EN) f.val = on)
    (fun s p => s.setField (.cel p) CEL_XTS_EN f.val 1 (bn on)) p (fun t => ?_) (fun t q ht => ?_) _ (List.mem_finRange p) s
  · rw [State.pg_setField_same, bit_putBits_bn _ _ _ (by omega)]
  · by_cases hq : p = q
    · subst hq
      rw [State.pg_setField_same, bit_putBits_bn _ _ _ (by omega)]
    · rw [State.pg_setField_other _ _ _ _ _ _ _ _ (by decide) (by decide) (.inl fun h => hq (Page.cel.inj h)), ht]

variable (a0 : W32) (d : List Byte)

/-- A key replaced, before the ports hear of it. -/
def State.rekeyed : State :=
  if bit a0 8 then s.modMgmt fun m => { m with keys := m.keys.set (slotArg a0) none }
  else (s.randomBytes 64).2.modMgmt fun m => { m with keys := m.keys.set (slotArg a0) (some (s.free + 1)) }

theorem State.doCelKey_eq : s.doCelKey a0 d = ((s.rekeyed a0).setXts (slotArg a0) (!bit a0 8), ok []) := rfl

theorem State.doCelKey_keys : (s.doCelKey a0 d).1.mgmt = (s.rekeyed a0).mgmt ∧ (s.doCelKey a0 d).1.free = (s.rekeyed a0).free := by
  rw [State.doCelKey_eq, State.setXts_frame]
  exact ⟨rfl, rfl⟩

end

/-! ## Debug levels (R456, R457) -/

section
variable {s : State} {d : List Byte} (a0 : W32) (hd : d.length = 256)
include hd

theorem State.doUnlock_rejected {k : Nat} (h : s.tokenFail d = some k) : s.doUnlock a0 d =
    ((s.modMgmt fun m => { m with nonce := none }).record .sec (mkRec 0x0602 k 0 0 0), fail ST_REJECTED) := by
  rw [State.doUnlock, if_neg (fun hne => hne hd), h]

theorem State.doUnlock_accepted (h : s.tokenFail d = none) : s.doUnlock a0 d =
    ((s.modMgmt fun m => { m with nonce := none }).setLevel (leNat ((d.drop 4).take 4)), ok []) := by
  rw [State.doUnlock, if_neg (fun hne => hne hd), h]

/-- Any token ends the nonce. -/
theorem State.nonce_doUnlock : (s.doUnlock a0 d).1.mgmt.nonce = none := by
  cases h : s.tokenFail d with
  | some k =>
    rw [s.doUnlock_rejected a0 hd h, State.mgmt_record]
    rfl
  | none =>
    rw [s.doUnlock_accepted a0 hd h]
    rfl

end

/-! ## Images -/

/-- What a rejected staged image leaves. -/
theorem State.reject_result (s : State) (ty k : Nat) (v : W32) : (s.reject ty k v).pg .sec PG_ERR_CODE = 0x0601 ∧
    (s.reject ty k v).pg .sec PG_ERR_INFO0 = w32 (ty + k <<< 4) ∧
    (s.reject ty k v).mgmt = { s.mgmt with logq := (s.reject ty k v).mgmt.logq, lost := (s.reject ty k v).mgmt.lost } := by
  obtain ⟨hcode, hinfo, -⟩ := s.reject_page ty k v
  exact ⟨hcode, hinfo, State.mgmt_record ..⟩

/-- Settles O59: each effect by the command's own operation. -/
theorem managementEffects : Obligations.ManagementEffects := by
  refine fun s a0 d => ⟨fun hfit => ?stage, fun hover => if_pos hover, fun k hk hsvn => ?svnFw, fun k hk hsvn => ?svnMc, fun hnew => ?newKey,
    fun hzero => ?noKey, fun p => ?xts, ?unmeasure, ?challenge, fun hd => ?unlock, rfl, rfl, rfl, fun okf ty k v hv => ?commit,
    fun e ty k v hrec hv => ?recover, fun e hno => ?notInMode⟩
  case stage =>
    rw [State.doStage, if_neg (by omega)]
    refine ⟨rfl, fun a => ?_⟩
    rw [Nat.sub_sub]
    exact Mgmt.psrByte_put (m := s.mgmt) (m' := { s.mgmt with psr := putCells s.mgmt.psr (STAGING_AT + a0.toNat) d }) rfl rfl a
  case svnFw =>
    have hburn : (s.doSvn 1 d).1.mgmt.fuses.svnFw = thermometer (max k (min s.mgmt.svnFw 64)) := by
      rw [← burnTo_thermometer hk, thermometer, ← hsvn]
      rfl
    refine ⟨hburn, ?_⟩
    rw [Fuses.minSvn, if_pos rfl, hburn, burned_thermometer (by omega)]
  case svnMc =>
    have hburn : (s.doSvn 2 d).1.mgmt.fuses.svnMc = thermometer (max k (min s.mgmt.svnMc 64)) := by
      rw [← burnTo_thermometer hk, thermometer, ← hsvn]
      rfl
    refine ⟨hburn, ?_⟩
    rw [Fuses.minSvn, if_neg (by decide), hburn, burned_thermometer (by omega)]
  case newKey =>
    obtain ⟨hmgmt, hfree⟩ := s.doCelKey_keys a0 d
    rw [hmgmt, hfree, State.rekeyed, if_neg (by simp [hnew])]
    refine ⟨Vector.getElem_set_self .., Nat.lt_add_of_pos_right (by decide), fun f hf => ?_⟩
    exact Vector.getElem_set_ne (slotArg a0).isLt f.isLt fun h => hf (Fin.ext h.symm)
  case noKey =>
    rw [(s.doCelKey_keys a0 d).1, State.rekeyed, if_pos hzero]
    exact Vector.getElem_set_self ..
  case xts =>
    rw [State.doCelKey_eq]
    exact State.bit_setXts ..
  case unmeasure => exact Vector.getElem_set_self ..
  case challenge => exact ⟨(s.randomBytes 32).1, rfl, by simp [State.randomBytes], rfl⟩
  case unlock =>
    refine ⟨s.nonce_doUnlock a0 hd, fun k hk => ?_, fun hnone => ?_⟩
    · rw [s.doUnlock_rejected a0 hd hk, State.mgmt_record]
      exact ⟨rfl, rfl, (State.record_page ..).1⟩
    · rw [s.doUnlock_accepted a0 hd hnone]
      rfl
  case commit =>
    have hreject : s.doCommit okf a0 d = (s.reject ty k v, fail ST_REJECTED) := by
      rw [State.doCommit]
      simp only [hv]
    rw [hreject]
    exact ⟨rfl, s.reject_result ty k v⟩
  case recover =>
    have hreject : s.doRecover e a0 d = (s.reject ty k v, fail ST_REJECTED) := by
      rw [State.doRecover, if_neg (by simp [hrec])]
      simp only [hv]
    rw [hreject]
    exact ⟨rfl, s.reject_result ty k v⟩
  case notInMode => rw [State.doRecover, if_pos (by simp [hno])]

end Sys2Proof.Machine
end

section
/-! Package resets (R432, R473, R479). -/

namespace Sys2Proof.Machine
open Sys2Proof

/-! ## Memory -/

/-- The memory after a package reset: the cellar alone keeps its data and its poison. -/
def Mem.resetAround (m : Mem) : Mem :=
  { Mem.reset with cellar := m.cellar, poison := m.poison.filter fun w => inCellar (8 * w), key := m.key }

section
variable (m : Mem)

theorem Mem.byte_resetAround (a : Nat) : m.resetAround.byte a = if inCellar a then m.byte a else 0 := by
  rw [Mem.byte, Mem.byte]
  split <;> rfl

theorem Mem.poisonAt_resetAround (w : Nat) : m.resetAround.poisonAt w = (inCellar (8 * w) && m.poisonAt w) := by
  change (m.poison.filter fun w => inCellar (8 * w)).contains w = (inCellar (8 * w) && m.poison.contains w)
  rw [Bool.eq_iff_iff, Bool.and_eq_true, List.contains_iff_mem, List.contains_iff_mem, List.mem_filter]
  exact and_comm

end

/-! ## Registers -/

section
variable (s : State) {q : Page} {o : Nat} (ho : o < 0x1000)
include ho

theorem State.pg_packageReset : s.packageReset.pg q o =
    if q = .pwr ∧ o = PWR_TRIP_LOG then s.pg .pwr PWR_TRIP_LOG else State.reset.pg q o :=
  State.pg_setPg _ _ _ _ _ _ (by decide) ho

/-- The trip log is lost as well. -/
theorem State.pg_undervoltage : s.undervoltage.pg q o = State.reset.pg q o := by
  have htrip : State.reset.pg .pwr PWR_TRIP_LOG = 0 := pg_reset_of_table (by decide) (by decide) rfl rfl
  refine (State.pg_setPg s.packageReset .pwr q PWR_TRIP_LOG o 0 (by decide) ho).trans ?_
  rw [State.pg_packageReset s ho]
  split
  next h => rw [h.1, h.2, htrip]
  next => rfl

end

/-- Settles O8: registers one by one, memory by what lies in the cellar, the rest by the structures of `packageReset`. -/
theorem packageResets : Obligations.PackageResets := by
  have hkeys (f : FnId) : Mgmt.reset.keys[f] = none := Vector.getElem_replicate ..
  refine fun s => ⟨⟨s.packageReset, rfl, fun q o ho hne => ?_, ?_, rfl, rfl, rfl, rfl, rfl, rfl, rfl, s.mem.byte_resetAround,
      fun w => ⟨rfl, s.mem.poisonAt_resetAround w⟩, rfl, rfl, fun a => rfl, hkeys, rfl, rfl, rfl, rfl⟩,
    ⟨s.undervoltage, rfl, fun q o ho => s.pg_undervoltage ho, rfl, rfl, rfl, rfl, rfl, s.mem.byte_resetAround, rfl, rfl, fun a => rfl, hkeys,
      rfl, rfl, rfl⟩⟩
  · rw [s.pg_packageReset ho, if_neg (by tauto)]
  · rw [s.pg_packageReset (by decide), if_pos ⟨rfl, rfl⟩]

end Sys2Proof.Machine
end

section
/-! The start-up and the initialisation of a storeroom (R272, R435, R441, R442, R465). -/

namespace Sys2Proof.Machine
open Sys2Proof

/-! ## A storeroom written with zeros (R272) -/

theorem forRange_keeps_below {α : Type} (P : α → Prop) (n : Nat) (f : Nat → α → α) (hf : ∀ i a, i < n → P a → P (f i a)) (a : α) (h : P a) :
    P (forRange n f a) := by
  induction n with
  | zero => exact h
  | succ n ih =>
    rw [forRange_succ]
    exact hf n _ n.lt_succ_self (ih fun i a hi => hf i a (by omega))

section
variable (s : State) (c : CoreId)

/-- An address in the storeroom of core c. -/
def inSto (a : Nat) : Bool := decide (stoBase c ≤ a ∧ a < stoBase c + 0x800_0000)

/-- The memory without the entries of a storeroom. -/
def Mem.stoCleared (m : Mem) : Mem :=
  { m with data := m.data.filter fun e => !inSto c e.1, fe := m.fe.filter fun w => !inSto c (8 * w),
           poison := m.poison.filter fun w => !inSto c (8 * w), flips := m.flips.filter fun e => !inSto c (8 * e.1) }

theorem State.stoInit_eq : s.stoInit c = { s with mem := s.mem.stoCleared c, regs := (s.setPg (.sto c) STO_INIT 1).regs } := rfl

theorem Mem.byte_stoCleared (m : Mem) (a : Nat) : (m.stoCleared c).byte a = if inSto c a then 0 else m.byte a := by
  have hdata : smGet zeroByte (m.stoCleared c).data a = if (!inSto c a) = true then smGet zeroByte m.data a else 0 :=
    smGet_filter zeroByte (fun k => !inSto c k) m.data a
  cases hin : inSto c a with
  | true =>
    have hsplit : a = stoBase c + (a - stoBase c) := by
      have := of_decide_eq_true hin
      omega
    have hout : inCellar a = false := by rw [hsplit]; exact inCellar_sto c _
    rw [hin] at hdata
    rw [Mem.byte, hout]
    exact hdata
  | false =>
    rw [hin] at hdata
    rw [Mem.byte, Mem.byte, hdata]
    rfl

theorem contains_filter_not {p : Nat → Bool} (l : List Nat) (w : Nat) : (l.filter fun w => !p w).contains w = (!p w && l.contains w) := by
  rw [Bool.eq_iff_iff, Bool.and_eq_true, List.contains_iff_mem, List.contains_iff_mem, List.mem_filter]
  exact and_comm

theorem Mem.feAt_stoCleared (m : Mem) (w : Nat) : (m.stoCleared c).feAt w = (!inSto c (8 * w) && m.feAt w) := contains_filter_not ..

theorem Mem.poisonAt_stoCleared (m : Mem) (w : Nat) : (m.stoCleared c).poisonAt w = (!inSto c (8 * w) && m.poisonAt w) := contains_filter_not ..

theorem leNat_zeros (n : Nat) : leNat (List.replicate n 0) = 0 := by
  induction n with
  | zero => rfl
  | succ n ih => rw [List.replicate_succ, leNat, ih]; rfl

/-- Every word of the storeroom reads as a word of zeros. -/
theorem Mem.word_stoCleared (m : Mem) {w : Nat} (hw : w < 0x100_0000) :
    (m.stoCleared c).word (stoWord c w) = { data := 0, fe := false, poison := false } := by
  have hin (i : Nat) (hi : i < 8) : inSto c (8 * stoWord c w + i) = true := by
    refine decide_eq_true ?_
    simp only [stoWord, stoBase, STO_BASE]
    omega
  have hword : inSto c (8 * stoWord c w) = true := hin 0 (by decide)
  have hbytes : ((List.range 8).map fun i => (m.stoCleared c).byte (8 * stoWord c w + i)) = List.replicate 8 0 :=
    List.map_eq_replicate_iff.2 fun i hi => by rw [Mem.byte_stoCleared, hin i (List.mem_range.1 hi), if_pos rfl]
  rw [Mem.word, hbytes, leNat_zeros, Mem.feAt_stoCleared, Mem.poisonAt_stoCleared, hword]
  rfl

theorem inSto_outside {a : Nat} (h : a < stoBase c ∨ stoBase c + 0x800_0000 ≤ a) : inSto c a = false :=
  decide_eq_false (by omega)

end

/-- The header of the log leaves the rest of the management state. -/
theorem Mgmt.putHeader_keeps (m : Mgmt) : m.putHeader.fuses = m.fuses ∧ m.putHeader.flash = m.flash ∧ m.putHeader.flashBad = m.flashBad ∧
    m.putHeader.dynAddr = m.dynAddr ∧ m.putHeader.up = m.up := by
  refine ⟨?_, ?_, ?_, ?_, ?_⟩ <;> rw [Mgmt.putHeader_eq]

/-- The management state with the firmware's svn and the boot counted. -/
def Mgmt.counted (m : Mgmt) (read : Nat → Byte) : Mgmt := { m with svnFw := num read 8 4, boot := m.boot + 1, up := true }

/-- The firmware is up, and its boot stands in the log's header. -/
def State.firmwareCounted (s : State) (read : Nat → Byte) : State := s.modMgmt fun m => (m.counted read).putHeader

/-- The firmware's part of the security page. -/
def State.firmwareShown (s : State) (read : Nat → Byte) : State :=
  (((s.setField .sec SEC_STAT 1 1 1).setPg .sec SEC_BOOTCNT (w32 s.mgmt.boot)).setMeas SEC_FW_MEAS (measureImage read)).setSvns

theorem State.runFirmware_eq (s : State) (read : Nat → Byte) : s.runFirmware read = (s.firmwareCounted read).firmwareShown read := rfl

/-! ## What the steps of a start-up leave -/

/-- t is s but for pages other than q, memory, power and what the steps of a start-up set in the management state. -/
structure BootKept (q : Page) (s t : State) : Prop where
  pg : ∀ o, o < 0x1000 → t.pg q o = s.pg q o
  pins : t.pins.perst = s.pins.perst ∧ t.pins.strap = s.pins.strap
  host : t.host.linkUp = s.host.linkUp ∧ t.host.rate = s.host.rate ∧ t.host.lanes = s.host.lanes
  cores : t.cores = s.cores
  loft : t.loft = s.loft
  mgmt : t.mgmt.fuses = s.mgmt.fuses ∧ t.mgmt.flash = s.mgmt.flash ∧ t.mgmt.flashBad = s.mgmt.flashBad ∧ t.mgmt.dynAddr = s.mgmt.dynAddr
  free : t.free = s.free
  up : s.mgmt.up = true → t.mgmt.up = true

namespace BootKept
variable {q : Page} {s t : State}

theorem refl (s : State) : BootKept q s s :=
  ⟨fun _ _ => rfl, ⟨rfl, rfl⟩, ⟨rfl, rfl, rfl⟩, rfl, rfl, ⟨rfl, rfl, rfl, rfl⟩, rfl, id⟩

theorem trans {u : State} (h : BootKept q s t) (k : BootKept q t u) : BootKept q s u where
  pg o ho := (k.pg o ho).trans (h.pg o ho)
  pins := ⟨k.pins.1.trans h.pins.1, k.pins.2.trans h.pins.2⟩
  host := ⟨k.host.1.trans h.host.1, k.host.2.1.trans h.host.2.1, k.host.2.2.trans h.host.2.2⟩
  cores := k.cores.trans h.cores
  loft := k.loft.trans h.loft
  mgmt := by
    obtain ⟨h1, h2, h3, h4⟩ := h.mgmt
    obtain ⟨k1, k2, k3, k4⟩ := k.mgmt
    exact ⟨k1.trans h1, k2.trans h2, k3.trans h3, k4.trans h4⟩
  free := k.free.trans h.free
  up := k.up ∘ h.up

theorem foldl {β : Type} {f : State → β → State} (hf : ∀ t b, BootKept q s t → BootKept q s (f t b)) (l : List β) (h : BootKept q s t) :
    BootKept q s (l.foldl f t) := foldl_keeps (BootKept q s) f hf l t h

section
variable {p : Page} {o : Nat}

theorem setPg (h : BootKept q s t) (v : W32) (hp : q ≠ p) (ho : o < 0x1000 := by decide) : BootKept q s (t.setPg p o v) :=
  h.trans ⟨fun _ ho' => State.pg_setPg_page _ _ _ _ _ _ ho ho' hp, ⟨rfl, rfl⟩, ⟨rfl, rfl, rfl⟩, rfl, rfl, ⟨rfl, rfl, rfl, rfl⟩, rfl, id⟩

theorem setField (h : BootKept q s t) (lo len v : Nat) (hp : q ≠ p) (ho : o < 0x1000 := by decide) :
    BootKept q s (t.setField p o lo len v) := h.setPg _ hp ho

theorem event (h : BootKept q s t) (b : Nat) (hp : q ≠ p) (hpkg : q ≠ .pkg) : BootKept q s (t.event p b) := by
  have hframe := (Delivered.event t p b).frame
  have hhost := (Signalled.event t p b).frame
  refine h.trans ⟨fun o ho => State.pg_event_other ho (by tauto) (.inl hp), ?_, ?_, ?_, ?_, ?_, ?_, ?_⟩
  · rw [hframe]; exact ⟨rfl, rfl⟩
  · rw [hhost]; exact ⟨rfl, rfl, rfl⟩
  · rw [hframe]; rfl
  · rw [hframe]; rfl
  · rw [hframe]; exact ⟨rfl, rfl, rfl, rfl⟩
  · rw [hframe]; rfl
  · rw [hframe]; exact id

end

/-- A change of the management state that leaves fuses and flash. -/
theorem modMgmt (h : BootKept q s t) (f : Mgmt → Mgmt)
    (hf : (f t.mgmt).fuses = t.mgmt.fuses ∧ (f t.mgmt).flash = t.mgmt.flash ∧ (f t.mgmt).flashBad = t.mgmt.flashBad ∧
      (f t.mgmt).dynAddr = t.mgmt.dynAddr)
    (hup : t.mgmt.up = true → (f t.mgmt).up = true) : BootKept q s (t.modMgmt f) :=
  h.trans ⟨fun _ _ => rfl, ⟨rfl, rfl⟩, ⟨rfl, rfl, rfl⟩, rfl, rfl, hf, rfl, hup⟩

theorem modMem (h : BootKept q s t) (f : Mem → Mem) : BootKept q s (t.modMem f) :=
  h.trans ⟨fun _ _ => rfl, ⟨rfl, rfl⟩, ⟨rfl, rfl, rfl⟩, rfl, rfl, ⟨rfl, rfl, rfl, rfl⟩, rfl, id⟩

theorem modPower (h : BootKept q s t) (f : Power → Power) : BootKept q s (t.modPower f) :=
  h.trans ⟨fun _ _ => rfl, ⟨rfl, rfl⟩, ⟨rfl, rfl, rfl⟩, rfl, rfl, ⟨rfl, rfl, rfl, rfl⟩, rfl, id⟩

theorem setRail (h : BootKept q s t) : BootKept q s t.setRail := h.modPower fun p => { p with rail0 := t.railFor }

theorem setAlert (h : BootKept q s t) : BootKept q s t.setAlert :=
  h.trans ⟨fun _ _ => rfl, ⟨rfl, rfl⟩, ⟨rfl, rfl, rfl⟩, rfl, rfl, ⟨rfl, rfl, rfl, rfl⟩, rfl, id⟩

theorem record {p : Page} (h : BootKept q s t) (r : Rec) (hp : q ≠ p) (hpkg : q ≠ .pkg) : BootKept q s (t.record p r) := by
  refine event (?_ : BootKept q s (t.putCode p r)) _ hp hpkg
  have hcode := ((((h.setPg (o := PG_ERR_CODE) (w32 r.code.toNat) hp).setPg (o := PG_ERR_INFO0) r.i0 hp).setPg
    (o := PG_ERR_INFO0 + 4) r.i1 hp).setPg (o := PG_ERR_INFO0 + 8) r.i2 hp).setPg (o := PG_ERR_INFO0 + 12) r.i3 hp
  rw [State.putCode, State.forward_frame]
  exact hcode.modMgmt (fun m => { m with logq := _, lost := _ }) ⟨rfl, rfl, rfl, rfl⟩ id

/-! ## The steps -/

theorem setSvns (h : BootKept q s t) (hq : q ≠ .sec) : BootKept q s t.setSvns := (h.setPg _ hq).setPg _ hq

theorem setMeas (h : BootKept q s t) {reg : Nat → Nat} (hreg : ∀ i, i < 16 → reg i < 0x1000) (bs : List Byte) (hq : q ≠ .sec) :
    BootKept q s (t.setMeas reg bs) :=
  forRange_keeps_below (BootKept q s) 16 _ (fun i _ hi hu => hu.setPg _ hq (hreg i hi)) t h

theorem recover (h : BootKept q s t) (hsec : q ≠ .sec) (hpkg : q ≠ .pkg) : BootKept q s t.recover :=
  have hpages : BootKept q s ((t.setPg .pkg PKG_STAT 3).setField .sec SEC_STAT 0 1 1) := (h.setPg 3 hpkg).setField 0 1 1 hsec
  (hpages.modMgmt (fun m => { m with up := true }) ⟨rfl, rfl, rfl, rfl⟩ fun _ => rfl).setAlert

theorem reject (h : BootKept q s t) (ty k : Nat) (v : W32) (hsec : q ≠ .sec) (hpkg : q ≠ .pkg) : BootKept q s (t.reject ty k v) :=
  h.record _ hsec hpkg

theorem counted (h : BootKept q s t) (read : Nat → Byte) : BootKept q s (t.firmwareCounted read) := by
  obtain ⟨hfuses, hflash, hbad, haddr, hup⟩ := Mgmt.putHeader_keeps (t.mgmt.counted read)
  exact h.modMgmt (fun m => (m.counted read).putHeader) ⟨hfuses, hflash, hbad, haddr⟩ fun _ => hup

theorem runFirmware (h : BootKept q s t) (read : Nat → Byte) (hsec : q ≠ .sec) : BootKept q s (t.runFirmware read) := by
  rw [State.runFirmware_eq]
  exact ((((h.counted read).setField 1 1 1 hsec).setPg _ hsec).setMeas (fun i hi => by simp only [SEC_FW_MEAS]; omega) _ hsec).setSvns hsec

theorem stoInit (h : BootKept q s t) (c : CoreId) (hq : q ≠ .sto c) : BootKept q s (t.stoInit c) := (h.modMem _).setPg _ hq

theorem atticInit (h : BootKept q s t) (hq : ∀ a, q ≠ .att a) : BootKept q s t.atticInit :=
  foldl (fun _ a hu => hu.setField 0 1 _ (hq a)) _ (h.modMem _)

theorem celInit (h : BootKept q s t) (e : StartEnv) (p : CelId) (hq : q ≠ .cel p) (hpkg : q ≠ .pkg) : BootKept q s (t.celInit e p) := by
  unfold State.celInit
  split
  · exact h
  · exact (((h.setPg _ hq).setPg _ hq).event _ hq hpkg).trans
      ⟨fun _ _ => rfl, ⟨rfl, rfl⟩, ⟨rfl, rfl, rfl⟩, rfl, rfl, ⟨rfl, rfl, rfl, rfl⟩, rfl, id⟩

theorem reportTrip (h : BootKept q s t) (hq : q ≠ .pwr) (hpkg : q ≠ .pkg) : BootKept q s t.reportTrip := by
  unfold State.reportTrip
  dsimp only
  split
  · exact h.record _ hq hpkg
  · exact h

end BootKept

/-! ## The firmware completes the start-up (R435) -/

section
variable (s : State) (e : StartEnv) (mc : Nat → Byte)

/-- The state when every storeroom has been initialised. -/
def State.storeroomsReady : State :=
  let t := ((((s.modMgmt fun m => { m with svnMc := num mc 8 4 }).setField .sec SEC_STAT 2 1 1).setSvns).setMeas SEC_MC_MEAS (measureImage mc))
  t.enabledCores.foldl (fun s c => s.stoInit c) t

/-- The state when the attic and the cellar ports are ready. -/
def State.memoriesReady : State := (List.finRange 4).foldl (fun s p => s.celInit e p) (s.storeroomsReady mc).atticInit

theorem State.finishStart_eq : s.finishStart e mc =
    (((s.memoriesReady e mc).reportTrip.setRail.setPg .pkg PKG_STAT 1).setField .sec SEC_STAT 0 1 0).setAlert := rfl

variable {q : Page}

theorem BootKept.microcode (hsec : q ≠ .sec) :
    BootKept q s ((((s.modMgmt fun m => { m with svnMc := num mc 8 4 }).setField .sec SEC_STAT 2 1 1).setSvns).setMeas SEC_MC_MEAS
      (measureImage mc)) :=
  ((((BootKept.refl s).modMgmt (fun m => { m with svnMc := num mc 8 4 }) ⟨rfl, rfl, rfl, rfl⟩ id).setField 2 1 1 hsec).setSvns hsec).setMeas
    (fun i hi => by simp only [SEC_MC_MEAS]; omega) _ hsec

theorem BootKept.storeroomsReady (hsec : q ≠ .sec) (hsto : ∀ c, q ≠ .sto c) : BootKept q s (s.storeroomsReady mc) :=
  foldl (fun _ c hu => hu.stoInit c (hsto c)) _ (.microcode s mc hsec)

theorem BootKept.afterStorerooms (hatt : ∀ a, q ≠ .att a) (hcel : ∀ p, q ≠ .cel p) (hpkg : q ≠ .pkg) :
    BootKept q (s.storeroomsReady mc) (s.memoriesReady e mc) :=
  foldl (fun _ p hu => hu.celInit e p (hcel p) hpkg) _ ((BootKept.refl _).atticInit hatt)

theorem BootKept.ready (hsec : q ≠ .sec) (hpkg : q ≠ .pkg) (t : State) :
    BootKept q t (((t.setRail.setPg .pkg PKG_STAT 1).setField .sec SEC_STAT 0 1 0).setAlert) :=
  (((BootKept.refl t).setRail.setPg _ hpkg).setField 0 1 0 hsec).setAlert

/-- Every step of the firmware's part. -/
theorem BootKept.finishStart : BootKept .mbx s (s.finishStart e mc) :=
  (((BootKept.storeroomsReady s mc (by nofun) (by nofun)).trans (.afterStorerooms s e mc (by nofun) (by nofun) (by nofun))).reportTrip
    (by nofun) (by nofun)).trans (.ready (by nofun) (by nofun) _)

theorem State.pg_setAlert (t : State) (o : Nat) : t.setAlert.pg q o = t.pg q o := rfl

theorem State.stat_finishStart : (s.finishStart e mc).pg .pkg PKG_STAT = 1 := by
  rw [State.finishStart_eq, State.pg_setAlert, State.pg_setField_other _ _ _ _ _ _ _ _ (by decide) (by decide) (.inl (by nofun)),
    State.pg_setPg_same]

theorem State.sto_storeroomsReady (c : CoreId) (hc : s.enabled c = true) : (s.storeroomsReady mc).pg (.sto c) STO_INIT = 1 := by
  have hen : c ∈ ((((s.modMgmt fun m => { m with svnMc := num mc 8 4 }).setField .sec SEC_STAT 2 1 1).setSvns).setMeas SEC_MC_MEAS
      (measureImage mc)).enabledCores := by
    rw [mem_enabledCores, State.enabled, (BootKept.microcode (q := .mbx) s mc (by nofun)).mgmt.1]
    exact hc
  refine foldl_establishes (fun t : State => t.pg (.sto c) STO_INIT = 1) (fun s c => s.stoInit c) c (fun t => State.pg_setPg_same ..)
    (fun t d ht => ?_) _ hen _
  refine (State.pg_setPg _ _ _ _ _ _ (by decide) (by decide)).trans ?_
  split
  · rfl
  · exact ht

theorem State.sto_finishStart (c : CoreId) (hc : s.enabled c = true) : (s.finishStart e mc).pg (.sto c) STO_INIT = 1 := by
  have hafter := ((BootKept.afterStorerooms (q := .sto c) s e mc (by nofun) (by nofun) (by nofun)).reportTrip (by nofun) (by nofun)).trans
    (.ready (by nofun) (by nofun) _)
  rw [State.finishStart_eq, hafter.pg _ (by decide), s.sto_storeroomsReady mc c hc]

/-- An earlier trip is recorded (R441). -/
theorem State.trip_finishStart (h : bit (s.pg .pwr PWR_TRIP_LOG) 31 = true) :
    (s.finishStart e mc).pg .pwr PG_ERR_CODE = 0x0502 ∧ (s.finishStart e mc).pg .pwr PG_ERR_INFO0 = s.pg .pwr PWR_TRIP_LOG := by
  have hlog : (s.memoriesReady e mc).pg .pwr PWR_TRIP_LOG = s.pg .pwr PWR_TRIP_LOG :=
    ((BootKept.storeroomsReady s mc (by nofun) (by nofun)).trans (.afterStorerooms s e mc (by nofun) (by nofun) (by nofun))).pg _ (by decide)
  have hready := BootKept.ready (q := .pwr) (by nofun) (by nofun) (s.memoriesReady e mc).reportTrip
  rw [State.finishStart_eq, hready.pg _ (by decide), hready.pg _ (by decide), State.reportTrip, hlog]
  rw [if_pos h]
  obtain ⟨hcode, hinfo, -⟩ := (s.memoriesReady e mc).record_page .pwr { code := 0x0502, i0 := s.pg .pwr PWR_TRIP_LOG, i1 := 0, i2 := 0, i3 := 0 }
  exact ⟨hcode, hinfo⟩

end

/-! ## The start-up (R435, R442, R465) -/

section
variable (s : State) (e : StartEnv)

/-- What a start-up does first: the pins, the host's link, the log and the TAP. -/
def State.deasserted (s : State) (e : StartEnv) : State :=
  ({ s with pins := { s.pins with perst := false, strap := e.strap, vddMgt := true } }.modHost fun h =>
    { h with linkUp := true, rate := e.rate, lanes := e.lanes }).modMgmt fun m => ({ m with tap := m.tap.released } : Mgmt).openLog

/-- The controller is on the I3C bus, and the least svns are shown. -/
def State.onBus (s : State) (e : StartEnv) : State :=
  ((s.deasserted e).modMgmt fun m => { m with hdrRead := e.fwRead, dynAddr := e.i3cAddr }).setSvns

theorem State.startUp_eq : s.startUp e = if e.strap.getLsbD 3 then s.deasserted e
    else match (s.onBus e).verifyFlash 1 e.fwRead with
      | some (k, v) => ((s.onBus e).reject 1 k v).recover
      | none => ((s.onBus e).runFirmware ((s.onBus e).mgmt.inFlash 1)).startMicrocode e := rfl

theorem State.setSvns_frame : s.setSvns = { s with regs := s.setSvns.regs } := by
  have hpages (v w : W32) : (s.setPg .sec SEC_FW_SVN v).setPg .sec SEC_MC_SVN w =
      { s with regs := ((s.setPg .sec SEC_FW_SVN v).setPg .sec SEC_MC_SVN w).regs } := rfl
  exact hpages _ _

theorem Mgmt.openLog_keeps (m : Mgmt) : m.openLog.fuses = m.fuses ∧ m.openLog.flash = m.flash ∧ m.openLog.flashBad = m.flashBad := by
  rw [Mgmt.openLog]
  exact ⟨rfl, rfl, rfl⟩

/-- To be on the bus is a matter of registers and management state. -/
theorem State.onBus_frame : s.onBus e = { s.deasserted e with
    regs := (s.onBus e).regs, mgmt := { (s.deasserted e).mgmt with hdrRead := e.fwRead, dynAddr := e.i3cAddr } } := State.setSvns_frame _

theorem State.deasserted_mgmt : (s.deasserted e).mgmt = ({ s.mgmt with tap := s.mgmt.tap.released } : Mgmt).openLog := rfl

theorem State.onBus_mgmt : (s.onBus e).mgmt.fuses = s.mgmt.fuses ∧ (s.onBus e).mgmt.flash = s.mgmt.flash ∧
    (s.onBus e).mgmt.flashBad = s.mgmt.flashBad := by
  obtain ⟨hfuses, hflash, hbad⟩ := Mgmt.openLog_keeps { s.mgmt with tap := s.mgmt.tap.released }
  rw [State.onBus_frame, State.deasserted_mgmt]
  dsimp only
  exact ⟨hfuses, hflash, hbad⟩

theorem State.deasserted_shown : ((s.deasserted e).pins.perst = false ∧ (s.deasserted e).pins.strap = e.strap) ∧
    (s.deasserted e).host.linkUp = true ∧ (s.deasserted e).host.rate = e.rate ∧ (s.deasserted e).host.lanes = e.lanes :=
  ⟨⟨rfl, rfl⟩, rfl, rfl, rfl⟩

theorem State.deasserted_kept : (s.deasserted e).cores = s.cores ∧ (s.deasserted e).loft = s.loft ∧ (s.deasserted e).mem = s.mem ∧
    (s.deasserted e).free = s.free := ⟨rfl, rfl, rfl, rfl⟩

theorem State.onBus_shown : ((s.onBus e).pins.perst = false ∧ (s.onBus e).pins.strap = e.strap) ∧
    (s.onBus e).host.linkUp = true ∧ (s.onBus e).host.rate = e.rate ∧ (s.onBus e).host.lanes = e.lanes := by
  rw [State.onBus_frame]
  dsimp only
  exact s.deasserted_shown e

theorem State.onBus_kept : (s.onBus e).cores = s.cores ∧ (s.onBus e).loft = s.loft ∧ (s.onBus e).mem = s.mem ∧
    (s.onBus e).free = s.free := by
  rw [State.onBus_frame]
  dsimp only
  exact s.deasserted_kept e

/-- The verification of the flash, at a state that has its images and the fuses. -/
theorem BootKept.verifyFlash {q : Page} {s t : State} (h : BootKept q s t) (ty : Nat) (readOk : Bool) :
    t.verifyFlash ty readOk = s.verifyFlash ty readOk := by
  obtain ⟨hfuses, hflash, hbad, -⟩ := h.mgmt
  exact State.verifyFlash_congr hfuses hflash (by rw [hbad]) h.free readOk

theorem State.verifyFlash_onBus (ty : Nat) (readOk : Bool) : (s.onBus e).verifyFlash ty readOk = s.verifyFlash ty readOk := by
  obtain ⟨hfuses, hflash, hbad⟩ := s.onBus_mgmt e
  exact State.verifyFlash_congr hfuses hflash (by rw [hbad]) (s.onBus_kept e).2.2.2 readOk

/-- A rejected image ends in recovery mode (R442, R459). -/
theorem State.recover_reject (ty k : Nat) (v : W32) :
    ((s.reject ty k v).recover).pg .pkg PKG_STAT = 3 ∧ ((s.reject ty k v).recover).pins.alert = true ∧
    ((s.reject ty k v).recover).mgmt.up = true ∧ ((s.reject ty k v).recover).pg .sec PG_ERR_CODE = 0x0601 ∧
    ((s.reject ty k v).recover).pg .sec PG_ERR_INFO0 = w32 (ty + k <<< 4) ∧
    ((s.reject ty k v).recover).pg .sec (PG_ERR_INFO0 + 4) = v ∧ ((s.reject ty k v).recover).mem = s.mem := by
  obtain ⟨hcode, hinfo, hsvn⟩ := s.reject_page ty k v
  have hpage (o : Nat) (ho : o < 0x1000) (hne : o ≠ SEC_STAT) : ((s.reject ty k v).recover).pg .sec o = (s.reject ty k v).pg .sec o := by
    rw [State.pg_recover _ _ ho, if_neg (fun h => hne h.2), if_neg (fun h => nomatch h.1)]
  refine ⟨?_, ?_, ?_, ?_, ?_, ?_, ?_⟩
  · rw [State.pg_recover _ _ (by decide), if_neg (fun h => nomatch h.1), if_pos ⟨rfl, rfl⟩]
  · rw [State.recover_frame]
  · rw [State.recover_frame]
  · rw [hpage _ (by decide) (by decide), hcode]
  · rw [hpage _ (by decide) (by decide), hinfo]
  · rw [hpage _ (by decide) (by decide), hsvn]
  · rw [State.recover_frame, State.reject_frame]

theorem State.setMeas_frame (reg : Nat → Nat) (bs : List Byte) : s.setMeas reg bs = { s with regs := (s.setMeas reg bs).regs } :=
  forRange_keeps (fun t : State => t = { s with regs := t.regs }) 16 _ (fun _ t ht => by rw [ht]; rfl) s rfl

/-- The security page's registers are no memory and no management state. -/
theorem State.firmwareShown_frame (read : Nat → Byte) : (s.firmwareShown read).mem = s.mem ∧ (s.firmwareShown read).mgmt = s.mgmt := by
  rw [State.firmwareShown, State.setSvns_frame, State.setMeas_frame]
  exact ⟨rfl, rfl⟩

theorem State.mem_runFirmware (read : Nat → Byte) : (s.runFirmware read).mem = s.mem := by
  rw [State.runFirmware_eq, (State.firmwareShown_frame _ read).1, State.firmwareCounted, State.modMgmt]

/-- The firmware's part leaves the trip log and the enabled cores. -/
theorem BootKept.firmware {q : Page} (hsec : q ≠ .sec) :
    BootKept q (s.onBus e) ((s.onBus e).runFirmware ((s.onBus e).mgmt.inFlash 1)) := (BootKept.refl _).runFirmware _ hsec

theorem State.up_runFirmware (read : Nat → Byte) : (s.runFirmware read).mgmt.up = true := by
  rw [State.runFirmware_eq, (State.firmwareShown_frame _ read).2]
  exact (Mgmt.putHeader_keeps (s.mgmt.counted read)).2.2.2.2

theorem State.pg_onBus {q : Page} {o : Nat} (hsec : q ≠ .sec) (ho : o < 0x1000) : (s.onBus e).pg q o = s.pg q o :=
  ((BootKept.refl _).setSvns hsec).pg o ho

/-! ### How a start-up ends -/

variable {s e} {k : Nat} {v : W32}

theorem BootKept.startMicrocode (t : State) : BootKept .mbx t (t.startMicrocode e) := by
  unfold State.startMicrocode
  split
  · exact ((BootKept.refl t).reject 2 _ _ (by nofun) (by nofun)).recover (by nofun) (by nofun)
  · exact .finishStart t e _

theorem State.verifyFlash_firmware (readOk : Bool) :
    ((s.onBus e).runFirmware ((s.onBus e).mgmt.inFlash 1)).verifyFlash 2 readOk = s.verifyFlash 2 readOk :=
  ((BootKept.firmware (q := .mbx) s e (by nofun)).verifyFlash 2 readOk).trans (s.verifyFlash_onBus e 2 readOk)

section
variable (hstrap : e.strap.getLsbD 3 = false)
include hstrap

theorem BootKept.startUp : BootKept .mbx (s.onBus e) (s.startUp e) := by
  rw [State.startUp_eq, hstrap, if_neg Bool.false_ne_true]
  split
  · exact ((BootKept.refl _).reject 1 _ _ (by nofun) (by nofun)).recover (by nofun) (by nofun)
  · exact (BootKept.firmware s e (by nofun)).trans (.startMicrocode _)

theorem State.startUp_of_rejected (h : s.verifyFlash 1 e.fwRead = some (k, v)) : s.startUp e = ((s.onBus e).reject 1 k v).recover := by
  rw [State.startUp_eq, hstrap, if_neg Bool.false_ne_true, State.verifyFlash_onBus, h]

theorem State.startUp_of_firmware (h : s.verifyFlash 1 e.fwRead = none) :
    s.startUp e = ((s.onBus e).runFirmware ((s.onBus e).mgmt.inFlash 1)).startMicrocode e := by
  rw [State.startUp_eq, hstrap, if_neg Bool.false_ne_true, State.verifyFlash_onBus, h]

theorem State.startUp_of_microcodeRejected (hfw : s.verifyFlash 1 e.fwRead = none) (hmc : s.verifyFlash 2 e.mcRead = some (k, v)) :
    s.startUp e = (((s.onBus e).runFirmware ((s.onBus e).mgmt.inFlash 1)).reject 2 k v).recover := by
  rw [State.startUp_of_firmware hstrap hfw, State.startMicrocode, State.verifyFlash_firmware, hmc]

theorem State.startUp_of_accepted (hfw : s.verifyFlash 1 e.fwRead = none) (hmc : s.verifyFlash 2 e.mcRead = none) :
    ∃ mc, s.startUp e = ((s.onBus e).runFirmware ((s.onBus e).mgmt.inFlash 1)).finishStart e mc := by
  refine ⟨((s.onBus e).runFirmware ((s.onBus e).mgmt.inFlash 1)).mgmt.inFlash 2, ?_⟩
  rw [State.startUp_of_firmware hstrap hfw, State.startMicrocode, State.verifyFlash_firmware, hmc]

/-- Two accepted images (R435). -/
theorem State.startUp_accepted (hfw : s.verifyFlash 1 e.fwRead = none) (hmc : s.verifyFlash 2 e.mcRead = none) :
    (s.startUp e).pg .pkg PKG_STAT = 1 ∧ (s.startUp e).mgmt.up = true ∧
    (∀ c : CoreId, s.enabled c = true → (s.startUp e).pg (.sto c) STO_INIT = 1) ∧
    (bit (s.pg .pwr PWR_TRIP_LOG) 31 = true →
      (s.startUp e).pg .pwr PG_ERR_CODE = 0x0502 ∧ (s.startUp e).pg .pwr PG_ERR_INFO0 = s.pg .pwr PWR_TRIP_LOG) := by
  obtain ⟨mc, hend⟩ := State.startUp_of_accepted hstrap hfw hmc
  have hfuses : ((s.onBus e).runFirmware ((s.onBus e).mgmt.inFlash 1)).mgmt.fuses = s.mgmt.fuses :=
    (BootKept.firmware (q := .mbx) s e (by nofun)).mgmt.1.trans (s.onBus_mgmt e).1
  have hlog : ((s.onBus e).runFirmware ((s.onBus e).mgmt.inFlash 1)).pg .pwr PWR_TRIP_LOG = s.pg .pwr PWR_TRIP_LOG :=
    ((BootKept.firmware (q := .pwr) s e (by nofun)).pg _ (by decide)).trans (s.pg_onBus e (by nofun) (by decide))
  rw [hend]
  refine ⟨State.stat_finishStart _ e mc, (BootKept.finishStart _ e mc).up (State.up_runFirmware _ _), fun c hc => ?_, fun h => ?_⟩
  · refine State.sto_finishStart _ e mc c ?_
    rw [State.enabled, hfuses]
    exact hc
  · rw [← hlog] at h ⊢
    exact State.trip_finishStart _ e mc h

end

end

/-- Settles O9: a start-up ends in one of four ways, and each step of it leaves what BootKept names. -/
theorem startsUp : Obligations.StartsUp := by
  unfold Obligations.StartsUp
  refine ⟨fun e s hperst hwf => ?_, fun c s halive hen hinit => ?_⟩
  · have hexec : exec (.startUp e) s = .next (s.startUp e) := congrArg Host.Outcome.next (if_pos (by rw [hperst, hwf]; rfl))
    refine ⟨s.startUp e, hexec, ?_⟩
    cases hstrap : e.strap.getLsbD 3 with
    | true =>
      have hend : s.startUp e = s.deasserted e := by rw [State.startUp_eq, if_pos hstrap]
      obtain ⟨⟨hdone, hpins⟩, hup, hrate, hlanes⟩ := s.deasserted_shown e
      obtain ⟨hcores, hloft, hmem, -⟩ := s.deasserted_kept e
      rw [hend]
      exact ⟨hdone, hpins, hup, hrate, hlanes, hcores, hloft, fun _ => ⟨rfl, hmem, rfl, s.deasserted_mgmt e⟩, nofun⟩
    | false =>
      have hkept := BootKept.startUp (s := s) hstrap
      obtain ⟨⟨hdone, hpins⟩, hup, hrate, hlanes⟩ := s.onBus_shown e
      obtain ⟨hcores, hloft, hmem, -⟩ := s.onBus_kept e
      have hbus : (s.startUp e).mgmt.dynAddr = e.i3cAddr := hkept.mgmt.2.2.2.trans (by rw [State.onBus_frame])
      refine ⟨hkept.pins.1.trans hdone, hkept.pins.2.trans hpins, hkept.host.1.trans hup, hkept.host.2.1.trans hrate,
        hkept.host.2.2.trans hlanes, hkept.cores.trans hcores, hkept.loft.trans hloft, nofun, fun _ => ⟨hbus, fun k v hfw => ?_,
        fun k v hfw hmc => ?_, State.startUp_accepted hstrap⟩⟩
      · rw [State.startUp_of_rejected hstrap hfw]
        have hrec := State.recover_reject (s.onBus e) 1 k v
        rwa [hmem] at hrec
      · rw [State.startUp_of_microcodeRejected hstrap hfw hmc]
        have hrec := State.recover_reject ((s.onBus e).runFirmware ((s.onBus e).mgmt.inFlash 1)) 2 k v
        rwa [State.mem_runFirmware, hmem] at hrec
  · have hexec : exec (.storeroomInitDone c) s = .next (s.stoInit c) :=
      congrArg Host.Outcome.next (if_pos (by rw [halive, hen, hinit]; rfl))
    refine ⟨s.stoInit c, hexec, ?_⟩
    rw [State.stoInit_eq]
    refine ⟨fun w hw => Mem.word_stoCleared c s.mem hw, fun a ha => ?_, fun w hw => ⟨?_, ?_⟩, rfl⟩
    · exact (Mem.byte_stoCleared c s.mem a).trans (by rw [inSto_outside c ha]; rfl)
    · exact (Mem.feAt_stoCleared c s.mem w).trans (by rw [inSto_outside c hw]; rfl)
    · exact (Mem.poisonAt_stoCleared c s.mem w).trans (by rw [inSto_outside c hw]; rfl)

end Sys2Proof.Machine
end

section
/-! The memory arrays (R267, R273, R277, R280 to R282, R327, R328, R341, R343): what each row leaves. -/

namespace Sys2Proof.Machine
open Sys2Proof

/-- An event that is counted and recorded is a matter of registers, of the log and of interrupts. -/
theorem State.counted_record_frame (s : State) (p : Page) (i n : Nat) (r : Rec) : (s.bump p i n).record p r =
    { s with regs := ((s.bump p i n).record p r).regs, mgmt := ((s.bump p i n).record p r).mgmt,
             host := ((s.bump p i n).record p r).host } :=
  (State.record_frame (s.bump p i n) p r).trans (congrArg (fun u : State =>
    { u with regs := ((s.bump p i n).record p r).regs, mgmt := ((s.bump p i n).record p r).mgmt,
             host := ((s.bump p i n).record p r).host }) (s.bump_frame p i n))

/-! ## Errors that a read of the storeroom finds (R267, R280, R281) -/

theorem decodeWord_corrected (f : BitVec 74) : (decodeWord f == .corrected) = decide (flipCount f = 1) := by
  rw [decodeWord]
  split
  · simp [*]
  · split <;> simp [*]

theorem decodeWord_uncorrectable (f : BitVec 74) : (decodeWord f == .uncorrectable) = decide (2 ≤ flipCount f) := by
  rw [decodeWord]
  split
  · simp [*]
  · split
    · simp [*]
    · exact (decide_eq_true (by omega)).symm

/-- A change of bytes flips no bit of a word. -/
@[simp] theorem Mem.flips_setBytes (l : List Byte) (m : Mem) (a : Nat) : (m.setBytes a l).flips = m.flips := by
  induction l generalizing m a with
  | nil => rfl
  | cons b r ih =>
    have hset : (m.setByte a b).flips = m.flips := by
      rw [Mem.setByte]
      split <;> rfl
    rw [Mem.setBytes, ih, hset]

theorem Mem.flips_setWord (m : Mem) (w : Nat) (x : StoWord) : (m.setWord w x).flips = smErase m.flips w :=
  congrArg (smErase · w) (Mem.flips_setBytes _ m _)

theorem Mem.flipsAt_setWord_same (m : Mem) (w : Nat) (x : StoWord) : (m.setWord w x).flipsAt w = 0 := by
  rw [Mem.flipsAt, Mem.flips_setWord, smGet_erase_same]
  rfl

theorem Mem.flipsAt_setWord_other (m : Mem) {w v : Nat} (x : StoWord) (h : v ≠ w) : (m.setWord w x).flipsAt v = m.flipsAt v := by
  rw [Mem.flipsAt, Mem.flips_setWord, smGet_erase_other _ _ _ _ h]
  rfl

section
variable {s : State} {c : CoreId} (hup : s.coreUp c = true)
include hup

theorem exec_storeroomEccCorrected (w : BitVec 24) (p : BitVec 3) (fl : BitVec 74) (hport : eccPort p.toNat = true) :
    exec (.storeroomEccCorrected c w p fl) s = .next (if flipCount (s.flipsFound c w.toNat fl) = 1 then
      s.eccCorrected c w.toNat p.toNat (s.flipsFound c w.toNat fl) else s) := by
  change Host.Outcome.next (if (s.coreUp c && eccPort p.toNat && decodeWord (s.flipsFound c w.toNat fl) == .corrected) = true then _ else s) = _
  rw [hup, hport, decodeWord_corrected, Bool.true_and, Bool.true_and]
  simp only [decide_eq_true_eq]

theorem exec_stoEccUncorr (w : BitVec 24) (p : BitVec 3) (l : BitVec 4) (rmw : Bool) (fl : BitVec 74) (hport : eccPort p.toNat = true) :
    exec (.stoEccUncorr c w p l rmw fl) s = .next (if 2 ≤ flipCount (s.flipsFound c w.toNat fl) then
      s.eccUncorrected c w.toNat p.toNat l.toNat rmw (s.flipsFound c w.toNat fl) else s) := by
  change Host.Outcome.next (if (s.coreUp c && eccPort p.toNat && decodeWord (s.flipsFound c w.toNat fl) == .uncorrectable) = true then _ else s) = _
  rw [hup, hport, decodeWord_uncorrectable, Bool.true_and, Bool.true_and]
  simp only [decide_eq_true_eq]

theorem exec_correctionWriteback (h : ShelfId) : exec (.correctionWriteback c h) s = .next (s.writeBack c h) :=
  congrArg Host.Outcome.next (if_pos hup)

theorem exec_storeroomScrub (h : ShelfId) : exec (.storeroomScrub c h) s = .next (s.scrub c h) := congrArg Host.Outcome.next (if_pos hup)

theorem exec_shelfGrant (h : ShelfId) (l : List ShelfAcc) : exec (.shelfGrant c h l) s = .next (s.shelfStep c h l) :=
  congrArg Host.Outcome.next (if_pos hup)

end

/-- A shelf has nothing to do. -/
theorem Shelf.idle_iff (f : Shelf) : f.idle = true ↔ f.waiting = [] ∧ f.lock = none ∧ f.scrubWait = none := by
  rw [Shelf.idle, Bool.and_eq_true, Bool.and_eq_true, List.isEmpty_iff, Option.isNone_iff_eq_none, Option.isNone_iff_eq_none, and_assoc]

section
variable (s : State) (c : CoreId) (h : ShelfId)

theorem State.writeBack_idle {e : Nat × BitVec 74} (hidle : ((s.core c).shelves[h]).idle = true)
    (he : (s.mem.flips.find? fun e => inShelf c h e.1) = some e) : s.writeBack c h = s.modMem fun m => m.fixWord e.1 := by
  rw [State.writeBack, if_pos hidle, he]

theorem State.scrub_eq (hon : bits (s.pg (.sto c) STO_SCRUB) 0 16 ≠ 0) : s.scrub c h =
    s.modCore c fun k => { k with shelves := vmod k.shelves h fun f =>
      { f with line := (f.line + 1) % 65536, scrubWait := some (f.scrubWait.getD 0) } } := by
  have hget (o : Option Nat) : (o.orElse fun _ => some 0) = some (o.getD 0) := by cases o <;> rfl
  rw [State.scrub, if_neg hon]
  simp only [hget]

end

/-! ### An uncorrectable word, recorded and delivered -/

section
variable (s : State) (c : CoreId) (w port lane : Nat) (rmw : Bool) (f : BitVec 74)

/-- The word rewritten with poison, its data and FE as read (R281). -/
def State.asRead (s : State) (c : CoreId) (w : Nat) (f : BitVec 74) : StoWord :=
  { data := (s.stoWordAt c w).data ^^^ f.setWidth 64, fe := (s.stoWordAt c w).fe != f.getLsbD 64, poison := true }

/-- The state when the error has been recorded. -/
def State.eccRecorded (s : State) (c : CoreId) (w port lane : Nat) (rmw : Bool) (f : BitVec 74) : State :=
  ((s.setStoWord c w (s.asRead c w f)).bump (.sto c) 4 1).record (.sto c)
    (mkRec 0x0301 w (port + bn rmw <<< 3 + lane <<< 4 + shelfOf w <<< 8) 0 0)

theorem State.eccUncorrected_eq : s.eccUncorrected c w port lane rmw f = (s.eccRecorded c w port lane rmw f).deliverBad c w port lane rmw := rfl

theorem State.eccRecorded_frame : s.eccRecorded c w port lane rmw f =
    { s with mem := s.mem.setWord (stoWord c w) (s.asRead c w f), regs := (s.eccRecorded c w port lane rmw f).regs,
             mgmt := (s.eccRecorded c w port lane rmw f).mgmt, host := (s.eccRecorded c w port lane rmw f).host } :=
  State.counted_record_frame (s.setStoWord c w (s.asRead c w f)) (.sto c) 4 1 _

theorem State.eccRecorded_kept : (s.eccRecorded c w port lane rmw f).mem = s.mem.setWord (stoWord c w) (s.asRead c w f) ∧
    (s.eccRecorded c w port lane rmw f).cores = s.cores ∧ (s.eccRecorded c w port lane rmw f).loft = s.loft := by
  rw [State.eccRecorded_frame]
  exact ⟨rfl, rfl, rfl⟩

/-- What the port delivers to no unit (R269, R281). -/
theorem State.deliverBad_none (h : rmw = true ∨ port = 3 ∨ port = 7) : s.deliverBad c w port lane rmw = s := by
  rw [State.deliverBad, if_pos (h.imp_right (.imp_right (by omega)))]

theorem State.deliverBad_mesh (h : rmw = false) :
    s.deliverBad c w 4 lane rmw = s.modCore c fun k => { k with eccRead := stoWord c w :: k.eccRead } := by
  rw [State.deliverBad, if_neg (by simp [h]), if_pos rfl]

section
variable (hrmw : rmw = false) (hp : port ≤ 2)
include hrmw hp

/-- Ports 0 to 2 deliver the word to an engine or the finishing unit, which names the command whose read it is (R220, R421). -/
theorem State.deliverBad_reader {j : Job} (hj : (s.core c).readingJob port (laneUnit port lane) = some j) :
    s.deliverBad c w port lane rmw =
      s.coreFault c (laneUnit port lane) (poisonRec (opcode j.cmd) j.ctx (laneUnit port lane) port w true) := by
  rw [State.deliverBad, if_neg (by rw [hrmw]; simp; omega), if_neg (by omega)]
  dsimp only
  rw [hj]

theorem State.deliverBad_noReader (hj : (s.core c).readingJob port (laneUnit port lane) = none) :
    s.deliverBad c w port lane rmw = s.coreFault c (laneUnit port lane) (poisonRec 0 0 (laneUnit port lane) port w true) := by
  rw [State.deliverBad, if_neg (by rw [hrmw]; simp; omega), if_neg (by omega)]
  dsimp only
  rw [hj]

end

theorem State.eccRecorded_page : (s.eccRecorded c w port lane rmw f).pg (.sto c) PG_ERR_CODE = 0x0301 ∧
    (s.eccRecorded c w port lane rmw f).pg (.sto c) PG_ERR_INFO0 = w32 w ∧
    bit ((s.eccRecorded c w port lane rmw f).pg (.sto c) PG_EVT_RAW) EVT_ERR = true := by
  obtain ⟨hcode, hinfo, -⟩ := State.record_page ((s.setStoWord c w (s.asRead c w f)).bump (.sto c) 4 1) (.sto c)
    (mkRec 0x0301 w (port + bn rmw <<< 3 + lane <<< 4 + shelfOf w <<< 8) 0 0)
  exact ⟨hcode, hinfo, State.bit_raw_event _ _ EVT_ERR (by decide)⟩

end

end Sys2Proof.Machine
end

section
/-! An uncorrectable burst of the attic (R327, R343). -/

namespace Sys2Proof.Machine
open Sys2Proof

/-! ## Words rewritten with poison -/

/-- A word is rewritten with poison, its data as read; one that is poisoned already stays. -/
def Mem.poisonWord (m : Mem) (e : Nat × W64) : Mem :=
  if m.poisonAt e.1 then m else (m.setBytes (8 * e.1) (toLe 8 ((m.word e.1).data ^^^ e.2).toNat)).setPoison e.1 true

/-- Rewriting words changes memory alone. -/
theorem State.poisonWords_eq (s : State) (ws : List (Nat × W64)) : s.poisonWords ws = s.modMem fun m => ws.foldl Mem.poisonWord m := by
  induction ws generalizing s with
  | nil => rfl
  | cons e r ih => exact ih (s.modMem fun m => m.poisonWord e)

/-- The data of a word are those of its bytes. -/
theorem Mem.word_data_congr {m n : Mem} {w : Nat} (h : ∀ i, i < 8 → m.byte (8 * w + i) = n.byte (8 * w + i)) :
    (m.word w).data = (n.word w).data := by
  have hbytes : ((List.range 8).map fun i => m.byte (8 * w + i)) = (List.range 8).map fun i => n.byte (8 * w + i) :=
    List.map_congr_left fun i hi => h i (List.mem_range.1 hi)
  rw [Mem.word, Mem.word, hbytes]

section
variable (m : Mem) (e : Nat × W64)

theorem Mem.byte_poisonWord_other {b : Nat} (h : b / 8 ≠ e.1) : (m.poisonWord e).byte b = m.byte b := by
  rw [Mem.poisonWord]
  split
  · rfl
  · rw [Mem.byte_setPoison, Mem.byte_setBytes, toLe_length, if_neg (by omega)]

theorem Mem.feAt_poisonWord (w : Nat) : (m.poisonWord e).feAt w = m.feAt w := by
  rw [Mem.poisonWord]
  split
  · rfl
  · rw [Mem.feAt_setPoison, Mem.feAt_setBytes]

theorem Mem.poisonAt_poisonWord (w : Nat) : (m.poisonWord e).poisonAt w = (w == e.1 || m.poisonAt w) := by
  rw [Mem.poisonWord]
  split
  next hp =>
    by_cases h : w = e.1
    · rw [h, hp, Bool.or_true]
    · simp [h]
  · by_cases h : w = e.1 <;> simp [h]

theorem Mem.data_poisonWord_other {w : Nat} (h : w ≠ e.1) : ((m.poisonWord e).word w).data = (m.word w).data :=
  Mem.word_data_congr fun i hi => m.byte_poisonWord_other e (by omega)

theorem Mem.data_poisonWord_same : ((m.poisonWord e).word e.1).data =
    if m.poisonAt e.1 then (m.word e.1).data else (m.word e.1).data ^^^ e.2 := by
  rw [Mem.poisonWord]
  split
  · rfl
  · exact congrArg StoWord.data (m.word_setWord e.1 { data := (m.word e.1).data ^^^ e.2, fe := false, poison := false })

end

section
variable (ws : List (Nat × W64)) (m : Mem)

theorem Mem.byte_poisonWords {b : Nat} (h : ∀ e ∈ ws, b / 8 ≠ e.1) : (ws.foldl Mem.poisonWord m).byte b = m.byte b := by
  induction ws generalizing m with
  | nil => rfl
  | cons e r ih => exact (ih _ fun d hd => h d (.tail _ hd)).trans (m.byte_poisonWord_other e (h e (.head _)))

theorem Mem.feAt_poisonWords (w : Nat) : (ws.foldl Mem.poisonWord m).feAt w = m.feAt w :=
  foldl_keeps (fun n : Mem => n.feAt w = m.feAt w) _ (fun n e hn => (n.feAt_poisonWord e w).trans hn) ws m rfl

theorem Mem.poisonAt_poisonWords (w : Nat) : (ws.foldl Mem.poisonWord m).poisonAt w = ((ws.any fun e => w == e.1) || m.poisonAt w) := by
  induction ws generalizing m with
  | nil => rfl
  | cons e r ih =>
    rw [List.foldl_cons, ih, Mem.poisonAt_poisonWord, List.any_cons, Bool.or_left_comm, Bool.or_assoc]

/-- Of words that are all different, each is rewritten once. -/
theorem Mem.data_poisonWords (hdis : (ws.map (·.1)).Nodup) {e : Nat × W64} (he : e ∈ ws) :
    ((ws.foldl Mem.poisonWord m).word e.1).data = if m.poisonAt e.1 then (m.word e.1).data else (m.word e.1).data ^^^ e.2 := by
  induction ws generalizing m with
  | nil => cases he
  | cons d r ih =>
    rw [List.map_cons, List.nodup_cons] at hdis
    obtain ⟨hd, hr⟩ := hdis
    rw [List.foldl_cons]
    rcases List.mem_cons.1 he with rfl | hin
    · have hrest : ∀ b ∈ r, e.1 ≠ b.1 := fun b hb h => hd (List.mem_map.2 ⟨b, hb, h.symm⟩)
      rw [← m.data_poisonWord_same e]
      exact Mem.word_data_congr fun i hi => Mem.byte_poisonWords r _ fun b hb => by have := hrest b hb; omega
    · have hne : e.1 ≠ d.1 := fun h => hd (List.mem_map.2 ⟨e, hin, h⟩)
      rw [ih _ hr hin, Mem.poisonAt_poisonWord, m.data_poisonWord_other d hne, beq_false_of_ne hne, Bool.false_or]

end

/-! ### The words of a burst -/

/-- The words of a burst from word w on, with the bits of each that flipped. -/
def burst (w : Nat) (fs : List W64) : List (Nat × W64) := fs.zipIdx.map fun (f, i) => (w + i, f)

section
variable (w : Nat) (fs : List W64)

theorem burst_words : (burst w fs).map (·.1) = (List.range fs.length).map (w + ·) := by
  have hix : fs.zipIdx.map (·.2) = List.range fs.length := by rw [List.zipIdx_map_snd, List.range_eq_range']
  rw [← hix, List.map_map, burst, List.map_map]
  rfl

theorem burst_nodup : ((burst w fs).map (·.1)).Nodup := by
  rw [burst_words]
  exact List.nodup_range.map fun i j h => Nat.add_left_cancel h

theorem mem_burst {i : Nat} (hi : i < fs.length) : (w + i, fs.getD i 0) ∈ burst w fs := by
  refine List.mem_map.2 ⟨(fs[i], i), List.mk_mem_zipIdx_iff_getElem?.2 (List.getElem?_eq_getElem hi), ?_⟩
  rw [List.getD_eq_getElem _ _ hi]

theorem mem_burst_words {v : Nat} : v ∈ (burst w fs).map (·.1) ↔ w ≤ v ∧ v < w + fs.length := by
  rw [burst_words, List.mem_map]
  constructor
  · rintro ⟨i, hi, rfl⟩
    have := List.mem_range.1 hi
    omega
  · intro hv
    exact ⟨v - w, List.mem_range.2 (by omega), by omega⟩

/-- Each word of a burst is rewritten with its data as read. -/
theorem Mem.data_burst (m : Mem) {i : Nat} (hi : i < fs.length) : (((burst w fs).foldl Mem.poisonWord m).word (w + i)).data =
    if m.poisonAt (w + i) then (m.word (w + i)).data else (m.word (w + i)).data ^^^ fs.getD i 0 :=
  Mem.data_poisonWords (burst w fs) m (burst_nodup w fs) (e := (w + i, fs.getD i 0)) (mem_burst w fs hi)

theorem any_burst (v : Nat) : ((burst w fs).any fun e => v == e.1) = decide (w ≤ v ∧ v < w + fs.length) := by
  rw [Bool.eq_iff_iff, decide_eq_true_eq, ← mem_burst_words, List.any_eq_true, List.mem_map]
  simp only [beq_iff_eq, eq_comm (a := v)]

end

/-! ## The map of package addresses -/

section
variable {s t : State} (hfuses : t.mgmt.fuses = s.mgmt.fuses) (hcel : ∀ p, t.celSize p = s.celSize p)
include hfuses hcel

theorem State.place_congr (a : Nat) : t.place a = s.place a := by
  simp only [State.place, State.atticSize, State.stacks, State.enabled, hfuses, hcel]
  rfl

theorem State.readPort_congr (b : TxnBody) : t.readPort b = s.readPort b := by
  have hport (a : Nat) : t.celPort a = s.celPort a := by rw [State.celPort, State.place_congr hfuses hcel]; rfl
  simp only [State.readPort, hport]

end

/-! ## The error, recorded and delivered -/

section
variable (s : State) (t : StackId) (a req : Nat) (scrub : Bool) (fs : List W64)

/-- The state when the error of a burst has been recorded. -/
def State.burstRecorded : State :=
  ((s.poisonWords (burst (a / 8) fs)).bump (.att t) 3 1).record (.att t)
    (mkRec 0x0302 a (a >>> 32 % 0x1_0000 + req <<< 16 + bn scrub <<< 23) ((s.atticChannel a).val + atticPseudo a <<< 5) 0)

theorem State.burstRecorded_mem : (s.burstRecorded t a req scrub fs).mem = (burst (a / 8) fs).foldl Mem.poisonWord s.mem := by
  rw [State.burstRecorded, State.counted_record_frame, State.poisonWords_eq]
  rfl

theorem State.burstRecorded_core (c : CoreId) : (s.burstRecorded t a req scrub fs).core c = s.core c := by
  rw [State.burstRecorded, State.counted_record_frame, State.poisonWords_eq]
  rfl

theorem State.burstRecorded_fuses : (s.burstRecorded t a req scrub fs).mgmt.fuses = s.mgmt.fuses := by
  rw [State.burstRecorded, State.mgmt_record, State.bump_frame, State.poisonWords_eq]
  rfl

theorem State.burstRecorded_celSize (p : CelId) : (s.burstRecorded t a req scrub fs).celSize p = s.celSize p := by
  have hkept (o : Nat) (ho : o < 0x1000) (hcnt : PG_CNT_CTRL ≤ o) : (s.burstRecorded t a req scrub fs).pg (.cel p) o = s.pg (.cel p) o := by
    refine (State.pg_record_frame _ _ _ ho (.inl (by nofun)) (.inl (by nofun))).trans ?_
    rw [State.pg_bump _ _ _ _ _ _ (by decide) ho (.inl (by nofun)), State.poisonWords_eq]
    rfl
  rw [State.celSize, State.celSize, hkept _ (by decide) (by decide), hkept _ (by decide) (by decide)]

theorem State.burstRecorded_page : (s.burstRecorded t a req scrub fs).pg (.att t) PG_ERR_CODE = 0x0302 ∧
    (s.burstRecorded t a req scrub fs).pg (.att t) PG_ERR_INFO0 = w32 a := by
  obtain ⟨hcode, hinfo, -⟩ := State.record_page ((s.poisonWords (burst (a / 8) fs)).bump (.att t) 3 1) (.att t)
    (mkRec 0x0302 a (a >>> 32 % 0x1_0000 + req <<< 16 + bn scrub <<< 23) ((s.atticChannel a).val + atticPseudo a <<< 5) 0)
  exact ⟨hcode, hinfo⟩

theorem State.atticUncorrected_eq (tag : Option TagId) (haln : a % 8 = 0) (hline : a / 8 % 8 + fs.length ≤ 8) (hattic : s.place a = .attic)
    (hstack : s.atticStack a = t) (hscrub : scrub = true → s.patrolled t (s.atticChannel a) = some (a / 64))
    (hnew : ∃ i, i < fs.length ∧ s.mem.poisonAt (a / 8 + i) = false) : s.atticUncorrected t a req tag scrub fs =
      (s.burstRecorded t a req scrub fs).deliverRead ((burst (a / 8) fs).map (·.1)) req (if scrub then none else tag) := by
  obtain ⟨i, hi, hclean⟩ := hnew
  have hall : ¬((burst (a / 8) fs).all fun e => s.mem.poisonAt e.1) = true := fun h => by
    have hp := List.all_eq_true.1 h _ (mem_burst (a / 8) fs hi)
    rw [hclean] at hp
    cases hp
  refine if_neg ?_
  rintro (h | h | h | h | h | ⟨hs, h⟩)
  · exact h haln
  · omega
  · exact h hattic
  · exact h hstack
  · exact hall h
  · exact h (hscrub hs)

end

/-! ### The read that found the error -/

/-- A transaction is found by its tag, changed. -/
theorem State.find?_modTxn (s : State) (c : CoreId) (g : Nat) (f : Txn → Txn) (hf : ∀ x, (f x).tag = x.tag) {x : Txn}
    (hx : (s.core c).txns.find? (fun t => t.tag == g) = some x) :
    ((s.modTxn c g f).core c).txns.find? (fun t => t.tag == g) = some (f x) := by
  have htag : x.tag = g := by simpa using List.find?_some hx
  have hsame : ((fun t : Txn => t.tag == g) ∘ fun t => if t.tag = g then f t else t) = fun t => t.tag == g := by
    funext y
    rw [Function.comp_apply]
    split
    · rw [hf]
    · rfl
  rw [State.modTxn, State.core_modCore, List.find?_map, hsame, hx, Option.map_some, if_pos htag]

/-- Counting an access changes counters. -/
theorem State.pg_countAccess (s : State) (a n : Nat) {i : Nat} (hi : i < 24) (q : Page) {o : Nat} (ho : o < 0x40) :
    (s.countAccess a n i).pg q o = s.pg q o := by
  rw [State.countAccess]
  split
  · exact State.pg_bump _ _ _ _ _ _ hi (by omega) (.inr (.inl ho))
  · exact State.pg_bump _ _ _ _ _ _ hi (by omega) (.inr (.inl ho))
  · rfl

theorem State.pg_countReads (s : State) (c : CoreId) (x : Txn) (q : Page) {o : Nat} (ho : o < 0x40) :
    (s.countReads c x).pg q o = s.pg q o := by
  rw [State.countReads]
  split
  · rfl
  · refine foldl_keeps (fun t : State => t.pg q o = s.pg q o) _ (fun t e ht => ?_) _ s rfl
    exact ((State.pg_countAccess _ _ _ (by decide) q ho).trans
      (State.pg_bump _ _ _ _ _ _ (by decide) (by omega) (.inr (.inl ho)))).trans ht

theorem State.receive_kept (s : State) (c : CoreId) (x : Txn) (d : List (Byte × Bool)) : (s.receive c x d).mem = s.mem ∧
    (s.receive c x d).mgmt = s.mgmt ∧ (∀ p, (s.receive c x d).celSize p = s.celSize p) ∧
    ∀ (q : Page) (o : Nat), o < 0x40 → (s.receive c x d).pg q o = s.pg q o :=
  have hreads := Counted.countReads s c x
  ⟨hreads.mem, hreads.mgmt, hreads.celSize, fun q _ ho => s.pg_countReads c x q ho⟩

/-- The data that a transaction reads now, when they have been received. -/
theorem State.txnData_receive (s : State) (c : CoreId) {x : Txn} (hgot : x.got = none) (d : List (Byte × Bool)) :
    (s.receive c x d).txnData x = s.txnData x := by
  obtain ⟨hmem, hmgmt, hcel, -⟩ := s.receive_kept c x d
  have hmap (a n : Nat) : (s.receive c x d).mapped a n = s.mapped a n := by
    simp only [State.mapped, State.place_congr (congrArg Mgmt.fuses hmgmt) hcel]
  simp only [State.txnData, hgot, State.txnRead, hmap, hmem]

theorem State.find?_receive {s : State} {c : CoreId} {g : TagId} {x : Txn} (hx : (s.core c).txns.find? (fun t => t.tag == g.val) = some x)
    (d : List (Byte × Bool)) :
    ((s.receive c x d).core c).txns.find? (fun t => t.tag == g.val) = some { x with got := some d } := by
  have htag : x.tag = g.val := by simpa using List.find?_some hx
  have hmod : s.receive c x d = (s.countReads c x).modTxn c g.val fun t => { t with got := some d } :=
    congrArg (fun k => (s.countReads c x).modTxn c k fun t => { t with got := some d }) htag
  rw [hmod]
  exact State.find?_modTxn (s.countReads c x) c g (fun t => { t with got := some d }) (fun _ => rfl)
    (by rw [(Counted.countReads s c x).core]; exact hx)

section
variable {s : State} {c : CoreId} {g : TagId} {x : Txn} (ws : List Nat)

/-- What a delivery changes: counters and the transaction. -/
theorem State.deliverRead_kept (s : State) (req : Nat) (tag : Option TagId) :
    (s.deliverRead ws req tag).mem = s.mem ∧ ∀ (q : Page) (o : Nat), o < 0x40 → (s.deliverRead ws req tag).pg q o = s.pg q o := by
  unfold State.deliverRead
  cases tag with
  | none => exact ⟨rfl, fun _ _ _ => rfl⟩
  | some t =>
    dsimp only
    split
    · exact ⟨rfl, fun _ _ _ => rfl⟩
    split
    next x _ =>
      split
      · split
        · obtain ⟨hmem, -, -, hpg⟩ := s.receive_kept (Fin.ofNat 64 req) x (s.txnData x)
          exact ⟨hmem, hpg⟩
        · exact ⟨rfl, fun _ _ _ => rfl⟩
      · split
        · exact ⟨rfl, fun _ _ _ => rfl⟩
        · exact ⟨rfl, fun _ _ _ => rfl⟩
    · exact ⟨rfl, fun _ _ _ => rfl⟩

variable (hx : (s.core c).txns.find? (fun t => t.tag == g.val) = some x)
include hx

theorem State.deliverRead_new (hgot : x.got = none) (hport : s.readPort x.body = none) :
    s.deliverRead ws c.val (some g) = s.receive c x (s.txnData x) := by
  have hcore : Fin.ofNat 64 c.val = c := Fin.ofNat_val_eq_self c
  have hlow : ¬64 ≤ c.val := by omega
  simp only [State.deliverRead, if_neg hlow, hcore, hx, hgot, hport, Option.isNone_none, if_true]

theorem State.deliverRead_again {d : List (Byte × Bool)} (hgot : x.got = some d) (hwrote : x.wrote = false) :
    s.deliverRead ws c.val (some g) = s.modTxn c g.val fun t => { t with got := some (s.freshen x ws d) } := by
  have htag : x.tag = g.val := by simpa using List.find?_some hx
  refine Eq.trans ?_ (congrArg (fun k => s.modTxn c k fun t => { t with got := some (s.freshen x ws d) }) htag)
  have hcore : Fin.ofNat 64 c.val = c := Fin.ofNat_val_eq_self c
  have hlow : ¬64 ≤ c.val := by omega
  simp only [State.deliverRead, if_neg hlow, hcore, hx, hgot, hwrote, Bool.false_eq_true, if_false]

end

/-- What a read of one run delivers again: the words of the error as memory has them, the others as they were. -/
theorem State.getD_freshen (s : State) {x : Txn} {ws : List Nat} {d : List (Byte × Bool)} {r n i : Nat} (hreads : x.body.reads = [(r, n)])
    (hlen : d.length = n) (hi : i < n) (hmap : s.mapped r n = true) : (s.freshen x ws d).getD i (0, false) =
      if (r + i) / 8 ∈ ws then (s.mem.read x.key r n).getD i (0, false) else d.getD i (0, false) := by
  have hread : s.txnRead x r n = s.mem.read x.key r n := if_pos hmap
  have hn : (s.mem.read x.key r n).length = n := by simp [Mem.read]
  have hz : i < (List.zipWith (fun (p : Nat × Byte × Bool) (o : Byte × Bool) => if ws.contains (p.1 / 8) then p.2 else o)
      ((s.mem.read x.key r n).zipIdx.map fun b => (r + b.2, b.1)) d).length := by
    simp [hn, hlen, hi]
  rw [State.freshen, hreads, List.flatMap_singleton, hread, List.getD_eq_getElem _ _ hz, List.getElem_zipWith,
    List.getD_eq_getElem _ _ (by omega), List.getD_eq_getElem _ _ (by omega)]
  simp

end Sys2Proof.Machine
end

section
/-! The grants of shelves and arbiters (R269, R277, R278, R341, R343), and what the rows of the memory arrays do. -/

namespace Sys2Proof.Machine
open Sys2Proof

/-! ## One bc of a shelf -/

section
variable {s : State} {c : CoreId} {h : ShelfId} {l : List ShelfAcc}

theorem State.shelfStep_lock {a : ShelfAcc} (hlock : (((s.core c).shelves[h]).present h l).lock = some a) : s.shelfStep c h l =
    (s.modCore c fun k => { k with shelves := k.shelves.set h ((((s.core c).shelves[h]).present h l).second a) }).shelfCount c
      (((s.core c).shelves[h]).present h l).asking (!s.bound c h a.port) false := by
  simp only [State.shelfStep, hlock]

variable (hlock : (((s.core c).shelves[h]).present h l).lock = none)
include hlock

theorem State.shelfStep_none (hg : (((s.core c).shelves[h]).present h l).grant (s.bound c h) = none) : s.shelfStep c h l =
    (s.modCore c fun k => { k with shelves := k.shelves.set h ((((s.core c).shelves[h]).present h l).after none) }).shelfCount c
      (((s.core c).shelves[h]).present h l).asking false false := by
  simp only [State.shelfStep, hlock, hg]

theorem State.shelfStep_port {p : Fin 5} {aged : Bool} (hg : (((s.core c).shelves[h]).present h l).grant (s.bound c h) = some (.port p aged)) :
    s.shelfStep c h l =
    (s.modCore c fun k =>
      { k with shelves := k.shelves.set h ((((s.core c).shelves[h]).present h l).after (some (.port p aged))) }).shelfCount c
      (((s.core c).shelves[h]).present h l).asking (!s.bound c h p) aged := by
  simp only [State.shelfStep, hlock, hg]

theorem State.shelfStep_scrubber {aged : Bool} (hg : (((s.core c).shelves[h]).present h l).grant (s.bound c h) = some (.scrubber aged)) :
    s.shelfStep c h l =
    (s.modCore c fun k =>
      { k with shelves := k.shelves.set h ((((s.core c).shelves[h]).present h l).after (some (.scrubber aged))) }).shelfCount c
      (((s.core c).shelves[h]).present h l).asking false aged := by
  simp only [State.shelfStep, hlock, hg]

end

/-! ## One grant of an arbiter -/

section
variable (s : State) (a : ArbId) (arrived : List ArbReq) (ns ce : Nat)

/-- The arbiter with what has arrived. -/
def State.arbNow : Arbiter := { s.arbs[arbIndex a] with waiting := s.arrivals a (s.arbs[arbIndex a]) arrived ns }

def State.putArb (b : Arbiter) : State := { s with arbs := s.arbs.set (arbIndex a) b }

theorem State.arbStep_eq : s.arbStep a arrived ns ce =
    if (s.arbNow a arrived ns).refresh then s.putArb a { s.arbNow a arrived ns with refresh := false, granted := none }
    else match s.arbGrant a (s.arbNow a arrived ns) with
      | none => s.putArb a { s.arbNow a arrived ns with granted := none }
      | some (q, aged, v) => (s.putArb a v).arbActs a (s.arbNow a arrived ns).count q aged ce := rfl

theorem State.arbStep_refresh (h : (s.arbNow a arrived ns).refresh = true) :
    s.arbStep a arrived ns ce = s.putArb a { s.arbNow a arrived ns with refresh := false, granted := none } := by
  rw [State.arbStep_eq, if_pos h]

theorem State.arbStep_none (hr : (s.arbNow a arrived ns).refresh = false) (h : s.arbGrant a (s.arbNow a arrived ns) = none) :
    s.arbStep a arrived ns ce = s.putArb a { s.arbNow a arrived ns with granted := none } := by
  rw [State.arbStep_eq, hr, if_neg Bool.false_ne_true, h]

theorem State.arbStep_some (hr : (s.arbNow a arrived ns).refresh = false) {q : ArbReq} {aged : Bool} {v : Arbiter}
    (h : s.arbGrant a (s.arbNow a arrived ns) = some (q, aged, v)) :
    s.arbStep a arrived ns ce = (s.putArb a v).arbActs a (s.arbNow a arrived ns).count q aged ce := by
  rw [State.arbStep_eq, hr, if_neg Bool.false_ne_true, h]

/-- The counters of a grant (R347). -/
def State.arbCounted (aged : Bool) : State :=
  match a with
  | .attic t _ => (s.bump (arbPage a) 4 (bn aged)).bump (.att t) 2 ce
  | .cellar _ => s.bump (arbPage a) 4 (bn aged)

variable {q : ArbReq} (n : Nat) (aged : Bool)

theorem State.arbActs_counted (h : q.tag = none ∨ 64 ≤ q.req.val) : s.arbActs a n q aged ce = s.arbCounted a ce aged := by
  cases a <;> cases htag : q.tag <;> simp only [State.arbActs, State.arbCounted, htag]
  all_goals exact if_neg (by rw [htag] at h; simpa using h)

theorem State.arbActs_granted {t : TagId} (htag : q.tag = some t) (h : q.req.val < 64) :
    s.arbActs a n q aged ce = (s.arbCounted a ce aged).grantTxn a n (Fin.ofNat 64 q.req.val) t.val := by
  cases a <;> simp only [State.arbActs, State.arbCounted, htag, if_pos h]

end

/-! ## The transaction granted -/

section
variable {s : State} {c : CoreId} {m tag : Nat} {x : Txn} (hx : (s.core c).txns.find? (fun x => x.tag == tag) = some x)
include hx

theorem State.grantTxn_cellar (p : CelId) : s.grantTxn (.cellar p) m c tag =
    if x.cel = some p ∧ x.turn = none then s.modTxn c tag fun t => { t with turn := some m } else s := by
  simp only [State.grantTxn, hx]

variable {t : StackId} {ch : Fin 32}

theorem State.grantTxn_read {r n : Nat} (hgot : x.got = none) (hreads : x.body.reads = [(r, n)]) (hat : s.arbAt r = some (.attic t ch)) :
    s.grantTxn (.attic t ch) m c tag = s.receive c x (s.txnData x) := by
  simp [State.grantTxn, hx, hgot, hreads, hat]

theorem State.grantTxn_write {d n : Nat} (hcel : x.cel = none) (hgot : x.got ≠ none) (hwrote : x.wrote = false)
    (hw : x.body.writes c = some (d, n)) (hat : s.arbAt d = some (.attic t ch)) (hmay : s.mayWrite1 c x = true) :
    s.grantTxn (.attic t ch) m c tag = s.writeNow c x := by
  simp [State.grantTxn, hx, hcel, hgot, hwrote, hw, hat, hmay]

end

/-! ## The rows -/

/-- The command whose read a port makes, found among a unit's. -/
theorem Core.readingJob_eq (k : Core) {port : Nat} (u : Nat) : k.readingJob port u =
    if port = 0 then (((k.unit u).exec.find? reading).orElse fun _ => (k.unit u).queue.find? isTile).orElse fun _ => (k.unit u).exec.find? isTile
    else if port = 1 then ((k.unit u).exec.find? isBuild).orElse fun _ => (k.unit u).queue.find? isBuild
    else ((k.unit u).exec.find? fun _ => true).orElse fun _ => (k.unit u).queue.find? fun _ => true := by
  have hhead (l : List Job) : (l.find? fun _ => true) = l.head? := by cases l <;> rfl
  have horder (a b d : Option Job) : ((a.orElse fun _ => b).orElse fun _ => d) = a.orElse fun _ => b.orElse fun _ => d := by cases a <;> rfl
  rw [hhead, hhead, horder]
  rfl

section
variable {v : State} {c : CoreId} {g : TagId} {x : Txn} (w : Nat) (fs : List W64)
  (hx : (v.core c).txns.find? (fun t => t.tag == g.val) = some x)
include hx

/-- A transaction that had no data yet receives those that it reads now. -/
theorem State.find?_deliverRead_new (hgot : x.got = none) (hport : v.readPort x.body = none) :
    ((v.deliverRead ((burst w fs).map (·.1)) c.val (some g)).core c).txns.find? (fun t => t.tag == g.val) =
      some { x with got := some ((v.deliverRead ((burst w fs).map (·.1)) c.val (some g)).txnData x) } := by
  rw [State.deliverRead_new _ hx hgot hport, State.txnData_receive v c hgot]
  exact State.find?_receive hx _

/-- One whose data were there delivers the words of the burst anew. -/
theorem State.find?_deliverRead_again {d : List (Byte × Bool)} (hgot : x.got = some d) (hwrote : x.wrote = false) :
    ∃ e, ((v.deliverRead ((burst w fs).map (·.1)) c.val (some g)).core c).txns.find? (fun t => t.tag == g.val) = some { x with got := some e } ∧
      ∀ r n i, x.body.reads = [(r, n)] → d.length = n → i < n →
        (v.deliverRead ((burst w fs).map (·.1)) c.val (some g)).mapped r n = true →
        e.getD i (0, false) = if w ≤ (r + i) / 8 ∧ (r + i) / 8 < w + fs.length then
          ((v.deliverRead ((burst w fs).map (·.1)) c.val (some g)).mem.read x.key r n).getD i (0, false) else d.getD i (0, false) := by
  refine ⟨v.freshen x ((burst w fs).map (·.1)) d, ?_, fun r n i hreads hlen hi hmap => ?_⟩
  · rw [State.deliverRead_again _ hx hgot hwrote]
    exact State.find?_modTxn v c g (fun t => { t with got := some (v.freshen x ((burst w fs).map (·.1)) d) }) (fun _ => rfl) hx
  · rw [State.deliverRead_again _ hx hgot hwrote] at hmap ⊢
    rw [State.getD_freshen v hreads hlen hi hmap]
    simp only [mem_burst_words]
    rfl

end

/-- The words of a burst when its error has been recorded and delivered (R327). -/
theorem State.mem_deliverRead_burst (s : State) (t : StackId) (a req : Nat) (scrub : Bool) (fs : List W64) (tag : Option TagId) {u : State}
    (hu : u = (s.burstRecorded t a req scrub fs).deliverRead ((burst (a / 8) fs).map (·.1)) req tag) :
    u.mem = (burst (a / 8) fs).foldl Mem.poisonWord s.mem ∧ u.pg (.att t) PG_ERR_CODE = 0x0302 ∧ u.pg (.att t) PG_ERR_INFO0 = w32 a := by
  obtain ⟨hcode, hinfo⟩ := s.burstRecorded_page t a req scrub fs
  obtain ⟨hkept, hpg⟩ := State.deliverRead_kept ((burst (a / 8) fs).map (·.1)) (s.burstRecorded t a req scrub fs) req tag
  rw [hu, hkept, hpg _ _ (by decide), hpg _ _ (by decide), State.burstRecorded_mem]
  exact ⟨rfl, hcode, hinfo⟩

/-- Settles O44: each row by what it does to the array, the shelf, the channel or the arbiter. -/
theorem memoryArrays : Obligations.MemoryArrays := by
  unfold Obligations.MemoryArrays
  refine ⟨⟨fun c s hup => ⟨fun w p fl hport => ?corrected, fun h => ?writeback, fun w p l rmw fl hport => ?uncorrectable, fun h => ?scrub⟩,
    fun t a req tag scrub fs s hup => ?burst⟩,
    fun c h l s hup => ?shelf, fun t ch s hup => ?channel, fun a arrived ns ce s hup => ?arbiter, fun c m tag x s hx => ?granted⟩
  case corrected =>
    rw [exec_storeroomEccCorrected hup w p fl hport]
    exact ⟨fun hone => congrArg _ (if_pos hone), fun hnot => congrArg _ (if_neg hnot)⟩
  case writeback =>
    rw [exec_correctionWriteback hup]
    refine ⟨fun e hw hl hs he => congrArg _ (s.writeBack_idle c h ((Shelf.idle_iff _).2 ⟨hw, hl, hs⟩) he),
      fun hbusy => congrArg _ (if_neg fun hidle => ?_)⟩
    obtain ⟨hw, hl, hs⟩ := (Shelf.idle_iff _).1 hidle
    tauto
  case scrub =>
    rw [exec_storeroomScrub hup]
    exact ⟨fun hoff => congrArg _ (if_pos hoff), fun hon => congrArg _ (s.scrub_eq c h hon)⟩
  case uncorrectable =>
    rw [exec_stoEccUncorr hup w p l rmw fl hport, State.eccUncorrected_eq]
    intro f x u n
    obtain ⟨hmem, hcores, hloft⟩ : u.mem = s.mem.setWord (stoWord c w.toNat) (s.asRead c w.toNat f) ∧ u.cores = s.cores ∧ u.loft = s.loft :=
      s.eccRecorded_kept c w.toNat p.toNat l.toNat rmw f
    obtain ⟨hcode, hinfo, hraw⟩ := s.eccRecorded_page c w.toNat p.toNat l.toNat rmw f
    have hunit : laneUnit p.toNat l.toNat = n := by
      have hp2 : p.toNat = 2 ↔ p = 2 := ⟨fun h => BitVec.eq_of_toNat_eq h, fun h => by rw [h]; rfl⟩
      simp only [laneUnit, hp2, n]
    refine ⟨fun hfew => congrArg _ (if_neg (Nat.not_le.2 hfew)), ?_⟩
    intro first reader
    have hreader : (u.core c).readingJob p.toNat (laneUnit p.toNat l.toNat) = reader := by
      have hcore : u.core c = s.core c := congrArg (·[c]) hcores
      have hp0 : p.toNat = 0 ↔ p = 0 := ⟨fun h => BitVec.eq_of_toNat_eq h, fun h => by rw [h]; rfl⟩
      have hp1 : p.toNat = 1 ↔ p = 1 := ⟨fun h => BitVec.eq_of_toNat_eq h, fun h => by rw [h]; rfl⟩
      rw [hcore, hunit, Core.readingJob_eq]
      simp only [hp0, hp1, reader, first]
    refine ⟨fun h hno => congrArg _ ((if_pos h).trans (State.deliverBad_none u c w.toNat p.toNat l.toNat rmw ?_)),
      fun h hrmw hp => congrArg _ ((if_pos h).trans ?_),
      fun h hrmw hp => ⟨fun j hj => congrArg _ ((if_pos h).trans ?_), fun hnone => congrArg _ ((if_pos h).trans ?_)⟩,
      ?_, fun a ha => ?_, fun v hv => ⟨?_, ?_, ?_⟩, ?_, hcode, hinfo, hraw, hcores, hloft⟩
    · exact hno.imp_right (.imp (fun hp => by rw [hp]; rfl) fun hp => by rw [hp]; rfl)
    · subst hp
      exact State.deliverBad_mesh u c w.toNat l.toNat rmw hrmw
    · rw [← hunit]
      exact State.deliverBad_reader u c w.toNat p.toNat l.toNat rmw hrmw hp (hreader.trans hj)
    · rw [← hunit]
      exact State.deliverBad_noReader u c w.toNat p.toNat l.toNat rmw hrmw hp (hreader.trans hnone)
    · rw [State.stoWordAt, hmem, Mem.word_setWord]
      rfl
    · rw [hmem, Mem.byte_setWord_other _ _ _ _ ha]
    · rw [hmem, Mem.feAt_setWord_other _ _ hv]
    · rw [hmem, Mem.poisonAt_setWord_other _ _ hv]
    · rw [hmem, Mem.flipsAt_setWord_other _ _ hv]
    · rw [hmem, Mem.flipsAt_setWord_same]
  case burst =>
    have hexec : exec (.atticEccUncorr t a req tag scrub fs) s = .next (s.atticUncorrected t a.toNat req.toNat tag scrub fs) :=
      congrArg Host.Outcome.next (if_pos hup)
    refine ⟨fun hs hfar => hexec.trans (congrArg _ (if_pos (.inr (.inr (.inr (.inr (.inr ⟨hs, hfar⟩))))))),
      fun haln hline hattic hstack hscrub hnew => ⟨_, hexec.trans (congrArg _ (s.atticUncorrected_eq t a.toNat req.toNat scrub fs tag haln hline
        hattic hstack hscrub hnew)), ?_⟩⟩
    generalize hu : (s.burstRecorded t a.toNat req.toNat scrub fs).deliverRead ((burst (a.toNat / 8) fs).map (·.1)) req.toNat
      (if scrub then none else tag) = u
    obtain ⟨hmem, hcode, hinfo⟩ := s.mem_deliverRead_burst t a.toNat req.toNat scrub fs _ hu.symm
    refine ⟨fun i hi => ⟨?_, ?_⟩, fun b hb => ?_, fun w => ⟨?_, fun hw => ?_⟩, hcode, hinfo, fun c g x hs hreq htag hx => ?_⟩
    · rw [hmem, Mem.poisonAt_poisonWords, any_burst, decide_eq_true (by omega), Bool.true_or]
    · rw [hmem, Mem.data_burst _ fs _ hi]
    · rw [hmem]
      refine Mem.byte_poisonWords _ _ fun e he hw => ?_
      have hin := (mem_burst_words (a.toNat / 8) fs).1 (List.mem_map.2 ⟨e, he, rfl⟩)
      omega
    · rw [hmem, Mem.feAt_poisonWords]
    · rw [hmem, Mem.poisonAt_poisonWords, any_burst, decide_eq_false (by omega), Bool.false_or]
    · rw [hs, if_neg Bool.false_ne_true, hreq, htag] at hu
      have hport := State.readPort_congr (s.burstRecorded_fuses t a.toNat c.val false fs) (s.burstRecorded_celSize t a.toNat c.val false fs) x.body
      rw [← s.burstRecorded_core t a.toNat c.val false fs] at hx
      rw [← hu, ← hport]
      exact ⟨State.find?_deliverRead_new _ fs hx, fun d => State.find?_deliverRead_again _ fs hx⟩
  case shelf =>
    rw [exec_shelfGrant hup]
    exact ⟨fun a hlock => congrArg _ (State.shelfStep_lock hlock), fun hlock => ⟨fun hg => congrArg _ (State.shelfStep_none hlock hg),
      fun p aged hg => congrArg _ (State.shelfStep_port hlock hg), fun aged hg => congrArg _ (State.shelfStep_scrubber hlock hg)⟩⟩
  case channel =>
    have hpatrol (cor : Bool) : exec (.atticPatrolScrub t ch cor) s = .next (s.patrolStep t ch cor) := congrArg Host.Outcome.next (if_pos hup)
    refine ⟨congrArg Host.Outcome.next (if_pos hup), fun cor hoff => ?_, fun cor hon => ?_⟩
    · rw [hpatrol]
      exact congrArg _ (if_pos hoff)
    · rw [hpatrol]
      exact congrArg _ (if_neg hon)
  case arbiter =>
    have hexec : exec (.arbiterGrant a arrived ns ce) s = .next (s.arbStep a arrived ns ce) := by
      cases a <;> exact congrArg Host.Outcome.next (if_pos hup)
    rw [hexec]
    refine ⟨fun hr => congrArg _ (s.arbStep_refresh a arrived ns ce hr),
      fun hr hw => congrArg _ (s.arbStep_none a arrived ns ce hr (State.arbGrant_of_empty hw)), fun hr q aged v hg => ?_⟩
    rw [s.arbStep_some a arrived ns ce hr hg]
    refine ⟨fun hno => congrArg _ ?_, fun t htag hlow => congrArg _ ?_⟩
    · rw [State.arbActs_counted _ a ce _ aged hno]
      cases a <;> rfl
    · rw [State.arbActs_granted _ a ce _ aged htag hlow]
      cases a <;> rfl
  case granted =>
    refine ⟨fun p => ⟨fun hcel hturn => ?_, fun hnot => ?_⟩, fun t ch =>
      ⟨fun r n hgot hreads hat => State.grantTxn_read hx hgot hreads hat,
        fun d n hcel hgot hwrote hw hat hmay => State.grantTxn_write hx hcel hgot hwrote hw hat hmay⟩⟩
    · rw [State.grantTxn_cellar hx, if_pos ⟨hcel, hturn⟩]
    · rw [State.grantTxn_cellar hx, if_neg (by tauto)]

end Sys2Proof.Machine
end
